-- ==== Sys2Proof/Word.lean ====
section
/-!
DEFINITION. The word types of the device and the two sparse containers the state is built from:
a finite table (register files, queues of a core, cores of the device) and a byte memory.
-/
namespace Sys2Proof

/-- A sequencer scalar register value (R49: 64 bits). -/
abbrev Word := BitVec 64
/-- A byte of memory (R2). -/
abbrev Byte := BitVec 8
/-- A 32-bit instruction word or vector lane value (R45, R18). -/
abbrev Half := BitVec 32
/-- A 6-bit scalar register or semaphore field (R48, R49). -/
abbrev Reg := BitVec 6
/-- A 3-bit predicate field (R49). -/
abbrev Pred := BitVec 3

/-- A finite table: key and value pairs, keys rising; a key not listed holds the table's default. -/
abbrev Tab (α : Type) := List (Nat × α)

/-- A byte memory: the listed bytes, addresses strictly rising; an unlisted address reads as zero,
so no listed byte is zero. DESIGN CHOICE (log 3): what an unlisted byte reads as. -/
abbrev Memory := List Host.Cell

/-- A set of natural numbers held as a strictly rising list (poisoned granules, dirty lines). -/
abbrev NatSet := List Nat

end Sys2Proof
end

