-- ==== Sys2Proof/Syntax.lean ====
section
/-!
DEFINITION. The instructions of the device: sequencer words (spec 03, Tables 3.1 to 3.4), triggered
words (Table 3.7) and the steps of the agents, one constructor per row of the opcode table.
-/
namespace Sys2Proof

/-- The fields of a triggered word other than its op (Table 3.7). -/
structure Trig where
  q : Bool
  pcare : BitVec 8
  pval : BitVec 8
  cen : Bool
  chan : BitVec 5
  tkind : BitVec 2
  mod : BitVec 3
  d : BitVec 10
  a : BitVec 10
  b : BitVec 10
  deriving DecidableEq, Repr

/-- The instructions and the agents' steps of spec/opcode_table.json, one constructor per row. -/
inductive Instr where
  /-- ADD (R282): Writes the 64-bit wrapped sum of two scalar registers. -/
  | add (d : Reg) (a : Reg) (b : Reg) (g : Pred)
  /-- SUB (R282): Writes the 64-bit wrapped difference of two scalar registers. -/
  | sub (d : Reg) (a : Reg) (b : Reg) (g : Pred)
  /-- MUL (R282): Writes the low 64 bits of the product of two scalar registers. -/
  | mul (d : Reg) (a : Reg) (b : Reg) (g : Pred)
  /-- MULH (R282): Writes the high 64 bits of the signed 128-bit product. -/
  | mulh (d : Reg) (a : Reg) (b : Reg) (g : Pred)
  /-- MULHN (R282): Writes the high 64 bits of the unsigned 128-bit product. -/
  | mulhn (d : Reg) (a : Reg) (b : Reg) (g : Pred)
  /-- DIV (R282): Writes the signed quotient, with the divide-by-zero results of Table 2.7. -/
  | div (d : Reg) (a : Reg) (b : Reg) (g : Pred)
  /-- DIVN (R282): Writes the unsigned quotient. -/
  | divn (d : Reg) (a : Reg) (b : Reg) (g : Pred)
  /-- REM (R282): Writes the signed remainder. -/
  | rem (d : Reg) (a : Reg) (b : Reg) (g : Pred)
  /-- REMN (R282): Writes the unsigned remainder. -/
  | remn (d : Reg) (a : Reg) (b : Reg) (g : Pred)
  /-- AND (R282): Writes the bitwise and of two registers. -/
  | and (d : Reg) (a : Reg) (b : Reg) (g : Pred)
  /-- OR (R282): Writes the bitwise or of two registers. -/
  | or (d : Reg) (a : Reg) (b : Reg) (g : Pred)
  /-- XOR (R282): Writes the bitwise exclusive or of two registers. -/
  | xor (d : Reg) (a : Reg) (b : Reg) (g : Pred)
  /-- ANDN (R282): Writes A and not B. -/
  | andn (d : Reg) (a : Reg) (b : Reg) (g : Pred)
  /-- SHL (R282): Shifts left by B modulo 64. -/
  | shl (d : Reg) (a : Reg) (b : Reg) (g : Pred)
  /-- SHR (R282): Shifts right zero-filled by B modulo 64. -/
  | shr (d : Reg) (a : Reg) (b : Reg) (g : Pred)
  /-- SRA (R282): Shifts right sign-filled by B modulo 64. -/
  | sra (d : Reg) (a : Reg) (b : Reg) (g : Pred)
  /-- ROT (R282): Rotates right by B modulo 64. -/
  | rot (d : Reg) (a : Reg) (b : Reg) (g : Pred)
  /-- MIN (R282): Writes the signed smaller of two registers. -/
  | min (d : Reg) (a : Reg) (b : Reg) (g : Pred)
  /-- MAX (R282): Writes the signed larger of two registers. -/
  | max (d : Reg) (a : Reg) (b : Reg) (g : Pred)
  /-- MINN (R282): Writes the unsigned smaller of two registers. -/
  | minn (d : Reg) (a : Reg) (b : Reg) (g : Pred)
  /-- MAXN (R282): Writes the unsigned larger of two registers. -/
  | maxn (d : Reg) (a : Reg) (b : Reg) (g : Pred)
  /-- ADDW (R282): Writes the sign-extended 32-bit wrapped sum. -/
  | addw (d : Reg) (a : Reg) (b : Reg) (g : Pred)
  /-- SUBW (R282): Writes the sign-extended 32-bit wrapped difference. -/
  | subw (d : Reg) (a : Reg) (b : Reg) (g : Pred)
  /-- MULW (R282): Writes the sign-extended low 32 bits of the 32-bit product. -/
  | mulw (d : Reg) (a : Reg) (b : Reg) (g : Pred)
  /-- CLZ (R283): Counts leading zero bits of a register. -/
  | clz (d : Reg) (a : Reg) (g : Pred)
  /-- CTZ (R283): Counts trailing zero bits of a register. -/
  | ctz (d : Reg) (a : Reg) (g : Pred)
  /-- POPC (R283): Counts set bits of a register. -/
  | popc (d : Reg) (a : Reg) (g : Pred)
  /-- SEXT_B (R283): Sign-extends the low byte. -/
  | sextB (d : Reg) (a : Reg) (g : Pred)
  /-- SEXT_H (R283): Sign-extends the low halfword. -/
  | sextH (d : Reg) (a : Reg) (g : Pred)
  /-- SEXT_W (R283): Sign-extends the low word. -/
  | sextW (d : Reg) (a : Reg) (g : Pred)
  /-- ZEXT_B (R283): Zero-extends the low byte. -/
  | zextB (d : Reg) (a : Reg) (g : Pred)
  /-- ZEXT_H (R283): Zero-extends the low halfword. -/
  | zextH (d : Reg) (a : Reg) (g : Pred)
  /-- ZEXT_W (R283): Zero-extends the low word. -/
  | zextW (d : Reg) (a : Reg) (g : Pred)
  /-- REV (R283): Reverses the eight bytes of a register. -/
  | rev (d : Reg) (a : Reg) (g : Pred)
  /-- MOV (R283): Copies one register to another. -/
  | mov (d : Reg) (a : Reg) (g : Pred)
  /-- CMP_EQ (R284): Sets a predicate when two registers are equal. -/
  | cmpEq (p : Pred) (a : Reg) (b : Reg) (g : Pred)
  /-- CMP_NE (R284): Sets a predicate when two registers differ. -/
  | cmpNe (p : Pred) (a : Reg) (b : Reg) (g : Pred)
  /-- CMP_LT (R284): Sets a predicate on signed less-than. -/
  | cmpLt (p : Pred) (a : Reg) (b : Reg) (g : Pred)
  /-- CMP_LTN (R284): Sets a predicate on unsigned less-than. -/
  | cmpLtn (p : Pred) (a : Reg) (b : Reg) (g : Pred)
  /-- CMP_LE (R284): Sets a predicate on signed less-or-equal. -/
  | cmpLe (p : Pred) (a : Reg) (b : Reg) (g : Pred)
  /-- CMP_LEN (R284): Sets a predicate on unsigned less-or-equal. -/
  | cmpLen (p : Pred) (a : Reg) (b : Reg) (g : Pred)
  /-- CMP_BIT (R284): Sets a predicate when A and B share a set bit. -/
  | cmpBit (p : Pred) (a : Reg) (b : Reg) (g : Pred)
  /-- PAND (R285): Writes the and of two predicates. -/
  | pand (p : Pred) (q : Pred) (r : Pred) (g : Pred)
  /-- POR (R285): Writes the or of two predicates. -/
  | por (p : Pred) (q : Pred) (r : Pred) (g : Pred)
  /-- PXOR (R285): Writes the exclusive or of two predicates. -/
  | pxor (p : Pred) (q : Pred) (r : Pred) (g : Pred)
  /-- PANDN (R285): Writes pa and not pb. -/
  | pandn (p : Pred) (q : Pred) (r : Pred) (g : Pred)
  /-- PNOT (R285): Writes the negation of a predicate. -/
  | pnot (p : Pred) (q : Pred) (g : Pred)
  /-- PMOV_X (R285): Sets a predicate when a register is non-zero. -/
  | pmovX (p : Pred) (a : Reg) (g : Pred)
  /-- MOVP_X (R285): Writes 1 or 0 to a register from a predicate. -/
  | movpX (d : Reg) (q : Pred) (g : Pred)
  /-- ADDI (R286): Adds a sign-extended 11-bit immediate. -/
  | addi (d : Reg) (a : Reg) (i : BitVec 11) (g : Pred)
  /-- ANDI (R286): Ands a sign-extended 11-bit immediate. -/
  | andi (d : Reg) (a : Reg) (i : BitVec 11) (g : Pred)
  /-- ORI (R286): Ors a sign-extended 11-bit immediate. -/
  | ori (d : Reg) (a : Reg) (i : BitVec 11) (g : Pred)
  /-- XORI (R286): Exclusive-ors a sign-extended 11-bit immediate. -/
  | xori (d : Reg) (a : Reg) (i : BitVec 11) (g : Pred)
  /-- SHLI (R286): Shifts left by an immediate amount. -/
  | shli (d : Reg) (a : Reg) (n : Reg) (g : Pred)
  /-- SHRI (R286): Shifts right zero-filled by an immediate amount. -/
  | shri (d : Reg) (a : Reg) (n : Reg) (g : Pred)
  /-- SRAI (R286): Shifts right sign-filled by an immediate amount. -/
  | srai (d : Reg) (a : Reg) (n : Reg) (g : Pred)
  /-- ROTI (R286): Rotates right by an immediate amount. -/
  | roti (d : Reg) (a : Reg) (n : Reg) (g : Pred)
  /-- CMPI_EQ (R284): Sets a predicate when a register equals a signed 8-bit immediate. -/
  | cmpiEq (p : Pred) (a : Reg) (i : BitVec 8) (g : Pred)
  /-- CMPI_LT (R284): Sets a predicate on signed less-than an 8-bit immediate. -/
  | cmpiLt (p : Pred) (a : Reg) (i : BitVec 8) (g : Pred)
  /-- CMPI_LTN (R284): Sets a predicate on unsigned less-than an 8-bit immediate. -/
  | cmpiLtn (p : Pred) (a : Reg) (i : BitVec 8) (g : Pred)
  /-- LI (R287): Loads a sign-extended 17-bit immediate. -/
  | li (d : Reg) (i : BitVec 17) (g : Pred)
  /-- LI_L (R287): Loads a sign-extended 48-bit immediate from a long form. -/
  | liL (d : Reg) (hi : BitVec 16) (w2 : Half) (g : Pred)
  /-- LIH_L (R287): Replaces the upper 32 bits of a register. -/
  | lihL (d : Reg) (w2 : Half) (g : Pred)
  /-- ADDI_L (R287): Adds a sign-extended 32-bit immediate. -/
  | addiL (d a : Reg) (w2 : Half) (g : Pred)
  /-- LEA (R288): Writes a + (b shifted left by 0-4). -/
  | lea (d : Reg) (a : Reg) (b : Reg) (n : BitVec 5) (g : Pred)
  /-- SEL (R288): Selects one of two registers by a predicate. -/
  | sel (d : Reg) (a : Reg) (b : Reg) (p : Pred) (g : Pred)
  /-- LD_SP (R129): Loads 1-8 bytes from the sp space, sign- or zero-extended. -/
  | ldSp (d : Reg) (a : Reg) (z : BitVec 3) (o : BitVec 8) (g : Pred)
  /-- ST_SP (R129): Posts a store of 1-8 bytes to the sp space. -/
  | stSp (s : Reg) (a : Reg) (z : BitVec 2) (o : BitVec 8) (g : Pred)
  /-- LD_GL (R129): Loads 1-8 bytes from the global space. -/
  | ldGl (d : Reg) (a : Reg) (z : BitVec 3) (o : BitVec 8) (g : Pred)
  /-- ST_GL (R129): Stores 1-8 bytes to the global space. -/
  | stGl (s : Reg) (a : Reg) (z : BitVec 2) (o : BitVec 8) (g : Pred)
  /-- LD_ACQ (R130): Loads from global memory and makes an acquire at the named scope. -/
  | ldAcq (d : Reg) (a : Reg) (z : BitVec 3) (c : BitVec 3) (g : Pred)
  /-- ST_REL (R130): Makes a release at the named scope and then stores. -/
  | stRel (s : Reg) (a : Reg) (z : BitVec 2) (c : BitVec 3) (g : Pred)
  /-- PF (R130): Prefetches a line into the issuing cluster's slice. -/
  | pf (a : Reg) (c : BitVec 3) (g : Pred)
  /-- CL_WB (R130): Writes back a dirty line and keeps a clean copy. -/
  | clWb (a : Reg) (c : BitVec 3) (g : Pred)
  /-- CL_INV (R130): Removes a clean copy of a line. -/
  | clInv (a : Reg) (c : BitVec 3) (g : Pred)
  /-- CL_WBINV (R130): Writes back a dirty line and removes it. -/
  | clWbinv (a : Reg) (c : BitVec 3) (g : Pred)
  /-- LD_GL_L (R131): Loads from global memory with a 32-bit byte offset. -/
  | ldGlL (d a : Reg) (z : BitVec 3) (w2 : Half) (g : Pred)
  /-- ST_GL_L (R131): Stores to global memory with a 32-bit byte offset. -/
  | stGlL (s a : Reg) (z : BitVec 2) (w2 : Half) (g : Pred)
  /-- AMO_ADD (R134): Atomically adds at the point of execution and returns the old value. -/
  | amoAdd (d a b : Reg) (c : BitVec 3) (r : BitVec 2) (wide : Bool) (g : Pred)
  /-- AMO_AND (R134): Atomically ands and returns the old value. -/
  | amoAnd (d a b : Reg) (c : BitVec 3) (r : BitVec 2) (wide : Bool) (g : Pred)
  /-- AMO_OR (R134): Atomically ors and returns the old value. -/
  | amoOr (d a b : Reg) (c : BitVec 3) (r : BitVec 2) (wide : Bool) (g : Pred)
  /-- AMO_XOR (R134): Atomically exclusive-ors and returns the old value. -/
  | amoXor (d a b : Reg) (c : BitVec 3) (r : BitVec 2) (wide : Bool) (g : Pred)
  /-- AMO_MIN (R134): Atomically keeps the signed minimum and returns the old value. -/
  | amoMin (d a b : Reg) (c : BitVec 3) (r : BitVec 2) (wide : Bool) (g : Pred)
  /-- AMO_MAX (R134): Atomically keeps the signed maximum and returns the old value. -/
  | amoMax (d a b : Reg) (c : BitVec 3) (r : BitVec 2) (wide : Bool) (g : Pred)
  /-- AMO_MINN (R134): Atomically keeps the unsigned minimum and returns the old value. -/
  | amoMinn (d a b : Reg) (c : BitVec 3) (r : BitVec 2) (wide : Bool) (g : Pred)
  /-- AMO_MAXN (R134): Atomically keeps the unsigned maximum and returns the old value. -/
  | amoMaxn (d a b : Reg) (c : BitVec 3) (r : BitVec 2) (wide : Bool) (g : Pred)
  /-- AMO_SWAP (R134): Atomically swaps in a value and returns the old value. -/
  | amoSwap (d a b : Reg) (c : BitVec 3) (r : BitVec 2) (wide : Bool) (g : Pred)
  /-- AMO_CAS (R134): Atomically compares with d and writes b on a match, returning the old value. -/
  | amoCas (d a b : Reg) (c : BitVec 3) (r : BitVec 2) (wide : Bool) (g : Pred)
  /-- AMO_FADD_F32 (R134): Atomically adds an f32 under rne and returns the old value. -/
  | amoFaddF32 (d a b : Reg) (c : BitVec 3) (r : BitVec 2) (g : Pred)
  /-- AMO_FADD_BF16X2 (R134): Atomically adds two bf16 halves under rne and returns the old value. -/
  | amoFaddBf16x2 (d a b : Reg) (c : BitVec 3) (r : BitVec 2) (g : Pred)
  /-- BR (R289): Branches when a predicate, optionally negated, holds. -/
  | br (p : Pred) (n : Bool) (o : BitVec 22)
  /-- JAL (R289): Jumps by a word offset and writes the link. -/
  | jal (d : Reg) (o : BitVec 20)
  /-- JALR (R289): Jumps to a register address and writes the link. -/
  | jalr (d : Reg) (a : Reg) (g : Pred)
  /-- LOOP (R290): Pushes a hardware loop level, or skips the body on a zero count. -/
  | loop (d : Reg) (l : BitVec 16) (g : Pred)
  /-- LOOP_BRK (R290): Leaves the innermost hardware loop. -/
  | loopBrk (g : Pred)
  /-- CSRR (R291): Reads a CSR into a register. -/
  | csrr (d : Reg) (c : BitVec 12) (g : Pred)
  /-- CSRW (R291): Writes a register to a CSR. -/
  | csrw (s : Reg) (c : BitVec 12) (g : Pred)
  /-- CSRS (R291): Sets CSR bits from a register. -/
  | csrs (s : Reg) (c : BitVec 12) (g : Pred)
  /-- CSRC (R291): Clears CSR bits from a register. -/
  | csrc (s : Reg) (c : BitVec 12) (g : Pred)
  /-- NOP (R365): Has no effect. -/
  | nop (g : Pred)
  /-- TRAP (R366): Takes SOFTWARE_TRAP with tval x[a]. -/
  | trap (a : Reg) (g : Pred)
  /-- ERET (R367): Pops the trap stack, restoring x5-x8, mode and ie, and returns to epc. -/
  | eret (g : Pred)
  /-- BRK (R366): Takes BREAK. -/
  | brk (g : Pred)
  /-- YIELD (R365): Moves the strand to the end of its priority's round-robin order. -/
  | yield (g : Pred)
  /-- HALT (R365): Drains the store buffer and stops the strand for good. -/
  | halt (g : Pred)
  /-- CTX_SAVE (R368): Writes a strand record, and with bit 0 set holds for a voluntary crew suspension. -/
  | ctxSave (a : Reg) (g : Pred)
  /-- CTX_REST (R368): Checks a strand record and restores registers, predicates, loop stack and pc from it. -/
  | ctxRest (a : Reg) (g : Pred)
  /-- XLT_FLUSH (R369): Invalidates the issuing cluster's translation entries of a context or all contexts. -/
  | xltFlush (a : Reg) (g : Pred)
  /-- FENCE (R292): Full fence: acquire and release at the scope, draining the store buffer. -/
  | fence (c : BitVec 3) (g : Pred)
  /-- FENCE_ACQ (R292): Makes earlier loads acquires at the scope. -/
  | fenceAcq (c : BitVec 3) (g : Pred)
  /-- FENCE_REL (R292): Orders earlier accesses before later writes at the scope. -/
  | fenceRel (c : BitVec 3) (g : Pred)
  /-- FENCE_SM (R292): Waits for the strand's earlier SM commands, then acts as a full fence. -/
  | fenceSm (c : BitVec 3) (g : Pred)
  /-- WAIT (R293): Holds until a semaphore reaches a threshold; an acquire at core scope. -/
  | wait (f : Reg) (i : BitVec 16) (g : Pred)
  /-- WAIT_DEC (R293): Holds until a semaphore reaches n, then subtracts n at issue. -/
  | waitDec (f : Reg) (i : BitVec 16) (g : Pred)
  /-- SIG (R293): Adds v to a semaphore with saturation; a release at core scope. -/
  | sig (f : Reg) (i : BitVec 16) (g : Pred)
  /-- SIG_SET (R293): Sets a semaphore to v; a release at core scope. -/
  | sigSet (f : Reg) (i : BitVec 16) (g : Pred)
  /-- WAITA_EQ (R294): Waits until a memory word equals a register, then acquires at system scope. -/
  | waitaEq (d : Reg) (a : Reg) (b : Reg) (g : Pred)
  /-- WAITA_NE (R294): Waits until a memory word differs from a register. -/
  | waitaNe (d : Reg) (a : Reg) (b : Reg) (g : Pred)
  /-- WAITA_GE (R294): Waits until a memory word is signed greater or equal. -/
  | waitaGe (d : Reg) (a : Reg) (b : Reg) (g : Pred)
  /-- WAITA_LT (R294): Waits until a memory word is signed less. -/
  | waitaLt (d : Reg) (a : Reg) (b : Reg) (g : Pred)
  /-- WAITA_GEN (R294): Waits until a memory word is unsigned greater or equal. -/
  | waitaGen (d : Reg) (a : Reg) (b : Reg) (g : Pred)
  /-- WAITA_REREAD (R294): Re-reads the watched word after a write to its line or after 1 µs and completes when the condition holds. -/
  | waitaReread (core strand : Nat)
  /-- BAR (R295): Releases, arrives at a barrier generation and holds. -/
  | bar (i : BitVec 8) (l : BitVec 3) (g : Pred)
  /-- SYNC_STEP (R296): Waits for stores and NX commands, then arrives at a superstep. -/
  | syncStep (l : BitVec 3) (g : Pred)
  /-- BARRIER_GENERATION_END (R295): When every participant has arrived, ends the generation and releases the held strands with an acquire. -/
  | barrierGenerationEnd (core strand : Nat)
  /-- SM_AFF (R104): Dispatches an affine read stream that converts elements into tokens. -/
  | smAff (a : Reg) (b : Reg) (f : Reg) (g : Pred)
  /-- SM_AFW (R104): Dispatches an affine write stream from a channel to memory. -/
  | smAfw (a : Reg) (b : Reg) (f : Reg) (g : Pred)
  /-- SM_IND (R105): Dispatches a gather stream driven by an index channel. -/
  | smInd (a : Reg) (b : Reg) (f : Reg) (g : Pred)
  /-- SM_SCT (R105): Dispatches a scatter stream pairing indices with data. -/
  | smSct (a : Reg) (b : Reg) (f : Reg) (g : Pred)
  /-- SM_UPD (R106): Dispatches an update stream to the PUU, the SUU or a fabric home. -/
  | smUpd (a : Reg) (b : Reg) (f : Reg) (g : Pred)
  /-- SM_ISX (R107): Sends an ISE parameter block to the indirect-stream engine of a stack. -/
  | smIsx (a : Reg) (b : Reg) (f : Reg) (g : Pred)
  /-- SM_BAR (R108): Waits at the SM queue head until masked slots' earlier commands complete, then signals. -/
  | smBar (a : Reg) (f : Reg) (g : Pred)
  /-- SM_KILL (R109): Cancels queued and active commands of masked slots at dispatch. -/
  | smKill (a : Reg) (f : Reg) (g : Pred)
  /-- SM_LINK (R161): Writes a link node entry into the idle graph plane. -/
  | smLink (a : Reg) (b : Reg) (f : Reg) (g : Pred)
  /-- SM_REP (R161): Writes a repeat node entry into the idle graph plane. -/
  | smRep (a : Reg) (b : Reg) (f : Reg) (g : Pred)
  /-- SM_STEER (R161): Writes a steer node entry into the idle graph plane. -/
  | smSteer (a : Reg) (b : Reg) (f : Reg) (g : Pred)
  /-- SM_MERGE (R161): Writes a merge node entry into the idle graph plane. -/
  | smMerge (a : Reg) (b : Reg) (f : Reg) (g : Pred)
  /-- SM_DEM (R161): Writes a demand gate entry into the idle graph plane. -/
  | smDem (a : Reg) (b : Reg) (f : Reg) (g : Pred)
  /-- SM_STOP (R162): Enqueues a stop of a given rank on a channel from the SM queue. -/
  | smStop (a : Reg) (b : Reg) (f : Reg) (g : Pred)
  /-- SM_SPILL (R161): Writes a spill ring entry for a channel into the idle graph plane. -/
  | smSpill (a : Reg) (b : Reg) (f : Reg) (g : Pred)
  /-- SM_TOK (R162): Enqueues a data, count or error token on a channel from the SM queue. -/
  | smTok (a : Reg) (b : Reg) (f : Reg) (g : Pred)
  /-- SM_DRAIN (R163): Waits for named channels to be observed empty, or discards their tokens. -/
  | smDrain (a : Reg) (b : Reg) (f : Reg) (g : Pred)
  /-- WAVE (R164): Ends the configuration period and sends the terminator through the masked engines. -/
  | wave (a : Reg) (b : Reg) (f : Reg) (g : Pred)
  /-- WAVE_SM_ENTRY (R155): When the wave's SM entry reaches the queue head it places the SM queue's markers. -/
  | waveSmEntry (core : Nat)
  /-- TERMINATOR_PASSAGE (R155): An engine whose inputs all hold markers and that has no old work consumes them, places markers and switches planes. -/
  | terminatorPassage (core engine : Nat)
  /-- WAVE_COMPLETE (R158): When every engine has passed and every old marker is consumed, the wave signals its semaphore. -/
  | waveComplete (core : Nat)
  /-- AR_CARVE (R190): Reads and checks group words and replaces the idle plane's group list. -/
  | arCarve (a : Reg) (b : Reg) (f : Reg) (g : Pred)
  /-- AR_HOLD (R192): Loads stationary values, scales and coordinates into the groups of a rowtag. -/
  | arHold (a : Reg) (b : Reg) (f : Reg) (g : Pred)
  /-- AR_FEED (R194): Consumes moving rows from a feed channel and accumulates their spans. -/
  | arFeed (a : Reg) (b : Reg) (f : Reg) (g : Pred)
  /-- AR_STEP (R193): Empties the current stationary slot of each leaf of a rowtag and advances cur. -/
  | arStep (a : Reg) (f : Reg) (g : Pred)
  /-- MX_RUN (R195): Computes a tile product from scratchpad operands, possibly co-operating across cores. -/
  | mxRun (a : Reg) (f : Reg) (g : Pred)
  /-- AR_DRAIN (R197): Converts accumulator entries and sends them as tokens on a drain port. -/
  | arDrain (a : Reg) (f : Reg) (g : Pred)
  /-- AR_ZERO (R196): Clears a range of accumulator entries and their poison. -/
  | arZero (a : Reg) (b : Reg) (f : Reg) (g : Pred)
  /-- AR_CHK (R198): Copies the array status block to the scratchpad, optionally clearing it. -/
  | arChk (a : Reg) (b : Reg) (f : Reg) (g : Pred)
  /-- AR_COOP (R191): Writes the idle plane's co-operation mask. -/
  | arCoop (a : Reg) (f : Reg) (g : Pred)
  /-- AR_MMAP (R191): Writes the idle plane's feed channels and drain ports. -/
  | arMmap (a : Reg) (b : Reg) (f : Reg) (g : Pred)
  /-- LEAF_FIRE (R166): A leaf whose moving latch and current slot match multiplies the pair. -/
  | leafFire (core cell err : Nat)
  /-- SPAN_ACCUMULATE (R35): A completed span result is rounded once into its accumulator entry. -/
  | spanAccumulate (core cell err : Nat)
  /-- COOP_COMBINE (R195): A router combine stage joins co-operating cores' slice results by TreeSum. -/
  | coopCombine (core : Nat)
  /-- DRAIN_TOKEN (R197): A drain port enqueues one token of converted values when its channel has room. -/
  | drainToken (core port : Nat)
  /-- ARRAY_COMMAND_COMPLETE (R180): An array command reaches its completion point and increments its semaphore. -/
  | arrayCommandComplete (core queue : Nat)
  /-- VE_PLANE (R224): Reads and checks a plane image and writes the idle plane's header and slots. -/
  | vePlane (a : Reg) (b : Reg) (f : Reg) (g : Pred)
  /-- VE_SWAP (R227): Arms a plane swap on a swap channel, or sets swaperr. -/
  | veSwap (a : Reg) (b : Reg) (f : Reg) (g : Pred)
  /-- VE_BIND (R226): Replaces the idle plane's port bindings of an element. -/
  | veBind (a : Reg) (b : Reg) (f : Reg) (g : Pred)
  /-- VE_START (R228): Sets the named elements running. -/
  | veStart (a : Reg) (f : Reg) (g : Pred)
  /-- VE_STOP (R228): Sets stopping in the named elements and holds the VE queue until they stop. -/
  | veStop (a : Reg) (f : Reg) (g : Pred)
  /-- VE_RD (R229): Copies element registers or the predicate block to the scratchpad, committing them. -/
  | veRd (a : Reg) (b : Reg) (f : Reg) (g : Pred)
  /-- VE_WR (R229): Loads element registers or the predicate block from the scratchpad. -/
  | veWr (a : Reg) (b : Reg) (f : Reg) (g : Pred)
  /-- VE_KONST (R225): Writes constants of the idle plane. -/
  | veKonst (a : Reg) (b : Reg) (f : Reg) (g : Pred)
  /-- ELEMENT_STOP_COMPLETE (R228): A stopping element becomes stopped once its firing in progress has committed. -/
  | elementStopComplete (core element : Nat)
  /-- VADD (R231): Adds integer lane elements, wrapping or saturating. -/
  | vadd (t : Trig)
  /-- VSUB (R231): Subtracts integer lane elements. -/
  | vsub (t : Trig)
  /-- VMUL (R231): Multiplies integer lane elements, keeping the low bits. -/
  | vmul (t : Trig)
  /-- VMULH (R231): Keeps the high half of integer element products. -/
  | vmulh (t : Trig)
  /-- VMIN (R231): Takes the smaller integer element. -/
  | vmin (t : Trig)
  /-- VMAX (R231): Takes the larger integer element. -/
  | vmax (t : Trig)
  /-- VAND (R231): Bitwise and of lanes. -/
  | vand (t : Trig)
  /-- VOR (R231): Bitwise or of lanes. -/
  | vor (t : Trig)
  /-- VXOR (R231): Bitwise exclusive or of lanes. -/
  | vxor (t : Trig)
  /-- VSHL (R231): Shifts elements left by b modulo the width. -/
  | vshl (t : Trig)
  /-- VSHR (R231): Shifts elements right zero-filled. -/
  | vshr (t : Trig)
  /-- VSRA (R231): Shifts elements right sign-filled. -/
  | vsra (t : Trig)
  /-- VCLZ (R231): Counts leading zeros of elements. -/
  | vclz (t : Trig)
  /-- VPOPC (R231): Counts set bits of elements. -/
  | vpopc (t : Trig)
  /-- VABS (R231): Takes the absolute value of elements. -/
  | vabs (t : Trig)
  /-- VSAD (R231): Accumulates the sum of absolute differences into d. -/
  | vsad (t : Trig)
  /-- FADD (R232): Adds floating-point elements, rounding once. -/
  | fadd (t : Trig)
  /-- FSUB (R232): Subtracts floating-point elements. -/
  | fsub (t : Trig)
  /-- FMUL (R232): Multiplies floating-point elements. -/
  | fmul (t : Trig)
  /-- FFMA (R232): Forms a times b plus d, rounded once. -/
  | ffma (t : Trig)
  /-- FMIN (R232): Takes the smaller float, with -0 below +0. -/
  | fmin (t : Trig)
  /-- FMAX (R232): Takes the larger float. -/
  | fmax (t : Trig)
  /-- FABS (R232): Clears the sign bit, copying the bits. -/
  | fabs (t : Trig)
  /-- FNEG (R232): Inverts the sign bit, copying the bits. -/
  | fneg (t : Trig)
  /-- FCMP (R233): Compares f32 lanes into a lane predicate. -/
  | fcmp (t : Trig)
  /-- FCLASS (R232): Writes a one-hot class code per element. -/
  | fclass (t : Trig)
  /-- VCMP (R233): Compares i32 lanes into a lane predicate. -/
  | vcmp (t : Trig)
  /-- VSEL (R233): Selects a or b per lane by a lane predicate. -/
  | vsel (t : Trig)
  /-- VMOV (R233): Copies a lane value as it stands. -/
  | vmov (t : Trig)
  /-- CVT (R234): Converts elements between formats. -/
  | cvt (t : Trig)
  /-- MXQ (R234): Computes an e8m0 block scale from an f32 amax. -/
  | mxq (t : Trig)
  /-- MXS (R234): Scales an f32 by the inverse of an e8m0 scale. -/
  | mxs (t : Trig)
  /-- ROUND (R232): Rounds elements to integral values in their format. -/
  | round (t : Trig)
  /-- CVTI (R234): Converts elements under a named rounding mode. -/
  | cvti (t : Trig)
  /-- EXP2 (R235): Computes 2 to the power x, rounded once. -/
  | exp2 (t : Trig)
  /-- LOG2 (R235): Computes log2 x, rounded once. -/
  | log2 (t : Trig)
  /-- RCP (R235): Computes the reciprocal. -/
  | rcp (t : Trig)
  /-- RSQRT (R235): Computes the reciprocal square root. -/
  | rsqrt (t : Trig)
  /-- SIN (R235): Computes the sine. -/
  | sin (t : Trig)
  /-- COS (R235): Computes the cosine. -/
  | cos (t : Trig)
  /-- TANH (R235): Computes the hyperbolic tangent. -/
  | tanh (t : Trig)
  /-- SQRT (R235): Computes the square root. -/
  | sqrt (t : Trig)
  /-- PERM (R236): Permutes lanes of a by indices in b. -/
  | perm (t : Trig)
  /-- BCAST (R236): Broadcasts one lane of a to all lanes. -/
  | bcast (t : Trig)
  /-- PFX (R236): Forms a running prefix with a carry-in from b's lane 7. -/
  | pfx (t : Trig)
  /-- LRED (R236): Reduces the executing lanes and writes the result to each. -/
  | lred (t : Trig)
  /-- CLMUL (R236): Forms a carry-less product, low or high half. -/
  | clmul (t : Trig)
  /-- PACK (R236): Narrows and packs elements of a and b. -/
  | pack (t : Trig)
  /-- UNPACK (R236): Widens one half of a lane's elements. -/
  | unpack (t : Trig)
  /-- PSET (R233): Writes a lane mask into a lane predicate. -/
  | pset (t : Trig)
  /-- ENQ (R237): Enqueues a data, count or error token, committing its lanes. -/
  | enq (t : Trig)
  /-- STOP (R237): Enqueues a stop of a given rank. -/
  | stop (t : Trig)
  /-- DEQ (R237): Pops one token and discards it. -/
  | deq (t : Trig)
  /-- POI (R233): Writes a token's poison bit into a lane predicate. -/
  | poi (t : Trig)
  /-- TRIG_SIG (R237): Adds 1 to a semaphore from an element firing. -/
  | trigSig (t : Trig)
  /-- RND (R237): Writes Philox draws into a register and advances the bank's counter. -/
  | rnd (t : Trig)
  /-- TRIG_NOP (R237): Fires with no effect. -/
  | trigNop (t : Trig)
  /-- NX_PUT (R245): Copies bytes to a remote address in packets, with an optional flag release. -/
  | nxPut (a : Reg) (f : Reg) (g : Pred)
  /-- NX_GET (R245): Copies bytes from a remote address. -/
  | nxGet (a : Reg) (f : Reg) (g : Pred)
  /-- NX_XGET (R246): Reads indexed elements from peers and returns them in index order as tokens. -/
  | nxXget (a : Reg) (b : Reg) (f : Reg) (g : Pred)
  /-- NX_SEND (R251): Sends a message for admission to a receive ring. -/
  | nxSend (a : Reg) (f : Reg) (g : Pred)
  /-- NX_ROUTE (R252): Dispatches token rows to expert rings with second choices and send lists. -/
  | nxRoute (a : Reg) (f : Reg) (g : Pred)
  /-- NX_RING (R250): Declares or retires a receive ring. -/
  | nxRing (a : Reg) (f : Reg) (g : Pred)
  /-- NX_CHAN (R254): Declares or retires an elastic channel endpoint. -/
  | nxChan (a : Reg) (f : Reg) (g : Pred)
  /-- COLL_GRP (R258): Joins or leaves a collective group. -/
  | collGrp (a : Reg) (f : Reg) (g : Pred)
  /-- COLL_RED (R259): Reduces every member's source to the root. -/
  | collRed (a : Reg) (f : Reg) (g : Pred)
  /-- COLL_BC (R259): Broadcasts the root's source to every member. -/
  | collBc (a : Reg) (f : Reg) (g : Pred)
  /-- COLL_FLT (R259): Delivers keyed records to the members whose key ranges hold them. -/
  | collFlt (a : Reg) (f : Reg) (g : Pred)
  /-- COLL_AR (R259): Writes the reduction to every member. -/
  | collAr (a : Reg) (f : Reg) (g : Pred)
  /-- HAND_REL (R264): Waits for earlier stores and takes handover points of pages to a target cluster. -/
  | handRel (a : Reg) (f : Reg) (g : Pred)
  /-- HAND_ACQ (R265): Waits for pages to reach the issuing cluster with the expected count and sets them owned. -/
  | handAcq (a : Reg) (f : Reg) (g : Pred)
  /-- HAND_QUERY (R266): Writes handover record images of pages. -/
  | handQuery (a : Reg) (f : Reg) (g : Pred)
  /-- HANDOVER_PUSH (R263): The handover engine pushes a page's lines into the new owner's slice and marks it present. -/
  | handoverPush (page : Nat)
  /-- NX_COMMAND_COMPLETE (R239): An NX command in progress completes, writes its status word and signals. -/
  | nxCommandComplete (core entry : Nat)
  /-- RING_ADMISSION (R248): An admission request is admitted or refused at the ring's device and tail is published. -/
  | ringAdmission (core entry : Nat)
  /-- ROUTE_RESOLVE (R252): The route unit resolves one assignment to a first choice, second choice or overflow list. -/
  | routeResolve (core entry : Nat)
  /-- ELASTIC_PAIR (R253): Two matching endpoints pair and grant the initial credit. -/
  | elasticPair (core endpoint : Nat)
  /-- ELASTIC_TOKEN_CROSS (R147): A token crosses an elastic channel in order, with demand returned upstream. -/
  | elasticTokenCross (core endpoint : Nat)
  /-- COLL_CHUNK (R257): A 1 MiB chunk of a collective is combined through the router stages. -/
  | collChunk (core entry : Nat)
  /-- MEMBER_LOSS (R257): A lost member is removed, a new tree built and the chunk in flight replayed. -/
  | memberLoss (group device : Nat)
  /-- GROUP_JOIN_COMPLETE (R258): A group entry completes when every local and listed member has joined with equal values. -/
  | groupJoinComplete (group : Nat)
  /-- AFFINE_READ_TOKEN (R97): A read stream packs converted elements into a token and enqueues it when the channel has room. -/
  | affineReadToken (core slot : Nat)
  /-- AFFINE_WRITE_TOKEN (R104): A write stream dequeues a token and writes its elements under the stop rules. -/
  | affineWriteToken (core slot : Nat)
  /-- GATHER_INDEX (R105): A gather stream reads the element named by an arriving index. -/
  | gatherIndex (core slot : Nat)
  /-- SCATTER_PAIR (R105): A scatter stream writes an element paired with its index. -/
  | scatterPair (core slot : Nat)
  /-- UPDATE_PAIR (R106): An update stream sends one paired update to its point of execution. -/
  | updatePair (core slot : Nat)
  /-- STREAM_COMPLETE (R102): A stream command completes and increments its semaphore as a core-scope release. -/
  | streamComplete (core slot : Nat)
  /-- SUU_UPDATE_APPLY (R89): The sparse-update unit applies an arriving update in arrival order, merging where it can. -/
  | suuUpdateApply (stack : Nat)
  /-- SUU_LINE_RELEASE (R88): The SUU gives a line back to the directory, at the latest 2 µs after taking it. -/
  | suuLineRelease (stack line : Nat)
  /-- PUU_UPDATE_APPLY (R125): The pool update unit applies an update or atomic to a 32-byte granule. -/
  | puuUpdateApply (core : Nat)
  /-- HASH_APPLY (R126): Hash-accumulate applies one key and value to the slot table or stops the stream. -/
  | hashApply (core slot : Nat)
  /-- ISE_REQUEST (R87): An indirect-stream engine takes a parameter block and reads indices and elements. -/
  | iseRequest (stack : Nat)
  /-- ISE_TOKEN_DELIVER (R87): The ISE returns elements as tokens in index order to the issuing core's channel. -/
  | iseTokenDeliver (core slot : Nat)
  /-- LINK_MOVE (R149): A link node moves a token from its input to its output or multicast map. -/
  | linkMove (core node : Nat)
  /-- REPEAT_ROUND (R149): A repeat node takes a count and emits a collected segment that many times. -/
  | repeatRound (core node : Nat)
  /-- STEER_SEGMENT (R149): A steer node sends a segment to the path its selector names. -/
  | steerSegment (core node : Nat)
  /-- MERGE_SEGMENT (R149): A merge node moves one segment of a selected or first-arriving input. -/
  | mergeSegment (core node : Nat)
  /-- JOIN_ALIGN (R150): A join consumes aligned rank-0 or rank-7 stops, discarding surplus tokens. -/
  | joinAlign (core node : Nat)
  /-- DEMAND_CREDIT (R146): A demand gate consumes a count token and adds to its credit. -/
  | demandCredit (core gate : Nat)
  /-- SPILL_WRITE (R143): A token bound for a full channel goes to its spill ring. -/
  | spillWrite (core channel : Nat)
  /-- SPILL_REFILL (R143): The channel FIFO refills from its spill ring in order. -/
  | spillRefill (core channel : Nat)
  /-- INSTRUCTION_FETCH (R45): A fetch miss completes with the word or traps. -/
  | instructionFetch (core strand : Nat)
  /-- WITHHELD_ACCESS_PROCEED (R80): A withheld access proceeds once its page becomes present. -/
  | withheldAccessProceed (core strand : Nat)
  /-- WINDOW_REGISTER (R121): A store that sets valid in a mapping entry checks and registers a window. -/
  | windowRegister (core entry : Nat)
  /-- WINDOW_UNREGISTER (R123): A store that clears valid writes the region back and drops the window. -/
  | windowUnregister (core entry : Nat)
  /-- CSR_SPILL_WRITE (R145): A write to csr_spill acts only on the sticky spilled bits. -/
  | csrSpillWrite (core strand : Nat) (value : Word)
  /-- ECTL_WRITE (R217): A write to an element control CSR takes effect between firings, refusing rm 5-7. -/
  | ectlWrite (core strand element : Nat) (value : Word)
  /-- STATUS_WRITE (R280): A write to csr_status changes prio, and ie only in monitor mode. -/
  | statusWrite (core strand : Nat) (value : Word)
  /-- REGISTER_WRITE (R280): A write to a register without its own row stores its writable fields after value checks. -/
  | registerWrite (core strand number : Nat) (value : Word)
  /-- NOTIFY_WRITE (R320): A write to a queue's notify register or word announces new records to the CP. -/
  | notifyWrite (queue : Nat)
  /-- AQEN_WRITE (R371): Enabling the admin queue checks its descriptor and sets the failure bit on error. -/
  | aqenWrite (value : Word)
  /-- DEVID_WRITE (R373): The host writes the device identifier and then locks it. -/
  | devidWrite (value : Word)
  /-- ASYNC_TRAP_TAKE (R341): A pending asynchronous trap is taken at the target strand's next boundary when ie is 1. -/
  | asyncTrapTake (core strand : Nat)
  /-- END_CREW (R345): The monitor halts a crew, kills its engines, unregisters windows and records the ending. -/
  | endCrew (core : Nat) (cause : BitVec 8)
  /-- WATCHDOG (R346): After 1 s without progress the crew takes WATCHDOG. -/
  | watchdog (core : Nat)
  /-- DRAIN_TO_CHECKPOINT (R347): An access withheld beyond csr_pftime saves the crew with reason 3. -/
  | drainToCheckpoint (core strand : Nat)
  /-- CHECKPOINT_PAGE_RECHECK (R347): The CP re-walks a checkpointed crew's page at least every 1 ms and resumes it once valid. -/
  | checkpointPageRecheck (gang : Nat)
  /-- CREW_SAVE (R348): The context-save engine quiesces, snapshots and copies a crew's state to its save area. -/
  | crewSave (core reason : Nat)
  /-- SNAPSHOT_FALLBACK (R350): A join marker waiting beyond csr_snaptime ends the snapshot and copies channels verbatim. -/
  | snapshotFallback (core : Nat)
  /-- CREW_RESUME (R355): A saved crew is restored and each strand enters the monitor with PREEMPTED. -/
  | crewResume (gang cluster : Nat)
  /-- PREEMPT_WAIT_EXPIRY (R335): A higher-priority gang that has waited 50 µs has lower-priority gangs of one cluster saved. -/
  | preemptWaitExpiry (gang cluster : Nat)
  /-- SWAP_OUT (R335): A crew held in waita or domain barriers for 20 µs is swapped out. -/
  | swapOut (core : Nat)
  /-- CREW_RETIRE (R335): A crew whose strands have halted and whose engines have drained retires. -/
  | crewRetire (core : Nat)
  /-- QUEUE_SCAN (R320): The CP examines every enabled queue at least once every 1 ms. -/
  | queueScan (queue : Nat)
  /-- PRIORITY_AGING (R329): Each full 1 ms at the head lowers a record's effective priority value by one level. -/
  | priorityAging (queue : Nat)
  /-- DEPENDENCY_RECHECK (R325): The CP re-reads a dependency word after a write to its line or every 10 µs. -/
  | dependencyRecheck (queue : Nat)
  /-- LAUNCH (R328): A kind-1 record is checked, its kernel descriptor read and the launch taken. -/
  | launch (queue : Nat)
  /-- BARRIER_AND (R326): A kind-2 record completes once up to five dependencies are met. -/
  | barrierAnd (queue : Nat)
  /-- SIGNAL_RECORD (R326): A kind-3 record completes once every earlier record of its queue has completed. -/
  | signalRecord (queue : Nat)
  /-- CREATE_QUEUE (R327): CP request 1 checks a descriptor and records the queue. -/
  | createQueue (queue : Nat)
  /-- DESTROY_QUEUE (R327): CP request 2 stops taking records from a queue. -/
  | destroyQueue (queue : Nat)
  /-- SHOOTDOWN (R83): CP request 3 invalidates translations of a range in every cache and waits for their accesses. -/
  | shootdown (queue : Nat)
  /-- MIGRATE (R111): CP request 4 runs the migration fence of a class-2 page to a new frame. -/
  | migrate (queue : Nat)
  /-- HANDOVER_RECORD (R327): CP request 5 creates or removes a page's handover record. -/
  | handoverRecord (queue : Nat)
  /-- CLEAR_ROUTE (R270): CP request 6 clears a route's failed bit. -/
  | clearRoute (queue : Nat)
  /-- CONTEXT_ROOT (R73): CP request 7 sets a context root and domain tag and shoots down the context. -/
  | contextRoot (queue : Nat)
  /-- GANG_PLACE (R331): A die dispatcher places a suspended or new gang in a cluster and starts its crews. -/
  | gangPlace (launch cluster : Nat)
  /-- STEAL_REQUEST (R333): An idle dispatcher asks the die with most undispatched tiles for work every 10 µs at most. -/
  | stealRequest (die : Nat)
  /-- STEAL_GRANT (R333): The victim grants half its undispatched tiles, rounded to a multiple of gang. -/
  | stealGrant (launch victim thief : Nat)
  /-- LAUNCH_COMPLETE (R336): When every crew has retired and the range is empty, the CP writes the completion. -/
  | launchComplete (launch : Nat)
  /-- PACKET_RECEIVE (R268): A receiver accepts the expected packet of a flow, or discards duplicates and out-of-order packets. -/
  | packetReceive (source seq : Nat) (payload : List Nat)
  /-- ACK_RECEIVE (R268): A cumulative acknowledgement frees retry-buffer packets of a flow. -/
  | ackReceive (dest seq : Nat)
  /-- ACK_TIMEOUT (R270): An acknowledgement missing for 5 µs fails the route. -/
  | ackTimeout (dest : Nat)
  /-- LINK_DOWN (R270): A Nueth link going down fails its routes and replays unacknowledged packets on the next route. -/
  | linkDown (link : Nat)
  /-- HOST_LINK_DOWN (R372): A host link going down moves host-window traffic to the other link. -/
  | hostLinkDown (link : Nat)
  /-- HOST_HDM_ACCESS (R316): A host access to device HBM is performed at the directory. -/
  | hostHdmAccess (address : Nat) (store : Option (List Byte)) (size : Nat)
  /-- DIE_RESET (R364): A function 1-4 reset ends the die's crews, poisons its dirty lines and sets TDISP ERROR. -/
  | dieReset (function : Nat)
  /-- FUNCTION0_RESET (R374): A function 0 reset loses all state but the spare mapping and restarts from boot. -/
  | function0Reset 
  /-- CONTROL_PLANE_RESTART (R374): The CP restarts while crews continue; unconsumed records are taken again. -/
  | controlPlaneRestart 
  /-- DATA_PLANE_RESTART (R374): The data plane restarts, ending every crew without a save. -/
  | dataPlaneRestart 
  /-- MANAGEMENT_PLANE_RESTART (R374): The MC restarts while the governor holds its last settings. -/
  | managementPlaneRestart 
  /-- FIRMWARE_VERIFY (R377): The boot ROM verifies and measures each firmware image, entering failed on a bad one. -/
  | firmwareVerify (image : Nat) (good : Bool)
  /-- HUB_BOUNDARY_TRAINED (R13): A hub boundary finishes training and its die comes into service. -/
  | hubBoundaryTrained (die : Nat)
  /-- STACK_TRAINED (R376): An HBM stack finishes training and withheld accesses to it proceed. -/
  | stackTrained (stack : Nat)
  /-- ENTER_TWILIGHT (R375): Verified firmware and trained hub, die and stack put the device in twilight service. -/
  | enterTwilight 
  /-- ENTER_FULL_SERVICE (R375): Once every stack, boundary and port has trained and tests pass, service becomes full. -/
  | enterFullService 
  /-- STACK_TRAINING_TIMEOUT (R375): No stack trained within 10 s puts the device in failed. -/
  | stackTrainingTimeout 
  /-- SPDM_REQUEST (R377): The MC's SPDM responder answers a certificate, measurement or key request. -/
  | spdmRequest (code : Nat)
  /-- TDISP_REQUEST (R378): A TDISP message moves a function between its interface states. -/
  | tdispRequest (function message : Nat)
  /-- TRANSIT_TEST_START (R361): A core idle for 100 µs receives a 200 µs pattern granule. -/
  | transitTestStart (core : Nat)
  /-- TRANSIT_TEST_RESULT (R362): A granule ends and reports per-unit results, taking failing units out of service. -/
  | transitTestResult (core unit index : Nat) (pass : Bool)
  /-- THERMAL_CLOCK_LOWER (R380): Approaching the power or temperature limit, the governor lowers the core clock. -/
  | thermalClockLower (level : Nat)
  /-- ILLEGAL_INSTRUCTION (R55): A sequencer word whose encoding is not an instruction traps precisely with ILLEGAL_OP whatever its guard holds. -/
  | illegalInstruction (word : Half) (second : Option Half)
  /-- NUETH_PORT_TRAINED (R375): A Nueth port finishes training and can carry packets, which full service requires. -/
  | nuethPortTrained (port : Nat)
  /-- HOST_LINK_UP (R372): A host link comes up, and host-window traffic returns to the MD0 link when it is up. -/
  | hostLinkUp (link : Nat)
  /-- CXL_CACHE_SNOOP (R85): The host's CXL.cache request for a host-window line that a device slice holds is answered by the directory. -/
  | cxlCacheSnoop (address : Nat) (store : Option (List Byte))
  /-- LAZY_WRITEBACK (R123): The device writes a dirty line of a registered window back to its backing frame at a moment of its own choosing. -/
  | lazyWriteback (core entry line : Nat)
  /-- STORE_BUFFER_DRAIN (R127): A posted store leaves the strand's store buffer and is performed at its point of coherence, freeing an entry. -/
  | storeBufferDrain (core strand : Nat)
  /-- SCALAR_ACCESS_RESPONSE (R127): The data of a scalar load or atomic, or the acknowledgement of an unposted store, returns and releases the held strand, or traps it. -/
  | scalarAccessResponse (core strand : Nat) (data : Word) (poisoned : Bool)
  deriving DecidableEq, Repr

end Sys2Proof
end

