-- ==== Sys2Proof/WellFormed.lean ====
section
/-!
DEFINITION. What a sequencer instruction must satisfy beyond its field widths (Tables 3.3 to 3.5): sizes,
scopes, levels, a loop with a body, a wait on a real semaphore. Triggered words are checked when
their plane is loaded (R62); the agents' steps carry no encoding.
-/
namespace Sys2Proof

/-- The sub-range checks of Tables 3.3 to 3.5. -/
def Instr.wellFormed : Instr → Bool
  | .add _ _ _ _ => true
  | .sub _ _ _ _ => true
  | .mul _ _ _ _ => true
  | .mulh _ _ _ _ => true
  | .mulhn _ _ _ _ => true
  | .div _ _ _ _ => true
  | .divn _ _ _ _ => true
  | .rem _ _ _ _ => true
  | .remn _ _ _ _ => true
  | .and _ _ _ _ => true
  | .or _ _ _ _ => true
  | .xor _ _ _ _ => true
  | .andn _ _ _ _ => true
  | .shl _ _ _ _ => true
  | .shr _ _ _ _ => true
  | .sra _ _ _ _ => true
  | .rot _ _ _ _ => true
  | .min _ _ _ _ => true
  | .max _ _ _ _ => true
  | .minn _ _ _ _ => true
  | .maxn _ _ _ _ => true
  | .addw _ _ _ _ => true
  | .subw _ _ _ _ => true
  | .mulw _ _ _ _ => true
  | .clz _ _ _ => true
  | .ctz _ _ _ => true
  | .popc _ _ _ => true
  | .sextB _ _ _ => true
  | .sextH _ _ _ => true
  | .sextW _ _ _ => true
  | .zextB _ _ _ => true
  | .zextH _ _ _ => true
  | .zextW _ _ _ => true
  | .rev _ _ _ => true
  | .mov _ _ _ => true
  | .cmpEq _ _ _ _ => true
  | .cmpNe _ _ _ _ => true
  | .cmpLt _ _ _ _ => true
  | .cmpLtn _ _ _ _ => true
  | .cmpLe _ _ _ _ => true
  | .cmpLen _ _ _ _ => true
  | .cmpBit _ _ _ _ => true
  | .pand _ _ _ _ => true
  | .por _ _ _ _ => true
  | .pxor _ _ _ _ => true
  | .pandn _ _ _ _ => true
  | .pnot _ _ _ => true
  | .pmovX _ _ _ => true
  | .movpX _ _ _ => true
  | .addi _ _ _ _ => true
  | .andi _ _ _ _ => true
  | .ori _ _ _ _ => true
  | .xori _ _ _ _ => true
  | .shli _ _ _ _ => true
  | .shri _ _ _ _ => true
  | .srai _ _ _ _ => true
  | .roti _ _ _ _ => true
  | .cmpiEq _ _ _ _ => true
  | .cmpiLt _ _ _ _ => true
  | .cmpiLtn _ _ _ _ => true
  | .li _ _ _ => true
  | .liL _ _ _ _ => true
  | .lihL _ _ _ => true
  | .addiL _ _ _ _ => true
  | .lea _ _ _ n _ => decide (n.toNat ≤ 4)
  | .sel _ _ _ _ _ => true
  | .ldSp _ _ z _ _ => decide (z.toNat ≤ 6)
  | .stSp _ _ _ _ _ => true
  | .ldGl _ _ z _ _ => decide (z.toNat ≤ 6)
  | .stGl _ _ _ _ _ => true
  | .ldAcq _ _ z c _ => decide (z.toNat ≤ 6) && decide (c.toNat ≤ 5)
  | .stRel _ _ _ c _ => decide (c.toNat ≤ 5)
  | .pf _ c _ => decide (c.toNat ≤ 5)
  | .clWb _ c _ => decide (c.toNat ≤ 5)
  | .clInv _ c _ => decide (c.toNat ≤ 5)
  | .clWbinv _ c _ => decide (c.toNat ≤ 5)
  | .ldGlL _ _ z _ _ => decide (z.toNat ≤ 6)
  | .stGlL _ _ _ _ _ => true
  | .amoAdd _ _ _ c _ _ _ => decide (c.toNat ≤ 5)
  | .amoAnd _ _ _ c _ _ _ => decide (c.toNat ≤ 5)
  | .amoOr _ _ _ c _ _ _ => decide (c.toNat ≤ 5)
  | .amoXor _ _ _ c _ _ _ => decide (c.toNat ≤ 5)
  | .amoMin _ _ _ c _ _ _ => decide (c.toNat ≤ 5)
  | .amoMax _ _ _ c _ _ _ => decide (c.toNat ≤ 5)
  | .amoMinn _ _ _ c _ _ _ => decide (c.toNat ≤ 5)
  | .amoMaxn _ _ _ c _ _ _ => decide (c.toNat ≤ 5)
  | .amoSwap _ _ _ c _ _ _ => decide (c.toNat ≤ 5)
  | .amoCas _ _ _ c _ _ _ => decide (c.toNat ≤ 5)
  | .amoFaddF32 _ _ _ c _ _ => decide (c.toNat ≤ 5)
  | .amoFaddBf16x2 _ _ _ c _ _ => decide (c.toNat ≤ 5)
  | .br _ _ _ => true
  | .jal _ _ => true
  | .jalr _ _ _ => true
  | .loop _ l _ => decide (l.toNat ≠ 0)
  | .loopBrk _ => true
  | .csrr _ _ _ => true
  | .csrw _ _ _ => true
  | .csrs _ _ _ => true
  | .csrc _ _ _ => true
  | .nop _ => true
  | .trap _ _ => true
  | .eret _ => true
  | .brk _ => true
  | .yield _ => true
  | .halt _ => true
  | .ctxSave _ _ => true
  | .ctxRest _ _ => true
  | .xltFlush _ _ => true
  | .fence c _ => decide (c.toNat ≤ 5)
  | .fenceAcq c _ => decide (c.toNat ≤ 5)
  | .fenceRel c _ => decide (c.toNat ≤ 5)
  | .fenceSm c _ => decide (c.toNat ≤ 5)
  | .wait f _ _ => decide (f.toNat ≠ 63)
  | .waitDec f _ _ => decide (f.toNat ≠ 63)
  | .sig _ _ _ => true
  | .sigSet _ _ _ => true
  | .waitaEq _ _ _ _ => true
  | .waitaNe _ _ _ _ => true
  | .waitaGe _ _ _ _ => true
  | .waitaLt _ _ _ _ => true
  | .waitaGen _ _ _ _ => true
  | .waitaReread _ _ => true
  | .bar _ l _ => decide (1 ≤ l.toNat ∧ l.toNat ≤ 4)
  | .syncStep l _ => decide (1 ≤ l.toNat ∧ l.toNat ≤ 4)
  | .barrierGenerationEnd _ _ => true
  | .smAff _ _ _ _ => true
  | .smAfw _ _ _ _ => true
  | .smInd _ _ _ _ => true
  | .smSct _ _ _ _ => true
  | .smUpd _ _ _ _ => true
  | .smIsx _ _ _ _ => true
  | .smBar _ _ _ => true
  | .smKill _ _ _ => true
  | .smLink _ _ _ _ => true
  | .smRep _ _ _ _ => true
  | .smSteer _ _ _ _ => true
  | .smMerge _ _ _ _ => true
  | .smDem _ _ _ _ => true
  | .smStop _ _ _ _ => true
  | .smSpill _ _ _ _ => true
  | .smTok _ _ _ _ => true
  | .smDrain _ _ _ _ => true
  | .wave _ _ _ _ => true
  | .waveSmEntry _ => true
  | .terminatorPassage _ _ => true
  | .waveComplete _ => true
  | .arCarve _ _ _ _ => true
  | .arHold _ _ _ _ => true
  | .arFeed _ _ _ _ => true
  | .arStep _ _ _ => true
  | .mxRun _ _ _ => true
  | .arDrain _ _ _ => true
  | .arZero _ _ _ _ => true
  | .arChk _ _ _ _ => true
  | .arCoop _ _ _ => true
  | .arMmap _ _ _ _ => true
  | .leafFire _ _ _ => true
  | .spanAccumulate _ _ _ => true
  | .coopCombine _ => true
  | .drainToken _ _ => true
  | .arrayCommandComplete _ _ => true
  | .vePlane _ _ _ _ => true
  | .veSwap _ _ _ _ => true
  | .veBind _ _ _ _ => true
  | .veStart _ _ _ => true
  | .veStop _ _ _ => true
  | .veRd _ _ _ _ => true
  | .veWr _ _ _ _ => true
  | .veKonst _ _ _ _ => true
  | .elementStopComplete _ _ => true
  | .vadd _ => true
  | .vsub _ => true
  | .vmul _ => true
  | .vmulh _ => true
  | .vmin _ => true
  | .vmax _ => true
  | .vand _ => true
  | .vor _ => true
  | .vxor _ => true
  | .vshl _ => true
  | .vshr _ => true
  | .vsra _ => true
  | .vclz _ => true
  | .vpopc _ => true
  | .vabs _ => true
  | .vsad _ => true
  | .fadd _ => true
  | .fsub _ => true
  | .fmul _ => true
  | .ffma _ => true
  | .fmin _ => true
  | .fmax _ => true
  | .fabs _ => true
  | .fneg _ => true
  | .fcmp _ => true
  | .fclass _ => true
  | .vcmp _ => true
  | .vsel _ => true
  | .vmov _ => true
  | .cvt _ => true
  | .mxq _ => true
  | .mxs _ => true
  | .round _ => true
  | .cvti _ => true
  | .exp2 _ => true
  | .log2 _ => true
  | .rcp _ => true
  | .rsqrt _ => true
  | .sin _ => true
  | .cos _ => true
  | .tanh _ => true
  | .sqrt _ => true
  | .perm _ => true
  | .bcast _ => true
  | .pfx _ => true
  | .lred _ => true
  | .clmul _ => true
  | .pack _ => true
  | .unpack _ => true
  | .pset _ => true
  | .enq _ => true
  | .stop _ => true
  | .deq _ => true
  | .poi _ => true
  | .trigSig _ => true
  | .rnd _ => true
  | .trigNop _ => true
  | .nxPut _ _ _ => true
  | .nxGet _ _ _ => true
  | .nxXget _ _ _ _ => true
  | .nxSend _ _ _ => true
  | .nxRoute _ _ _ => true
  | .nxRing _ _ _ => true
  | .nxChan _ _ _ => true
  | .collGrp _ _ _ => true
  | .collRed _ _ _ => true
  | .collBc _ _ _ => true
  | .collFlt _ _ _ => true
  | .collAr _ _ _ => true
  | .handRel _ _ _ => true
  | .handAcq _ _ _ => true
  | .handQuery _ _ _ => true
  | .handoverPush _ => true
  | .nxCommandComplete _ _ => true
  | .ringAdmission _ _ => true
  | .routeResolve _ _ => true
  | .elasticPair _ _ => true
  | .elasticTokenCross _ _ => true
  | .collChunk _ _ => true
  | .memberLoss _ _ => true
  | .groupJoinComplete _ => true
  | .affineReadToken _ _ => true
  | .affineWriteToken _ _ => true
  | .gatherIndex _ _ => true
  | .scatterPair _ _ => true
  | .updatePair _ _ => true
  | .streamComplete _ _ => true
  | .suuUpdateApply _ => true
  | .suuLineRelease _ _ => true
  | .puuUpdateApply _ => true
  | .hashApply _ _ => true
  | .iseRequest _ => true
  | .iseTokenDeliver _ _ => true
  | .linkMove _ _ => true
  | .repeatRound _ _ => true
  | .steerSegment _ _ => true
  | .mergeSegment _ _ => true
  | .joinAlign _ _ => true
  | .demandCredit _ _ => true
  | .spillWrite _ _ => true
  | .spillRefill _ _ => true
  | .instructionFetch _ _ => true
  | .withheldAccessProceed _ _ => true
  | .windowRegister _ _ => true
  | .windowUnregister _ _ => true
  | .csrSpillWrite _ _ _ => true
  | .ectlWrite _ _ _ _ => true
  | .statusWrite _ _ _ => true
  | .registerWrite _ _ _ _ => true
  | .notifyWrite _ => true
  | .aqenWrite _ => true
  | .devidWrite _ => true
  | .asyncTrapTake _ _ => true
  | .endCrew _ _ => true
  | .watchdog _ => true
  | .drainToCheckpoint _ _ => true
  | .checkpointPageRecheck _ => true
  | .crewSave _ _ => true
  | .snapshotFallback _ => true
  | .crewResume _ _ => true
  | .preemptWaitExpiry _ _ => true
  | .swapOut _ => true
  | .crewRetire _ => true
  | .queueScan _ => true
  | .priorityAging _ => true
  | .dependencyRecheck _ => true
  | .launch _ => true
  | .barrierAnd _ => true
  | .signalRecord _ => true
  | .createQueue _ => true
  | .destroyQueue _ => true
  | .shootdown _ => true
  | .migrate _ => true
  | .handoverRecord _ => true
  | .clearRoute _ => true
  | .contextRoot _ => true
  | .gangPlace _ _ => true
  | .stealRequest _ => true
  | .stealGrant _ _ _ => true
  | .launchComplete _ => true
  | .packetReceive _ _ _ => true
  | .ackReceive _ _ => true
  | .ackTimeout _ => true
  | .linkDown _ => true
  | .hostLinkDown _ => true
  | .hostHdmAccess _ _ _ => true
  | .dieReset _ => true
  | .function0Reset => true
  | .controlPlaneRestart => true
  | .dataPlaneRestart => true
  | .managementPlaneRestart => true
  | .firmwareVerify _ _ => true
  | .hubBoundaryTrained _ => true
  | .stackTrained _ => true
  | .enterTwilight => true
  | .enterFullService => true
  | .stackTrainingTimeout => true
  | .spdmRequest _ => true
  | .tdispRequest _ _ => true
  | .transitTestStart _ => true
  | .transitTestResult _ _ _ _ => true
  | .thermalClockLower _ => true
  | .illegalInstruction _ _ => true
  | .nuethPortTrained _ => true
  | .hostLinkUp _ => true
  | .cxlCacheSnoop _ _ => true
  | .lazyWriteback _ _ _ => true
  | .storeBufferDrain _ _ => true
  | .scalarAccessResponse _ _ _ _ => true

end Sys2Proof
end

