-- ==== Sys2Proof/Decode.lean ====
section
/-!
DEFINITION. Decoding and encoding of sequencer words (spec 03, R45 to R56): the decoder is total and
rejects by name; the encoder is written from the same tables.
-/
namespace Sys2Proof

/-- Why a word is not an instruction (Table 3.5). -/
inductive DecodeError where
  | reservedMajor
  | reservedCode
  | nonzeroField
  | badSize
  | badScope
  | badLevel
  | emptyLoop
  | nullWait
  deriving DecidableEq, Repr

/-- The result of decoding: an instruction, or the reason the words are none. -/
inductive Decoded where
  | ok (i : Instr)
  | error (e : DecodeError)
  deriving DecidableEq, Repr

/-- The field of n bits at bit lo of a word. -/
def fld (w lo n : Nat) : Nat := w / 2 ^ lo % 2 ^ n

/-- The same field as a bit vector. -/
def bv (n w lo : Nat) : BitVec n := BitVec.ofNat n (w / 2 ^ lo)

/-- A word: its fixed bits and its fields, each a number at a bit place. -/
def place (base : Nat) (fields : List (Nat × Nat)) : Nat :=
  fields.foldl (fun w f => w + f.1 * 2 ^ f.2) base

/-- Major 0x00 (Table 3.3). -/
def decodeBinary (w : Nat) : Decoded :=
  match fld w 3 5 with
  | 0 => .ok (.add (bv 6 w 20) (bv 6 w 14) (bv 6 w 8) (bv 3 w 0))
  | 1 => .ok (.sub (bv 6 w 20) (bv 6 w 14) (bv 6 w 8) (bv 3 w 0))
  | 2 => .ok (.mul (bv 6 w 20) (bv 6 w 14) (bv 6 w 8) (bv 3 w 0))
  | 3 => .ok (.mulh (bv 6 w 20) (bv 6 w 14) (bv 6 w 8) (bv 3 w 0))
  | 4 => .ok (.mulhn (bv 6 w 20) (bv 6 w 14) (bv 6 w 8) (bv 3 w 0))
  | 5 => .ok (.div (bv 6 w 20) (bv 6 w 14) (bv 6 w 8) (bv 3 w 0))
  | 6 => .ok (.divn (bv 6 w 20) (bv 6 w 14) (bv 6 w 8) (bv 3 w 0))
  | 7 => .ok (.rem (bv 6 w 20) (bv 6 w 14) (bv 6 w 8) (bv 3 w 0))
  | 8 => .ok (.remn (bv 6 w 20) (bv 6 w 14) (bv 6 w 8) (bv 3 w 0))
  | 9 => .ok (.and (bv 6 w 20) (bv 6 w 14) (bv 6 w 8) (bv 3 w 0))
  | 10 => .ok (.or (bv 6 w 20) (bv 6 w 14) (bv 6 w 8) (bv 3 w 0))
  | 11 => .ok (.xor (bv 6 w 20) (bv 6 w 14) (bv 6 w 8) (bv 3 w 0))
  | 12 => .ok (.andn (bv 6 w 20) (bv 6 w 14) (bv 6 w 8) (bv 3 w 0))
  | 13 => .ok (.shl (bv 6 w 20) (bv 6 w 14) (bv 6 w 8) (bv 3 w 0))
  | 14 => .ok (.shr (bv 6 w 20) (bv 6 w 14) (bv 6 w 8) (bv 3 w 0))
  | 15 => .ok (.sra (bv 6 w 20) (bv 6 w 14) (bv 6 w 8) (bv 3 w 0))
  | 16 => .ok (.rot (bv 6 w 20) (bv 6 w 14) (bv 6 w 8) (bv 3 w 0))
  | 17 => .ok (.min (bv 6 w 20) (bv 6 w 14) (bv 6 w 8) (bv 3 w 0))
  | 18 => .ok (.max (bv 6 w 20) (bv 6 w 14) (bv 6 w 8) (bv 3 w 0))
  | 19 => .ok (.minn (bv 6 w 20) (bv 6 w 14) (bv 6 w 8) (bv 3 w 0))
  | 20 => .ok (.maxn (bv 6 w 20) (bv 6 w 14) (bv 6 w 8) (bv 3 w 0))
  | 21 => .ok (.addw (bv 6 w 20) (bv 6 w 14) (bv 6 w 8) (bv 3 w 0))
  | 22 => .ok (.subw (bv 6 w 20) (bv 6 w 14) (bv 6 w 8) (bv 3 w 0))
  | 23 => .ok (.mulw (bv 6 w 20) (bv 6 w 14) (bv 6 w 8) (bv 3 w 0))
  | _ => .error .reservedCode

/-- Major 0x01 (Table 3.3). -/
def decodeUnary (w : Nat) : Decoded :=
  match fld w 3 5 with
  | 0 => if fld w 8 6 = 0 then .ok (.clz (bv 6 w 20) (bv 6 w 14) (bv 3 w 0)) else .error .nonzeroField
  | 1 => if fld w 8 6 = 0 then .ok (.ctz (bv 6 w 20) (bv 6 w 14) (bv 3 w 0)) else .error .nonzeroField
  | 2 => if fld w 8 6 = 0 then .ok (.popc (bv 6 w 20) (bv 6 w 14) (bv 3 w 0)) else .error .nonzeroField
  | 3 => if fld w 8 6 = 0 then .ok (.sextB (bv 6 w 20) (bv 6 w 14) (bv 3 w 0)) else .error .nonzeroField
  | 4 => if fld w 8 6 = 0 then .ok (.sextH (bv 6 w 20) (bv 6 w 14) (bv 3 w 0)) else .error .nonzeroField
  | 5 => if fld w 8 6 = 0 then .ok (.sextW (bv 6 w 20) (bv 6 w 14) (bv 3 w 0)) else .error .nonzeroField
  | 6 => if fld w 8 6 = 0 then .ok (.zextB (bv 6 w 20) (bv 6 w 14) (bv 3 w 0)) else .error .nonzeroField
  | 7 => if fld w 8 6 = 0 then .ok (.zextH (bv 6 w 20) (bv 6 w 14) (bv 3 w 0)) else .error .nonzeroField
  | 8 => if fld w 8 6 = 0 then .ok (.zextW (bv 6 w 20) (bv 6 w 14) (bv 3 w 0)) else .error .nonzeroField
  | 9 => if fld w 8 6 = 0 then .ok (.rev (bv 6 w 20) (bv 6 w 14) (bv 3 w 0)) else .error .nonzeroField
  | 10 => if fld w 8 6 = 0 then .ok (.mov (bv 6 w 20) (bv 6 w 14) (bv 3 w 0)) else .error .nonzeroField
  | _ => .error .reservedCode

/-- Major 0x02 (Table 3.3). -/
def decodeCompare (w : Nat) : Decoded :=
  match fld w 3 5 with
  | 0 => if fld w 23 3 = 0 then .ok (.cmpEq (bv 3 w 20) (bv 6 w 14) (bv 6 w 8) (bv 3 w 0)) else .error .nonzeroField
  | 1 => if fld w 23 3 = 0 then .ok (.cmpNe (bv 3 w 20) (bv 6 w 14) (bv 6 w 8) (bv 3 w 0)) else .error .nonzeroField
  | 2 => if fld w 23 3 = 0 then .ok (.cmpLt (bv 3 w 20) (bv 6 w 14) (bv 6 w 8) (bv 3 w 0)) else .error .nonzeroField
  | 3 => if fld w 23 3 = 0 then .ok (.cmpLtn (bv 3 w 20) (bv 6 w 14) (bv 6 w 8) (bv 3 w 0)) else .error .nonzeroField
  | 4 => if fld w 23 3 = 0 then .ok (.cmpLe (bv 3 w 20) (bv 6 w 14) (bv 6 w 8) (bv 3 w 0)) else .error .nonzeroField
  | 5 => if fld w 23 3 = 0 then .ok (.cmpLen (bv 3 w 20) (bv 6 w 14) (bv 6 w 8) (bv 3 w 0)) else .error .nonzeroField
  | 6 => if fld w 23 3 = 0 then .ok (.cmpBit (bv 3 w 20) (bv 6 w 14) (bv 6 w 8) (bv 3 w 0)) else .error .nonzeroField
  | _ => .error .reservedCode

/-- Major 0x03 (Table 3.3). -/
def decodePredicate (w : Nat) : Decoded :=
  match fld w 3 5 with
  | 0 => if fld w 11 3 = 0 then if fld w 17 3 = 0 then if fld w 23 3 = 0 then .ok (.pand (bv 3 w 20) (bv 3 w 14) (bv 3 w 8) (bv 3 w 0)) else .error .nonzeroField else .error .nonzeroField else .error .nonzeroField
  | 1 => if fld w 11 3 = 0 then if fld w 17 3 = 0 then if fld w 23 3 = 0 then .ok (.por (bv 3 w 20) (bv 3 w 14) (bv 3 w 8) (bv 3 w 0)) else .error .nonzeroField else .error .nonzeroField else .error .nonzeroField
  | 2 => if fld w 11 3 = 0 then if fld w 17 3 = 0 then if fld w 23 3 = 0 then .ok (.pxor (bv 3 w 20) (bv 3 w 14) (bv 3 w 8) (bv 3 w 0)) else .error .nonzeroField else .error .nonzeroField else .error .nonzeroField
  | 3 => if fld w 11 3 = 0 then if fld w 17 3 = 0 then if fld w 23 3 = 0 then .ok (.pandn (bv 3 w 20) (bv 3 w 14) (bv 3 w 8) (bv 3 w 0)) else .error .nonzeroField else .error .nonzeroField else .error .nonzeroField
  | 4 => if fld w 8 6 = 0 then if fld w 17 3 = 0 then if fld w 23 3 = 0 then .ok (.pnot (bv 3 w 20) (bv 3 w 14) (bv 3 w 0)) else .error .nonzeroField else .error .nonzeroField else .error .nonzeroField
  | 5 => if fld w 8 6 = 0 then if fld w 23 3 = 0 then .ok (.pmovX (bv 3 w 20) (bv 6 w 14) (bv 3 w 0)) else .error .nonzeroField else .error .nonzeroField
  | 6 => if fld w 8 6 = 0 then if fld w 17 3 = 0 then .ok (.movpX (bv 6 w 20) (bv 3 w 14) (bv 3 w 0)) else .error .nonzeroField else .error .nonzeroField
  | _ => .error .reservedCode

/-- Major 0x08 (Table 3.3). -/
def decodeShift (w : Nat) : Decoded :=
  match fld w 11 3 with
  | 0 => if fld w 9 2 = 0 then .ok (.shli (bv 6 w 20) (bv 6 w 14) (bv 6 w 3) (bv 3 w 0)) else .error .nonzeroField
  | 1 => if fld w 9 2 = 0 then .ok (.shri (bv 6 w 20) (bv 6 w 14) (bv 6 w 3) (bv 3 w 0)) else .error .nonzeroField
  | 2 => if fld w 9 2 = 0 then .ok (.srai (bv 6 w 20) (bv 6 w 14) (bv 6 w 3) (bv 3 w 0)) else .error .nonzeroField
  | 3 => if fld w 9 2 = 0 then .ok (.roti (bv 6 w 20) (bv 6 w 14) (bv 6 w 3) (bv 3 w 0)) else .error .nonzeroField
  | _ => .error .reservedCode

/-- Major 0x09 (Table 3.3). -/
def decodeCompareImm (w : Nat) : Decoded :=
  match fld w 11 3 with
  | 0 => if fld w 23 3 = 0 then .ok (.cmpiEq (bv 3 w 20) (bv 6 w 14) (bv 8 w 3) (bv 3 w 0)) else .error .nonzeroField
  | 1 => if fld w 23 3 = 0 then .ok (.cmpiLt (bv 3 w 20) (bv 6 w 14) (bv 8 w 3) (bv 3 w 0)) else .error .nonzeroField
  | 2 => if fld w 23 3 = 0 then .ok (.cmpiLtn (bv 3 w 20) (bv 6 w 14) (bv 8 w 3) (bv 3 w 0)) else .error .nonzeroField
  | _ => .error .reservedCode

/-- Major 0x14 (Table 3.3). -/
def decodeOrdered (w : Nat) : Decoded :=
  match fld w 8 3 with
  | 0 => if fld w 6 2 = 0 then if (fld w 11 3) ≤ 6 then if (fld w 3 3) ≤ 5 then .ok (.ldAcq (bv 6 w 20) (bv 6 w 14) (bv 3 w 11) (bv 3 w 3) (bv 3 w 0)) else .error .badScope else .error .badSize else .error .nonzeroField
  | 1 => if fld w 6 2 = 0 then if fld w 13 1 = 0 then if (fld w 3 3) ≤ 5 then .ok (.stRel (bv 6 w 20) (bv 6 w 14) (bv 2 w 11) (bv 3 w 3) (bv 3 w 0)) else .error .badScope else .error .nonzeroField else .error .nonzeroField
  | 2 => if fld w 6 2 = 0 then if fld w 11 3 = 0 then if fld w 20 6 = 0 then if (fld w 3 3) ≤ 5 then .ok (.pf (bv 6 w 14) (bv 3 w 3) (bv 3 w 0)) else .error .badScope else .error .nonzeroField else .error .nonzeroField else .error .nonzeroField
  | 3 => if fld w 6 2 = 0 then if fld w 11 3 = 0 then if fld w 20 6 = 0 then if (fld w 3 3) ≤ 5 then .ok (.clWb (bv 6 w 14) (bv 3 w 3) (bv 3 w 0)) else .error .badScope else .error .nonzeroField else .error .nonzeroField else .error .nonzeroField
  | 4 => if fld w 6 2 = 0 then if fld w 11 3 = 0 then if fld w 20 6 = 0 then if (fld w 3 3) ≤ 5 then .ok (.clInv (bv 6 w 14) (bv 3 w 3) (bv 3 w 0)) else .error .badScope else .error .nonzeroField else .error .nonzeroField else .error .nonzeroField
  | 5 => if fld w 6 2 = 0 then if fld w 11 3 = 0 then if fld w 20 6 = 0 then if (fld w 3 3) ≤ 5 then .ok (.clWbinv (bv 6 w 14) (bv 3 w 3) (bv 3 w 0)) else .error .badScope else .error .nonzeroField else .error .nonzeroField else .error .nonzeroField
  | _ => .error .reservedCode

/-- Major 0x1B (Table 3.3). -/
def decodeLoop (w : Nat) : Decoded :=
  match fld w 19 1 with
  | 0 => if (fld w 3 16) ≠ 0 then .ok (.loop (bv 6 w 20) (bv 16 w 3) (bv 3 w 0)) else .error .emptyLoop
  | 1 => if fld w 3 16 = 0 then if fld w 20 6 = 0 then .ok (.loopBrk (bv 3 w 0)) else .error .nonzeroField else .error .nonzeroField
  | _ => .error .reservedCode

/-- Major 0x1C (Table 3.3). -/
def decodeCsr (w : Nat) : Decoded :=
  match fld w 3 5 with
  | 0 => .ok (.csrr (bv 6 w 20) (bv 12 w 8) (bv 3 w 0))
  | 1 => .ok (.csrw (bv 6 w 20) (bv 12 w 8) (bv 3 w 0))
  | 2 => .ok (.csrs (bv 6 w 20) (bv 12 w 8) (bv 3 w 0))
  | 3 => .ok (.csrc (bv 6 w 20) (bv 12 w 8) (bv 3 w 0))
  | _ => .error .reservedCode

/-- Major 0x1D (Table 3.3). -/
def decodeSystem (w : Nat) : Decoded :=
  match fld w 3 5 with
  | 0 => if fld w 8 18 = 0 then .ok (.nop (bv 3 w 0)) else .error .nonzeroField
  | 1 => if fld w 8 6 = 0 then if fld w 20 6 = 0 then .ok (.trap (bv 6 w 14) (bv 3 w 0)) else .error .nonzeroField else .error .nonzeroField
  | 2 => if fld w 8 18 = 0 then .ok (.eret (bv 3 w 0)) else .error .nonzeroField
  | 3 => if fld w 8 18 = 0 then .ok (.brk (bv 3 w 0)) else .error .nonzeroField
  | 4 => if fld w 8 18 = 0 then .ok (.yield (bv 3 w 0)) else .error .nonzeroField
  | 5 => if fld w 8 18 = 0 then .ok (.halt (bv 3 w 0)) else .error .nonzeroField
  | 6 => if fld w 8 6 = 0 then if fld w 20 6 = 0 then .ok (.ctxSave (bv 6 w 14) (bv 3 w 0)) else .error .nonzeroField else .error .nonzeroField
  | 7 => if fld w 8 6 = 0 then if fld w 20 6 = 0 then .ok (.ctxRest (bv 6 w 14) (bv 3 w 0)) else .error .nonzeroField else .error .nonzeroField
  | 8 => if fld w 8 6 = 0 then if fld w 20 6 = 0 then .ok (.xltFlush (bv 6 w 14) (bv 3 w 0)) else .error .nonzeroField else .error .nonzeroField
  | _ => .error .reservedCode

/-- Major 0x1E (Table 3.3). -/
def decodeFence (w : Nat) : Decoded :=
  match fld w 6 3 with
  | 0 => if fld w 9 17 = 0 then if (fld w 3 3) ≤ 5 then .ok (.fence (bv 3 w 3) (bv 3 w 0)) else .error .badScope else .error .nonzeroField
  | 1 => if fld w 9 17 = 0 then if (fld w 3 3) ≤ 5 then .ok (.fenceAcq (bv 3 w 3) (bv 3 w 0)) else .error .badScope else .error .nonzeroField
  | 2 => if fld w 9 17 = 0 then if (fld w 3 3) ≤ 5 then .ok (.fenceRel (bv 3 w 3) (bv 3 w 0)) else .error .badScope else .error .nonzeroField
  | 3 => if fld w 9 17 = 0 then if (fld w 3 3) ≤ 5 then .ok (.fenceSm (bv 3 w 3) (bv 3 w 0)) else .error .badScope else .error .nonzeroField
  | _ => .error .reservedCode

/-- Major 0x1F (Table 3.3). -/
def decodeWait (w : Nat) : Decoded :=
  match fld w 19 1 with
  | 0 => if (fld w 20 6) ≠ 63 then .ok (.wait (bv 6 w 20) (bv 16 w 3) (bv 3 w 0)) else .error .nullWait
  | 1 => if (fld w 20 6) ≠ 63 then .ok (.waitDec (bv 6 w 20) (bv 16 w 3) (bv 3 w 0)) else .error .nullWait
  | _ => .error .reservedCode

/-- Major 0x20 (Table 3.3). -/
def decodeSignal (w : Nat) : Decoded :=
  match fld w 19 1 with
  | 0 => .ok (.sig (bv 6 w 20) (bv 16 w 3) (bv 3 w 0))
  | 1 => .ok (.sigSet (bv 6 w 20) (bv 16 w 3) (bv 3 w 0))
  | _ => .error .reservedCode

/-- Major 0x21 (Table 3.3). -/
def decodeWaita (w : Nat) : Decoded :=
  match fld w 3 5 with
  | 0 => .ok (.waitaEq (bv 6 w 20) (bv 6 w 14) (bv 6 w 8) (bv 3 w 0))
  | 1 => .ok (.waitaNe (bv 6 w 20) (bv 6 w 14) (bv 6 w 8) (bv 3 w 0))
  | 2 => .ok (.waitaGe (bv 6 w 20) (bv 6 w 14) (bv 6 w 8) (bv 3 w 0))
  | 3 => .ok (.waitaLt (bv 6 w 20) (bv 6 w 14) (bv 6 w 8) (bv 3 w 0))
  | 4 => .ok (.waitaGen (bv 6 w 20) (bv 6 w 14) (bv 6 w 8) (bv 3 w 0))
  | _ => .error .reservedCode

/-- Major 0x24 (Table 3.3). -/
def decodeStream (w : Nat) : Decoded :=
  match fld w 3 5 with
  | 0 => .ok (.smAff (bv 6 w 20) (bv 6 w 14) (bv 6 w 8) (bv 3 w 0))
  | 1 => .ok (.smAfw (bv 6 w 20) (bv 6 w 14) (bv 6 w 8) (bv 3 w 0))
  | 2 => .ok (.smInd (bv 6 w 20) (bv 6 w 14) (bv 6 w 8) (bv 3 w 0))
  | 3 => .ok (.smSct (bv 6 w 20) (bv 6 w 14) (bv 6 w 8) (bv 3 w 0))
  | 4 => .ok (.smUpd (bv 6 w 20) (bv 6 w 14) (bv 6 w 8) (bv 3 w 0))
  | 5 => .ok (.smIsx (bv 6 w 20) (bv 6 w 14) (bv 6 w 8) (bv 3 w 0))
  | 6 => if fld w 14 6 = 0 then .ok (.smBar (bv 6 w 20) (bv 6 w 8) (bv 3 w 0)) else .error .nonzeroField
  | 7 => if fld w 14 6 = 0 then .ok (.smKill (bv 6 w 20) (bv 6 w 8) (bv 3 w 0)) else .error .nonzeroField
  | _ => .error .reservedCode

/-- Major 0x25 (Table 3.3). -/
def decodeGraph (w : Nat) : Decoded :=
  match fld w 3 5 with
  | 0 => .ok (.smLink (bv 6 w 20) (bv 6 w 14) (bv 6 w 8) (bv 3 w 0))
  | 1 => .ok (.smRep (bv 6 w 20) (bv 6 w 14) (bv 6 w 8) (bv 3 w 0))
  | 2 => .ok (.smSteer (bv 6 w 20) (bv 6 w 14) (bv 6 w 8) (bv 3 w 0))
  | 3 => .ok (.smMerge (bv 6 w 20) (bv 6 w 14) (bv 6 w 8) (bv 3 w 0))
  | 4 => .ok (.smDem (bv 6 w 20) (bv 6 w 14) (bv 6 w 8) (bv 3 w 0))
  | 5 => .ok (.smStop (bv 6 w 20) (bv 6 w 14) (bv 6 w 8) (bv 3 w 0))
  | 6 => .ok (.smSpill (bv 6 w 20) (bv 6 w 14) (bv 6 w 8) (bv 3 w 0))
  | 7 => .ok (.smTok (bv 6 w 20) (bv 6 w 14) (bv 6 w 8) (bv 3 w 0))
  | 8 => .ok (.smDrain (bv 6 w 20) (bv 6 w 14) (bv 6 w 8) (bv 3 w 0))
  | 9 => .ok (.wave (bv 6 w 20) (bv 6 w 14) (bv 6 w 8) (bv 3 w 0))
  | _ => .error .reservedCode

/-- Major 0x26 (Table 3.3). -/
def decodeArray (w : Nat) : Decoded :=
  match fld w 3 5 with
  | 0 => .ok (.arCarve (bv 6 w 20) (bv 6 w 14) (bv 6 w 8) (bv 3 w 0))
  | 1 => .ok (.arHold (bv 6 w 20) (bv 6 w 14) (bv 6 w 8) (bv 3 w 0))
  | 2 => .ok (.arFeed (bv 6 w 20) (bv 6 w 14) (bv 6 w 8) (bv 3 w 0))
  | 3 => if fld w 14 6 = 0 then .ok (.arStep (bv 6 w 20) (bv 6 w 8) (bv 3 w 0)) else .error .nonzeroField
  | 4 => if fld w 14 6 = 0 then .ok (.mxRun (bv 6 w 20) (bv 6 w 8) (bv 3 w 0)) else .error .nonzeroField
  | 5 => if fld w 14 6 = 0 then .ok (.arDrain (bv 6 w 20) (bv 6 w 8) (bv 3 w 0)) else .error .nonzeroField
  | 6 => .ok (.arZero (bv 6 w 20) (bv 6 w 14) (bv 6 w 8) (bv 3 w 0))
  | 7 => .ok (.arChk (bv 6 w 20) (bv 6 w 14) (bv 6 w 8) (bv 3 w 0))
  | 8 => if fld w 14 6 = 0 then .ok (.arCoop (bv 6 w 20) (bv 6 w 8) (bv 3 w 0)) else .error .nonzeroField
  | 9 => .ok (.arMmap (bv 6 w 20) (bv 6 w 14) (bv 6 w 8) (bv 3 w 0))
  | _ => .error .reservedCode

/-- Major 0x27 (Table 3.3). -/
def decodeElement (w : Nat) : Decoded :=
  match fld w 3 5 with
  | 0 => .ok (.vePlane (bv 6 w 20) (bv 6 w 14) (bv 6 w 8) (bv 3 w 0))
  | 1 => .ok (.veSwap (bv 6 w 20) (bv 6 w 14) (bv 6 w 8) (bv 3 w 0))
  | 2 => .ok (.veBind (bv 6 w 20) (bv 6 w 14) (bv 6 w 8) (bv 3 w 0))
  | 3 => if fld w 14 6 = 0 then .ok (.veStart (bv 6 w 20) (bv 6 w 8) (bv 3 w 0)) else .error .nonzeroField
  | 4 => if fld w 14 6 = 0 then .ok (.veStop (bv 6 w 20) (bv 6 w 8) (bv 3 w 0)) else .error .nonzeroField
  | 5 => .ok (.veRd (bv 6 w 20) (bv 6 w 14) (bv 6 w 8) (bv 3 w 0))
  | 6 => .ok (.veWr (bv 6 w 20) (bv 6 w 14) (bv 6 w 8) (bv 3 w 0))
  | 7 => .ok (.veKonst (bv 6 w 20) (bv 6 w 14) (bv 6 w 8) (bv 3 w 0))
  | _ => .error .reservedCode

/-- Major 0x28 (Table 3.3). -/
def decodeNetwork (w : Nat) : Decoded :=
  match fld w 3 5 with
  | 0 => if fld w 14 6 = 0 then .ok (.nxPut (bv 6 w 20) (bv 6 w 8) (bv 3 w 0)) else .error .nonzeroField
  | 1 => if fld w 14 6 = 0 then .ok (.nxGet (bv 6 w 20) (bv 6 w 8) (bv 3 w 0)) else .error .nonzeroField
  | 2 => .ok (.nxXget (bv 6 w 20) (bv 6 w 14) (bv 6 w 8) (bv 3 w 0))
  | 3 => if fld w 14 6 = 0 then .ok (.nxSend (bv 6 w 20) (bv 6 w 8) (bv 3 w 0)) else .error .nonzeroField
  | 4 => if fld w 14 6 = 0 then .ok (.nxRoute (bv 6 w 20) (bv 6 w 8) (bv 3 w 0)) else .error .nonzeroField
  | 5 => if fld w 14 6 = 0 then .ok (.nxRing (bv 6 w 20) (bv 6 w 8) (bv 3 w 0)) else .error .nonzeroField
  | 6 => if fld w 14 6 = 0 then .ok (.nxChan (bv 6 w 20) (bv 6 w 8) (bv 3 w 0)) else .error .nonzeroField
  | _ => .error .reservedCode

/-- Major 0x29 (Table 3.3). -/
def decodeCollective (w : Nat) : Decoded :=
  match fld w 3 5 with
  | 0 => if fld w 14 6 = 0 then .ok (.collGrp (bv 6 w 20) (bv 6 w 8) (bv 3 w 0)) else .error .nonzeroField
  | 1 => if fld w 14 6 = 0 then .ok (.collRed (bv 6 w 20) (bv 6 w 8) (bv 3 w 0)) else .error .nonzeroField
  | 2 => if fld w 14 6 = 0 then .ok (.collBc (bv 6 w 20) (bv 6 w 8) (bv 3 w 0)) else .error .nonzeroField
  | 3 => if fld w 14 6 = 0 then .ok (.collFlt (bv 6 w 20) (bv 6 w 8) (bv 3 w 0)) else .error .nonzeroField
  | 4 => if fld w 14 6 = 0 then .ok (.collAr (bv 6 w 20) (bv 6 w 8) (bv 3 w 0)) else .error .nonzeroField
  | _ => .error .reservedCode

/-- Major 0x2A (Table 3.3). -/
def decodeHandover (w : Nat) : Decoded :=
  match fld w 3 5 with
  | 0 => if fld w 14 6 = 0 then .ok (.handRel (bv 6 w 20) (bv 6 w 8) (bv 3 w 0)) else .error .nonzeroField
  | 1 => if fld w 14 6 = 0 then .ok (.handAcq (bv 6 w 20) (bv 6 w 8) (bv 3 w 0)) else .error .nonzeroField
  | 2 => if fld w 14 6 = 0 then .ok (.handQuery (bv 6 w 20) (bv 6 w 8) (bv 3 w 0)) else .error .nonzeroField
  | _ => .error .reservedCode

/-- A one-word instruction (R52, R53). -/
def decodeOne (w : Nat) : Decoded :=
  match fld w 26 6 with
  | 0x00 => decodeBinary w
  | 0x01 => decodeUnary w
  | 0x02 => decodeCompare w
  | 0x03 => decodePredicate w
  | 0x04 => .ok (.addi (bv 6 w 20) (bv 6 w 14) (bv 11 w 3) (bv 3 w 0))
  | 0x05 => .ok (.andi (bv 6 w 20) (bv 6 w 14) (bv 11 w 3) (bv 3 w 0))
  | 0x06 => .ok (.ori (bv 6 w 20) (bv 6 w 14) (bv 11 w 3) (bv 3 w 0))
  | 0x07 => .ok (.xori (bv 6 w 20) (bv 6 w 14) (bv 11 w 3) (bv 3 w 0))
  | 0x08 => decodeShift w
  | 0x09 => decodeCompareImm w
  | 0x0A => .ok (.li (bv 6 w 20) (bv 17 w 3) (bv 3 w 0))
  | 0x0C => if (fld w 3 5) ≤ 4 then .ok (.lea (bv 6 w 20) (bv 6 w 14) (bv 6 w 8) (bv 5 w 3) (bv 3 w 0)) else .error .reservedCode
  | 0x0D => if fld w 6 2 = 0 then .ok (.sel (bv 6 w 20) (bv 6 w 14) (bv 6 w 8) (bv 3 w 3) (bv 3 w 0)) else .error .nonzeroField
  | 0x10 => if (fld w 11 3) ≤ 6 then .ok (.ldSp (bv 6 w 20) (bv 6 w 14) (bv 3 w 11) (bv 8 w 3) (bv 3 w 0)) else .error .badSize
  | 0x11 => if fld w 13 1 = 0 then .ok (.stSp (bv 6 w 20) (bv 6 w 14) (bv 2 w 11) (bv 8 w 3) (bv 3 w 0)) else .error .nonzeroField
  | 0x12 => if (fld w 11 3) ≤ 6 then .ok (.ldGl (bv 6 w 20) (bv 6 w 14) (bv 3 w 11) (bv 8 w 3) (bv 3 w 0)) else .error .badSize
  | 0x13 => if fld w 13 1 = 0 then .ok (.stGl (bv 6 w 20) (bv 6 w 14) (bv 2 w 11) (bv 8 w 3) (bv 3 w 0)) else .error .nonzeroField
  | 0x14 => decodeOrdered w
  | 0x18 => .ok (.br (bv 3 w 23) (w.testBit 22) (bv 22 w 0))
  | 0x19 => .ok (.jal (bv 6 w 20) (bv 20 w 0))
  | 0x1A => if fld w 3 11 = 0 then .ok (.jalr (bv 6 w 20) (bv 6 w 14) (bv 3 w 0)) else .error .nonzeroField
  | 0x1B => decodeLoop w
  | 0x1C => decodeCsr w
  | 0x1D => decodeSystem w
  | 0x1E => decodeFence w
  | 0x1F => decodeWait w
  | 0x20 => decodeSignal w
  | 0x21 => decodeWaita w
  | 0x22 => if fld w 14 12 = 0 then if 1 ≤ (fld w 3 3) ∧ (fld w 3 3) ≤ 4 then .ok (.bar (bv 8 w 6) (bv 3 w 3) (bv 3 w 0)) else .error .badLevel else .error .nonzeroField
  | 0x23 => if fld w 6 20 = 0 then if 1 ≤ (fld w 3 3) ∧ (fld w 3 3) ≤ 4 then .ok (.syncStep (bv 3 w 3) (bv 3 w 0)) else .error .badLevel else .error .nonzeroField
  | 0x24 => decodeStream w
  | 0x25 => decodeGraph w
  | 0x26 => decodeArray w
  | 0x27 => decodeElement w
  | 0x28 => decodeNetwork w
  | 0x29 => decodeCollective w
  | 0x2A => decodeHandover w
  | _ => .error .reservedMajor

/-- An atomic (Table 3.4, major 0x30): `w` the first word, `v` the second. -/
def decodeAtomic (w v : Nat) : Decoded :=
  if fld w 3 5 ≠ 0 then .error .reservedCode
  else if fld v 11 21 ≠ 0 then .error .nonzeroField
  else if 5 < fld v 5 3 then .error .badScope
  else match fld v 0 5 with
  | 0 => .ok (.amoAdd (bv 6 w 20) (bv 6 w 14) (bv 6 w 8) (bv 3 v 5) (bv 2 v 8) (v.testBit 10) (bv 3 w 0))
  | 1 => .ok (.amoAnd (bv 6 w 20) (bv 6 w 14) (bv 6 w 8) (bv 3 v 5) (bv 2 v 8) (v.testBit 10) (bv 3 w 0))
  | 2 => .ok (.amoOr (bv 6 w 20) (bv 6 w 14) (bv 6 w 8) (bv 3 v 5) (bv 2 v 8) (v.testBit 10) (bv 3 w 0))
  | 3 => .ok (.amoXor (bv 6 w 20) (bv 6 w 14) (bv 6 w 8) (bv 3 v 5) (bv 2 v 8) (v.testBit 10) (bv 3 w 0))
  | 4 => .ok (.amoMin (bv 6 w 20) (bv 6 w 14) (bv 6 w 8) (bv 3 v 5) (bv 2 v 8) (v.testBit 10) (bv 3 w 0))
  | 5 => .ok (.amoMax (bv 6 w 20) (bv 6 w 14) (bv 6 w 8) (bv 3 v 5) (bv 2 v 8) (v.testBit 10) (bv 3 w 0))
  | 6 => .ok (.amoMinn (bv 6 w 20) (bv 6 w 14) (bv 6 w 8) (bv 3 v 5) (bv 2 v 8) (v.testBit 10) (bv 3 w 0))
  | 7 => .ok (.amoMaxn (bv 6 w 20) (bv 6 w 14) (bv 6 w 8) (bv 3 v 5) (bv 2 v 8) (v.testBit 10) (bv 3 w 0))
  | 8 => .ok (.amoSwap (bv 6 w 20) (bv 6 w 14) (bv 6 w 8) (bv 3 v 5) (bv 2 v 8) (v.testBit 10) (bv 3 w 0))
  | 9 => .ok (.amoCas (bv 6 w 20) (bv 6 w 14) (bv 6 w 8) (bv 3 v 5) (bv 2 v 8) (v.testBit 10) (bv 3 w 0))
  | 10 => if fld v 10 1 = 0 then .ok (.amoFaddF32 (bv 6 w 20) (bv 6 w 14) (bv 6 w 8) (bv 3 v 5) (bv 2 v 8) (bv 3 w 0)) else .error .nonzeroField
  | 11 => if fld v 10 1 = 0 then .ok (.amoFaddBf16x2 (bv 6 w 20) (bv 6 w 14) (bv 6 w 8) (bv 3 v 5) (bv 2 v 8) (bv 3 w 0)) else .error .nonzeroField
  | _ => .error .reservedCode

/-- A long form: `w` the first word, `v` the second (Table 3.4). -/
def decodeLong (w v : Nat) : Decoded :=
  match fld w 26 6 with
  | 0x30 => decodeAtomic w v
  | 0x31 =>
    if fld w 19 1 = 0 then .ok (.liL (bv 6 w 20) (bv 16 w 3) (bv 32 v 0) (bv 3 w 0))
    else if fld w 3 16 = 0 then .ok (.lihL (bv 6 w 20) (bv 32 v 0) (bv 3 w 0)) else .error .nonzeroField
  | 0x32 =>
    if fld w 3 11 = 0 then .ok (.addiL (bv 6 w 20) (bv 6 w 14) (bv 32 v 0) (bv 3 w 0)) else .error .nonzeroField
  | 0x34 =>
    if fld w 8 3 ≠ 0 then .error .nonzeroField
    else match fld w 3 5 with
    | 0 => if fld w 11 3 ≤ 6 then .ok (.ldGlL (bv 6 w 20) (bv 6 w 14) (bv 3 w 11) (bv 32 v 0) (bv 3 w 0)) else .error .badSize
    | 1 => if fld w 13 1 = 0 then .ok (.stGlL (bv 6 w 20) (bv 6 w 14) (bv 2 w 11) (bv 32 v 0) (bv 3 w 0)) else .error .badSize
    | _ => .error .reservedCode
  | _ => .error .reservedMajor

/-- Is the word the first of a long form (R46)? -/
def isLong (w : Half) : Bool := decide (48 ≤ fld w.toNat 26 6)

/-- The instruction of a first word and, for a long form, the word after it (R46, R52 to R56).
Total; an encoding that is not an instruction is rejected by name. -/
def decode (w v : Half) : Decoded :=
  if isLong w then decodeLong w.toNat v.toNat else decodeOne w.toNat

/-- The first word's number, with its fields at their places. -/
def encodeFirst : Instr → Option Nat
  | .add d a b g => some (place 0x00000000 [(d.toNat, 20), (a.toNat, 14), (b.toNat, 8), (g.toNat, 0)])
  | .sub d a b g => some (place 0x00000008 [(d.toNat, 20), (a.toNat, 14), (b.toNat, 8), (g.toNat, 0)])
  | .mul d a b g => some (place 0x00000010 [(d.toNat, 20), (a.toNat, 14), (b.toNat, 8), (g.toNat, 0)])
  | .mulh d a b g => some (place 0x00000018 [(d.toNat, 20), (a.toNat, 14), (b.toNat, 8), (g.toNat, 0)])
  | .mulhn d a b g => some (place 0x00000020 [(d.toNat, 20), (a.toNat, 14), (b.toNat, 8), (g.toNat, 0)])
  | .div d a b g => some (place 0x00000028 [(d.toNat, 20), (a.toNat, 14), (b.toNat, 8), (g.toNat, 0)])
  | .divn d a b g => some (place 0x00000030 [(d.toNat, 20), (a.toNat, 14), (b.toNat, 8), (g.toNat, 0)])
  | .rem d a b g => some (place 0x00000038 [(d.toNat, 20), (a.toNat, 14), (b.toNat, 8), (g.toNat, 0)])
  | .remn d a b g => some (place 0x00000040 [(d.toNat, 20), (a.toNat, 14), (b.toNat, 8), (g.toNat, 0)])
  | .and d a b g => some (place 0x00000048 [(d.toNat, 20), (a.toNat, 14), (b.toNat, 8), (g.toNat, 0)])
  | .or d a b g => some (place 0x00000050 [(d.toNat, 20), (a.toNat, 14), (b.toNat, 8), (g.toNat, 0)])
  | .xor d a b g => some (place 0x00000058 [(d.toNat, 20), (a.toNat, 14), (b.toNat, 8), (g.toNat, 0)])
  | .andn d a b g => some (place 0x00000060 [(d.toNat, 20), (a.toNat, 14), (b.toNat, 8), (g.toNat, 0)])
  | .shl d a b g => some (place 0x00000068 [(d.toNat, 20), (a.toNat, 14), (b.toNat, 8), (g.toNat, 0)])
  | .shr d a b g => some (place 0x00000070 [(d.toNat, 20), (a.toNat, 14), (b.toNat, 8), (g.toNat, 0)])
  | .sra d a b g => some (place 0x00000078 [(d.toNat, 20), (a.toNat, 14), (b.toNat, 8), (g.toNat, 0)])
  | .rot d a b g => some (place 0x00000080 [(d.toNat, 20), (a.toNat, 14), (b.toNat, 8), (g.toNat, 0)])
  | .min d a b g => some (place 0x00000088 [(d.toNat, 20), (a.toNat, 14), (b.toNat, 8), (g.toNat, 0)])
  | .max d a b g => some (place 0x00000090 [(d.toNat, 20), (a.toNat, 14), (b.toNat, 8), (g.toNat, 0)])
  | .minn d a b g => some (place 0x00000098 [(d.toNat, 20), (a.toNat, 14), (b.toNat, 8), (g.toNat, 0)])
  | .maxn d a b g => some (place 0x000000A0 [(d.toNat, 20), (a.toNat, 14), (b.toNat, 8), (g.toNat, 0)])
  | .addw d a b g => some (place 0x000000A8 [(d.toNat, 20), (a.toNat, 14), (b.toNat, 8), (g.toNat, 0)])
  | .subw d a b g => some (place 0x000000B0 [(d.toNat, 20), (a.toNat, 14), (b.toNat, 8), (g.toNat, 0)])
  | .mulw d a b g => some (place 0x000000B8 [(d.toNat, 20), (a.toNat, 14), (b.toNat, 8), (g.toNat, 0)])
  | .clz d a g => some (place 0x04000000 [(d.toNat, 20), (a.toNat, 14), (g.toNat, 0)])
  | .ctz d a g => some (place 0x04000008 [(d.toNat, 20), (a.toNat, 14), (g.toNat, 0)])
  | .popc d a g => some (place 0x04000010 [(d.toNat, 20), (a.toNat, 14), (g.toNat, 0)])
  | .sextB d a g => some (place 0x04000018 [(d.toNat, 20), (a.toNat, 14), (g.toNat, 0)])
  | .sextH d a g => some (place 0x04000020 [(d.toNat, 20), (a.toNat, 14), (g.toNat, 0)])
  | .sextW d a g => some (place 0x04000028 [(d.toNat, 20), (a.toNat, 14), (g.toNat, 0)])
  | .zextB d a g => some (place 0x04000030 [(d.toNat, 20), (a.toNat, 14), (g.toNat, 0)])
  | .zextH d a g => some (place 0x04000038 [(d.toNat, 20), (a.toNat, 14), (g.toNat, 0)])
  | .zextW d a g => some (place 0x04000040 [(d.toNat, 20), (a.toNat, 14), (g.toNat, 0)])
  | .rev d a g => some (place 0x04000048 [(d.toNat, 20), (a.toNat, 14), (g.toNat, 0)])
  | .mov d a g => some (place 0x04000050 [(d.toNat, 20), (a.toNat, 14), (g.toNat, 0)])
  | .cmpEq p a b g => some (place 0x08000000 [(p.toNat, 20), (a.toNat, 14), (b.toNat, 8), (g.toNat, 0)])
  | .cmpNe p a b g => some (place 0x08000008 [(p.toNat, 20), (a.toNat, 14), (b.toNat, 8), (g.toNat, 0)])
  | .cmpLt p a b g => some (place 0x08000010 [(p.toNat, 20), (a.toNat, 14), (b.toNat, 8), (g.toNat, 0)])
  | .cmpLtn p a b g => some (place 0x08000018 [(p.toNat, 20), (a.toNat, 14), (b.toNat, 8), (g.toNat, 0)])
  | .cmpLe p a b g => some (place 0x08000020 [(p.toNat, 20), (a.toNat, 14), (b.toNat, 8), (g.toNat, 0)])
  | .cmpLen p a b g => some (place 0x08000028 [(p.toNat, 20), (a.toNat, 14), (b.toNat, 8), (g.toNat, 0)])
  | .cmpBit p a b g => some (place 0x08000030 [(p.toNat, 20), (a.toNat, 14), (b.toNat, 8), (g.toNat, 0)])
  | .pand p q r g => some (place 0x0C000000 [(p.toNat, 20), (q.toNat, 14), (r.toNat, 8), (g.toNat, 0)])
  | .por p q r g => some (place 0x0C000008 [(p.toNat, 20), (q.toNat, 14), (r.toNat, 8), (g.toNat, 0)])
  | .pxor p q r g => some (place 0x0C000010 [(p.toNat, 20), (q.toNat, 14), (r.toNat, 8), (g.toNat, 0)])
  | .pandn p q r g => some (place 0x0C000018 [(p.toNat, 20), (q.toNat, 14), (r.toNat, 8), (g.toNat, 0)])
  | .pnot p q g => some (place 0x0C000020 [(p.toNat, 20), (q.toNat, 14), (g.toNat, 0)])
  | .pmovX p a g => some (place 0x0C000028 [(p.toNat, 20), (a.toNat, 14), (g.toNat, 0)])
  | .movpX d q g => some (place 0x0C000030 [(d.toNat, 20), (q.toNat, 14), (g.toNat, 0)])
  | .addi d a i g => some (place 0x10000000 [(d.toNat, 20), (a.toNat, 14), (i.toNat, 3), (g.toNat, 0)])
  | .andi d a i g => some (place 0x14000000 [(d.toNat, 20), (a.toNat, 14), (i.toNat, 3), (g.toNat, 0)])
  | .ori d a i g => some (place 0x18000000 [(d.toNat, 20), (a.toNat, 14), (i.toNat, 3), (g.toNat, 0)])
  | .xori d a i g => some (place 0x1C000000 [(d.toNat, 20), (a.toNat, 14), (i.toNat, 3), (g.toNat, 0)])
  | .shli d a n g => some (place 0x20000000 [(d.toNat, 20), (a.toNat, 14), (n.toNat, 3), (g.toNat, 0)])
  | .shri d a n g => some (place 0x20000800 [(d.toNat, 20), (a.toNat, 14), (n.toNat, 3), (g.toNat, 0)])
  | .srai d a n g => some (place 0x20001000 [(d.toNat, 20), (a.toNat, 14), (n.toNat, 3), (g.toNat, 0)])
  | .roti d a n g => some (place 0x20001800 [(d.toNat, 20), (a.toNat, 14), (n.toNat, 3), (g.toNat, 0)])
  | .cmpiEq p a i g => some (place 0x24000000 [(p.toNat, 20), (a.toNat, 14), (i.toNat, 3), (g.toNat, 0)])
  | .cmpiLt p a i g => some (place 0x24000800 [(p.toNat, 20), (a.toNat, 14), (i.toNat, 3), (g.toNat, 0)])
  | .cmpiLtn p a i g => some (place 0x24001000 [(p.toNat, 20), (a.toNat, 14), (i.toNat, 3), (g.toNat, 0)])
  | .li d i g => some (place 0x28000000 [(d.toNat, 20), (i.toNat, 3), (g.toNat, 0)])
  | .liL d hi _ g => some (place 0xC4000000 [(d.toNat, 20), (hi.toNat, 3), (g.toNat, 0)])
  | .lihL d _ g => some (place 0xC4080000 [(d.toNat, 20), (g.toNat, 0)])
  | .addiL d a _ g => some (place 0xC8000000 [(d.toNat, 20), (a.toNat, 14), (g.toNat, 0)])
  | .lea d a b n g => some (place 0x30000000 [(d.toNat, 20), (a.toNat, 14), (b.toNat, 8), (n.toNat, 3), (g.toNat, 0)])
  | .sel d a b p g => some (place 0x34000000 [(d.toNat, 20), (a.toNat, 14), (b.toNat, 8), (p.toNat, 3), (g.toNat, 0)])
  | .ldSp d a z o g => some (place 0x40000000 [(d.toNat, 20), (a.toNat, 14), (z.toNat, 11), (o.toNat, 3), (g.toNat, 0)])
  | .stSp s a z o g => some (place 0x44000000 [(s.toNat, 20), (a.toNat, 14), (z.toNat, 11), (o.toNat, 3), (g.toNat, 0)])
  | .ldGl d a z o g => some (place 0x48000000 [(d.toNat, 20), (a.toNat, 14), (z.toNat, 11), (o.toNat, 3), (g.toNat, 0)])
  | .stGl s a z o g => some (place 0x4C000000 [(s.toNat, 20), (a.toNat, 14), (z.toNat, 11), (o.toNat, 3), (g.toNat, 0)])
  | .ldAcq d a z c g => some (place 0x50000000 [(d.toNat, 20), (a.toNat, 14), (z.toNat, 11), (c.toNat, 3), (g.toNat, 0)])
  | .stRel s a z c g => some (place 0x50000100 [(s.toNat, 20), (a.toNat, 14), (z.toNat, 11), (c.toNat, 3), (g.toNat, 0)])
  | .pf a c g => some (place 0x50000200 [(a.toNat, 14), (c.toNat, 3), (g.toNat, 0)])
  | .clWb a c g => some (place 0x50000300 [(a.toNat, 14), (c.toNat, 3), (g.toNat, 0)])
  | .clInv a c g => some (place 0x50000400 [(a.toNat, 14), (c.toNat, 3), (g.toNat, 0)])
  | .clWbinv a c g => some (place 0x50000500 [(a.toNat, 14), (c.toNat, 3), (g.toNat, 0)])
  | .ldGlL d a z _ g => some (place 0xD0000000 [(d.toNat, 20), (a.toNat, 14), (z.toNat, 11), (g.toNat, 0)])
  | .stGlL s a z _ g => some (place 0xD0000008 [(s.toNat, 20), (a.toNat, 14), (z.toNat, 11), (g.toNat, 0)])
  | .amoAdd d a b _ _ _ g => some (place 0xC0000000 [(d.toNat, 20), (a.toNat, 14), (b.toNat, 8), (g.toNat, 0)])
  | .amoAnd d a b _ _ _ g => some (place 0xC0000000 [(d.toNat, 20), (a.toNat, 14), (b.toNat, 8), (g.toNat, 0)])
  | .amoOr d a b _ _ _ g => some (place 0xC0000000 [(d.toNat, 20), (a.toNat, 14), (b.toNat, 8), (g.toNat, 0)])
  | .amoXor d a b _ _ _ g => some (place 0xC0000000 [(d.toNat, 20), (a.toNat, 14), (b.toNat, 8), (g.toNat, 0)])
  | .amoMin d a b _ _ _ g => some (place 0xC0000000 [(d.toNat, 20), (a.toNat, 14), (b.toNat, 8), (g.toNat, 0)])
  | .amoMax d a b _ _ _ g => some (place 0xC0000000 [(d.toNat, 20), (a.toNat, 14), (b.toNat, 8), (g.toNat, 0)])
  | .amoMinn d a b _ _ _ g => some (place 0xC0000000 [(d.toNat, 20), (a.toNat, 14), (b.toNat, 8), (g.toNat, 0)])
  | .amoMaxn d a b _ _ _ g => some (place 0xC0000000 [(d.toNat, 20), (a.toNat, 14), (b.toNat, 8), (g.toNat, 0)])
  | .amoSwap d a b _ _ _ g => some (place 0xC0000000 [(d.toNat, 20), (a.toNat, 14), (b.toNat, 8), (g.toNat, 0)])
  | .amoCas d a b _ _ _ g => some (place 0xC0000000 [(d.toNat, 20), (a.toNat, 14), (b.toNat, 8), (g.toNat, 0)])
  | .amoFaddF32 d a b _ _ g => some (place 0xC0000000 [(d.toNat, 20), (a.toNat, 14), (b.toNat, 8), (g.toNat, 0)])
  | .amoFaddBf16x2 d a b _ _ g => some (place 0xC0000000 [(d.toNat, 20), (a.toNat, 14), (b.toNat, 8), (g.toNat, 0)])
  | .br p n o => some (place 0x60000000 [(p.toNat, 23), (n.toNat, 22), (o.toNat, 0)])
  | .jal d o => some (place 0x64000000 [(d.toNat, 20), (o.toNat, 0)])
  | .jalr d a g => some (place 0x68000000 [(d.toNat, 20), (a.toNat, 14), (g.toNat, 0)])
  | .loop d l g => some (place 0x6C000000 [(d.toNat, 20), (l.toNat, 3), (g.toNat, 0)])
  | .loopBrk g => some (place 0x6C080000 [(g.toNat, 0)])
  | .csrr d c g => some (place 0x70000000 [(d.toNat, 20), (c.toNat, 8), (g.toNat, 0)])
  | .csrw s c g => some (place 0x70000008 [(s.toNat, 20), (c.toNat, 8), (g.toNat, 0)])
  | .csrs s c g => some (place 0x70000010 [(s.toNat, 20), (c.toNat, 8), (g.toNat, 0)])
  | .csrc s c g => some (place 0x70000018 [(s.toNat, 20), (c.toNat, 8), (g.toNat, 0)])
  | .nop g => some (place 0x74000000 [(g.toNat, 0)])
  | .trap a g => some (place 0x74000008 [(a.toNat, 14), (g.toNat, 0)])
  | .eret g => some (place 0x74000010 [(g.toNat, 0)])
  | .brk g => some (place 0x74000018 [(g.toNat, 0)])
  | .yield g => some (place 0x74000020 [(g.toNat, 0)])
  | .halt g => some (place 0x74000028 [(g.toNat, 0)])
  | .ctxSave a g => some (place 0x74000030 [(a.toNat, 14), (g.toNat, 0)])
  | .ctxRest a g => some (place 0x74000038 [(a.toNat, 14), (g.toNat, 0)])
  | .xltFlush a g => some (place 0x74000040 [(a.toNat, 14), (g.toNat, 0)])
  | .fence c g => some (place 0x78000000 [(c.toNat, 3), (g.toNat, 0)])
  | .fenceAcq c g => some (place 0x78000040 [(c.toNat, 3), (g.toNat, 0)])
  | .fenceRel c g => some (place 0x78000080 [(c.toNat, 3), (g.toNat, 0)])
  | .fenceSm c g => some (place 0x780000C0 [(c.toNat, 3), (g.toNat, 0)])
  | .wait f i g => some (place 0x7C000000 [(f.toNat, 20), (i.toNat, 3), (g.toNat, 0)])
  | .waitDec f i g => some (place 0x7C080000 [(f.toNat, 20), (i.toNat, 3), (g.toNat, 0)])
  | .sig f i g => some (place 0x80000000 [(f.toNat, 20), (i.toNat, 3), (g.toNat, 0)])
  | .sigSet f i g => some (place 0x80080000 [(f.toNat, 20), (i.toNat, 3), (g.toNat, 0)])
  | .waitaEq d a b g => some (place 0x84000000 [(d.toNat, 20), (a.toNat, 14), (b.toNat, 8), (g.toNat, 0)])
  | .waitaNe d a b g => some (place 0x84000008 [(d.toNat, 20), (a.toNat, 14), (b.toNat, 8), (g.toNat, 0)])
  | .waitaGe d a b g => some (place 0x84000010 [(d.toNat, 20), (a.toNat, 14), (b.toNat, 8), (g.toNat, 0)])
  | .waitaLt d a b g => some (place 0x84000018 [(d.toNat, 20), (a.toNat, 14), (b.toNat, 8), (g.toNat, 0)])
  | .waitaGen d a b g => some (place 0x84000020 [(d.toNat, 20), (a.toNat, 14), (b.toNat, 8), (g.toNat, 0)])
  | .bar i l g => some (place 0x88000000 [(i.toNat, 6), (l.toNat, 3), (g.toNat, 0)])
  | .syncStep l g => some (place 0x8C000000 [(l.toNat, 3), (g.toNat, 0)])
  | .smAff a b f g => some (place 0x90000000 [(a.toNat, 20), (b.toNat, 14), (f.toNat, 8), (g.toNat, 0)])
  | .smAfw a b f g => some (place 0x90000008 [(a.toNat, 20), (b.toNat, 14), (f.toNat, 8), (g.toNat, 0)])
  | .smInd a b f g => some (place 0x90000010 [(a.toNat, 20), (b.toNat, 14), (f.toNat, 8), (g.toNat, 0)])
  | .smSct a b f g => some (place 0x90000018 [(a.toNat, 20), (b.toNat, 14), (f.toNat, 8), (g.toNat, 0)])
  | .smUpd a b f g => some (place 0x90000020 [(a.toNat, 20), (b.toNat, 14), (f.toNat, 8), (g.toNat, 0)])
  | .smIsx a b f g => some (place 0x90000028 [(a.toNat, 20), (b.toNat, 14), (f.toNat, 8), (g.toNat, 0)])
  | .smBar a f g => some (place 0x90000030 [(a.toNat, 20), (f.toNat, 8), (g.toNat, 0)])
  | .smKill a f g => some (place 0x90000038 [(a.toNat, 20), (f.toNat, 8), (g.toNat, 0)])
  | .smLink a b f g => some (place 0x94000000 [(a.toNat, 20), (b.toNat, 14), (f.toNat, 8), (g.toNat, 0)])
  | .smRep a b f g => some (place 0x94000008 [(a.toNat, 20), (b.toNat, 14), (f.toNat, 8), (g.toNat, 0)])
  | .smSteer a b f g => some (place 0x94000010 [(a.toNat, 20), (b.toNat, 14), (f.toNat, 8), (g.toNat, 0)])
  | .smMerge a b f g => some (place 0x94000018 [(a.toNat, 20), (b.toNat, 14), (f.toNat, 8), (g.toNat, 0)])
  | .smDem a b f g => some (place 0x94000020 [(a.toNat, 20), (b.toNat, 14), (f.toNat, 8), (g.toNat, 0)])
  | .smStop a b f g => some (place 0x94000028 [(a.toNat, 20), (b.toNat, 14), (f.toNat, 8), (g.toNat, 0)])
  | .smSpill a b f g => some (place 0x94000030 [(a.toNat, 20), (b.toNat, 14), (f.toNat, 8), (g.toNat, 0)])
  | .smTok a b f g => some (place 0x94000038 [(a.toNat, 20), (b.toNat, 14), (f.toNat, 8), (g.toNat, 0)])
  | .smDrain a b f g => some (place 0x94000040 [(a.toNat, 20), (b.toNat, 14), (f.toNat, 8), (g.toNat, 0)])
  | .wave a b f g => some (place 0x94000048 [(a.toNat, 20), (b.toNat, 14), (f.toNat, 8), (g.toNat, 0)])
  | .arCarve a b f g => some (place 0x98000000 [(a.toNat, 20), (b.toNat, 14), (f.toNat, 8), (g.toNat, 0)])
  | .arHold a b f g => some (place 0x98000008 [(a.toNat, 20), (b.toNat, 14), (f.toNat, 8), (g.toNat, 0)])
  | .arFeed a b f g => some (place 0x98000010 [(a.toNat, 20), (b.toNat, 14), (f.toNat, 8), (g.toNat, 0)])
  | .arStep a f g => some (place 0x98000018 [(a.toNat, 20), (f.toNat, 8), (g.toNat, 0)])
  | .mxRun a f g => some (place 0x98000020 [(a.toNat, 20), (f.toNat, 8), (g.toNat, 0)])
  | .arDrain a f g => some (place 0x98000028 [(a.toNat, 20), (f.toNat, 8), (g.toNat, 0)])
  | .arZero a b f g => some (place 0x98000030 [(a.toNat, 20), (b.toNat, 14), (f.toNat, 8), (g.toNat, 0)])
  | .arChk a b f g => some (place 0x98000038 [(a.toNat, 20), (b.toNat, 14), (f.toNat, 8), (g.toNat, 0)])
  | .arCoop a f g => some (place 0x98000040 [(a.toNat, 20), (f.toNat, 8), (g.toNat, 0)])
  | .arMmap a b f g => some (place 0x98000048 [(a.toNat, 20), (b.toNat, 14), (f.toNat, 8), (g.toNat, 0)])
  | .vePlane a b f g => some (place 0x9C000000 [(a.toNat, 20), (b.toNat, 14), (f.toNat, 8), (g.toNat, 0)])
  | .veSwap a b f g => some (place 0x9C000008 [(a.toNat, 20), (b.toNat, 14), (f.toNat, 8), (g.toNat, 0)])
  | .veBind a b f g => some (place 0x9C000010 [(a.toNat, 20), (b.toNat, 14), (f.toNat, 8), (g.toNat, 0)])
  | .veStart a f g => some (place 0x9C000018 [(a.toNat, 20), (f.toNat, 8), (g.toNat, 0)])
  | .veStop a f g => some (place 0x9C000020 [(a.toNat, 20), (f.toNat, 8), (g.toNat, 0)])
  | .veRd a b f g => some (place 0x9C000028 [(a.toNat, 20), (b.toNat, 14), (f.toNat, 8), (g.toNat, 0)])
  | .veWr a b f g => some (place 0x9C000030 [(a.toNat, 20), (b.toNat, 14), (f.toNat, 8), (g.toNat, 0)])
  | .veKonst a b f g => some (place 0x9C000038 [(a.toNat, 20), (b.toNat, 14), (f.toNat, 8), (g.toNat, 0)])
  | .nxPut a f g => some (place 0xA0000000 [(a.toNat, 20), (f.toNat, 8), (g.toNat, 0)])
  | .nxGet a f g => some (place 0xA0000008 [(a.toNat, 20), (f.toNat, 8), (g.toNat, 0)])
  | .nxXget a b f g => some (place 0xA0000010 [(a.toNat, 20), (b.toNat, 14), (f.toNat, 8), (g.toNat, 0)])
  | .nxSend a f g => some (place 0xA0000018 [(a.toNat, 20), (f.toNat, 8), (g.toNat, 0)])
  | .nxRoute a f g => some (place 0xA0000020 [(a.toNat, 20), (f.toNat, 8), (g.toNat, 0)])
  | .nxRing a f g => some (place 0xA0000028 [(a.toNat, 20), (f.toNat, 8), (g.toNat, 0)])
  | .nxChan a f g => some (place 0xA0000030 [(a.toNat, 20), (f.toNat, 8), (g.toNat, 0)])
  | .collGrp a f g => some (place 0xA4000000 [(a.toNat, 20), (f.toNat, 8), (g.toNat, 0)])
  | .collRed a f g => some (place 0xA4000008 [(a.toNat, 20), (f.toNat, 8), (g.toNat, 0)])
  | .collBc a f g => some (place 0xA4000010 [(a.toNat, 20), (f.toNat, 8), (g.toNat, 0)])
  | .collFlt a f g => some (place 0xA4000018 [(a.toNat, 20), (f.toNat, 8), (g.toNat, 0)])
  | .collAr a f g => some (place 0xA4000020 [(a.toNat, 20), (f.toNat, 8), (g.toNat, 0)])
  | .handRel a f g => some (place 0xA8000000 [(a.toNat, 20), (f.toNat, 8), (g.toNat, 0)])
  | .handAcq a f g => some (place 0xA8000008 [(a.toNat, 20), (f.toNat, 8), (g.toNat, 0)])
  | .handQuery a f g => some (place 0xA8000010 [(a.toNat, 20), (f.toNat, 8), (g.toNat, 0)])
  | .waitaReread _ _ => none
  | .barrierGenerationEnd _ _ => none
  | .waveSmEntry _ => none
  | .terminatorPassage _ _ => none
  | .waveComplete _ => none
  | .leafFire _ _ _ => none
  | .spanAccumulate _ _ _ => none
  | .coopCombine _ => none
  | .drainToken _ _ => none
  | .arrayCommandComplete _ _ => none
  | .elementStopComplete _ _ => none
  | .vadd _ => none
  | .vsub _ => none
  | .vmul _ => none
  | .vmulh _ => none
  | .vmin _ => none
  | .vmax _ => none
  | .vand _ => none
  | .vor _ => none
  | .vxor _ => none
  | .vshl _ => none
  | .vshr _ => none
  | .vsra _ => none
  | .vclz _ => none
  | .vpopc _ => none
  | .vabs _ => none
  | .vsad _ => none
  | .fadd _ => none
  | .fsub _ => none
  | .fmul _ => none
  | .ffma _ => none
  | .fmin _ => none
  | .fmax _ => none
  | .fabs _ => none
  | .fneg _ => none
  | .fcmp _ => none
  | .fclass _ => none
  | .vcmp _ => none
  | .vsel _ => none
  | .vmov _ => none
  | .cvt _ => none
  | .mxq _ => none
  | .mxs _ => none
  | .round _ => none
  | .cvti _ => none
  | .exp2 _ => none
  | .log2 _ => none
  | .rcp _ => none
  | .rsqrt _ => none
  | .sin _ => none
  | .cos _ => none
  | .tanh _ => none
  | .sqrt _ => none
  | .perm _ => none
  | .bcast _ => none
  | .pfx _ => none
  | .lred _ => none
  | .clmul _ => none
  | .pack _ => none
  | .unpack _ => none
  | .pset _ => none
  | .enq _ => none
  | .stop _ => none
  | .deq _ => none
  | .poi _ => none
  | .trigSig _ => none
  | .rnd _ => none
  | .trigNop _ => none
  | .handoverPush _ => none
  | .nxCommandComplete _ _ => none
  | .ringAdmission _ _ => none
  | .routeResolve _ _ => none
  | .elasticPair _ _ => none
  | .elasticTokenCross _ _ => none
  | .collChunk _ _ => none
  | .memberLoss _ _ => none
  | .groupJoinComplete _ => none
  | .affineReadToken _ _ => none
  | .affineWriteToken _ _ => none
  | .gatherIndex _ _ => none
  | .scatterPair _ _ => none
  | .updatePair _ _ => none
  | .streamComplete _ _ => none
  | .suuUpdateApply _ => none
  | .suuLineRelease _ _ => none
  | .puuUpdateApply _ => none
  | .hashApply _ _ => none
  | .iseRequest _ => none
  | .iseTokenDeliver _ _ => none
  | .linkMove _ _ => none
  | .repeatRound _ _ => none
  | .steerSegment _ _ => none
  | .mergeSegment _ _ => none
  | .joinAlign _ _ => none
  | .demandCredit _ _ => none
  | .spillWrite _ _ => none
  | .spillRefill _ _ => none
  | .instructionFetch _ _ => none
  | .withheldAccessProceed _ _ => none
  | .windowRegister _ _ => none
  | .windowUnregister _ _ => none
  | .csrSpillWrite _ _ _ => none
  | .ectlWrite _ _ _ _ => none
  | .statusWrite _ _ _ => none
  | .registerWrite _ _ _ _ => none
  | .notifyWrite _ => none
  | .aqenWrite _ => none
  | .devidWrite _ => none
  | .asyncTrapTake _ _ => none
  | .endCrew _ _ => none
  | .watchdog _ => none
  | .drainToCheckpoint _ _ => none
  | .checkpointPageRecheck _ => none
  | .crewSave _ _ => none
  | .snapshotFallback _ => none
  | .crewResume _ _ => none
  | .preemptWaitExpiry _ _ => none
  | .swapOut _ => none
  | .crewRetire _ => none
  | .queueScan _ => none
  | .priorityAging _ => none
  | .dependencyRecheck _ => none
  | .launch _ => none
  | .barrierAnd _ => none
  | .signalRecord _ => none
  | .createQueue _ => none
  | .destroyQueue _ => none
  | .shootdown _ => none
  | .migrate _ => none
  | .handoverRecord _ => none
  | .clearRoute _ => none
  | .contextRoot _ => none
  | .gangPlace _ _ => none
  | .stealRequest _ => none
  | .stealGrant _ _ _ => none
  | .launchComplete _ => none
  | .packetReceive _ _ _ => none
  | .ackReceive _ _ => none
  | .ackTimeout _ => none
  | .linkDown _ => none
  | .hostLinkDown _ => none
  | .hostHdmAccess _ _ _ => none
  | .dieReset _ => none
  | .function0Reset => none
  | .controlPlaneRestart => none
  | .dataPlaneRestart => none
  | .managementPlaneRestart => none
  | .firmwareVerify _ _ => none
  | .hubBoundaryTrained _ => none
  | .stackTrained _ => none
  | .enterTwilight => none
  | .enterFullService => none
  | .stackTrainingTimeout => none
  | .spdmRequest _ => none
  | .tdispRequest _ _ => none
  | .transitTestStart _ => none
  | .transitTestResult _ _ _ _ => none
  | .thermalClockLower _ => none
  | .illegalInstruction _ _ => none
  | .nuethPortTrained _ => none
  | .hostLinkUp _ => none
  | .cxlCacheSnoop _ _ => none
  | .lazyWriteback _ _ _ => none
  | .storeBufferDrain _ _ => none
  | .scalarAccessResponse _ _ _ _ => none

/-- The second word of a long form. -/
def encodeSecond : Instr → Option Nat
  | .add _ _ _ _ => none
  | .sub _ _ _ _ => none
  | .mul _ _ _ _ => none
  | .mulh _ _ _ _ => none
  | .mulhn _ _ _ _ => none
  | .div _ _ _ _ => none
  | .divn _ _ _ _ => none
  | .rem _ _ _ _ => none
  | .remn _ _ _ _ => none
  | .and _ _ _ _ => none
  | .or _ _ _ _ => none
  | .xor _ _ _ _ => none
  | .andn _ _ _ _ => none
  | .shl _ _ _ _ => none
  | .shr _ _ _ _ => none
  | .sra _ _ _ _ => none
  | .rot _ _ _ _ => none
  | .min _ _ _ _ => none
  | .max _ _ _ _ => none
  | .minn _ _ _ _ => none
  | .maxn _ _ _ _ => none
  | .addw _ _ _ _ => none
  | .subw _ _ _ _ => none
  | .mulw _ _ _ _ => none
  | .clz _ _ _ => none
  | .ctz _ _ _ => none
  | .popc _ _ _ => none
  | .sextB _ _ _ => none
  | .sextH _ _ _ => none
  | .sextW _ _ _ => none
  | .zextB _ _ _ => none
  | .zextH _ _ _ => none
  | .zextW _ _ _ => none
  | .rev _ _ _ => none
  | .mov _ _ _ => none
  | .cmpEq _ _ _ _ => none
  | .cmpNe _ _ _ _ => none
  | .cmpLt _ _ _ _ => none
  | .cmpLtn _ _ _ _ => none
  | .cmpLe _ _ _ _ => none
  | .cmpLen _ _ _ _ => none
  | .cmpBit _ _ _ _ => none
  | .pand _ _ _ _ => none
  | .por _ _ _ _ => none
  | .pxor _ _ _ _ => none
  | .pandn _ _ _ _ => none
  | .pnot _ _ _ => none
  | .pmovX _ _ _ => none
  | .movpX _ _ _ => none
  | .addi _ _ _ _ => none
  | .andi _ _ _ _ => none
  | .ori _ _ _ _ => none
  | .xori _ _ _ _ => none
  | .shli _ _ _ _ => none
  | .shri _ _ _ _ => none
  | .srai _ _ _ _ => none
  | .roti _ _ _ _ => none
  | .cmpiEq _ _ _ _ => none
  | .cmpiLt _ _ _ _ => none
  | .cmpiLtn _ _ _ _ => none
  | .li _ _ _ => none
  | .liL _ _ w2 _ => some (w2.toNat)
  | .lihL _ w2 _ => some (w2.toNat)
  | .addiL _ _ w2 _ => some (w2.toNat)
  | .lea _ _ _ _ _ => none
  | .sel _ _ _ _ _ => none
  | .ldSp _ _ _ _ _ => none
  | .stSp _ _ _ _ _ => none
  | .ldGl _ _ _ _ _ => none
  | .stGl _ _ _ _ _ => none
  | .ldAcq _ _ _ _ _ => none
  | .stRel _ _ _ _ _ => none
  | .pf _ _ _ => none
  | .clWb _ _ _ => none
  | .clInv _ _ _ => none
  | .clWbinv _ _ _ => none
  | .ldGlL _ _ _ w2 _ => some (w2.toNat)
  | .stGlL _ _ _ w2 _ => some (w2.toNat)
  | .amoAdd _ _ _ c r wide _ => some (place 0 [(c.toNat, 5), (r.toNat, 8), (wide.toNat, 10)])
  | .amoAnd _ _ _ c r wide _ => some (place 1 [(c.toNat, 5), (r.toNat, 8), (wide.toNat, 10)])
  | .amoOr _ _ _ c r wide _ => some (place 2 [(c.toNat, 5), (r.toNat, 8), (wide.toNat, 10)])
  | .amoXor _ _ _ c r wide _ => some (place 3 [(c.toNat, 5), (r.toNat, 8), (wide.toNat, 10)])
  | .amoMin _ _ _ c r wide _ => some (place 4 [(c.toNat, 5), (r.toNat, 8), (wide.toNat, 10)])
  | .amoMax _ _ _ c r wide _ => some (place 5 [(c.toNat, 5), (r.toNat, 8), (wide.toNat, 10)])
  | .amoMinn _ _ _ c r wide _ => some (place 6 [(c.toNat, 5), (r.toNat, 8), (wide.toNat, 10)])
  | .amoMaxn _ _ _ c r wide _ => some (place 7 [(c.toNat, 5), (r.toNat, 8), (wide.toNat, 10)])
  | .amoSwap _ _ _ c r wide _ => some (place 8 [(c.toNat, 5), (r.toNat, 8), (wide.toNat, 10)])
  | .amoCas _ _ _ c r wide _ => some (place 9 [(c.toNat, 5), (r.toNat, 8), (wide.toNat, 10)])
  | .amoFaddF32 _ _ _ c r _ => some (place 10 [(c.toNat, 5), (r.toNat, 8)])
  | .amoFaddBf16x2 _ _ _ c r _ => some (place 11 [(c.toNat, 5), (r.toNat, 8)])
  | .br _ _ _ => none
  | .jal _ _ => none
  | .jalr _ _ _ => none
  | .loop _ _ _ => none
  | .loopBrk _ => none
  | .csrr _ _ _ => none
  | .csrw _ _ _ => none
  | .csrs _ _ _ => none
  | .csrc _ _ _ => none
  | .nop _ => none
  | .trap _ _ => none
  | .eret _ => none
  | .brk _ => none
  | .yield _ => none
  | .halt _ => none
  | .ctxSave _ _ => none
  | .ctxRest _ _ => none
  | .xltFlush _ _ => none
  | .fence _ _ => none
  | .fenceAcq _ _ => none
  | .fenceRel _ _ => none
  | .fenceSm _ _ => none
  | .wait _ _ _ => none
  | .waitDec _ _ _ => none
  | .sig _ _ _ => none
  | .sigSet _ _ _ => none
  | .waitaEq _ _ _ _ => none
  | .waitaNe _ _ _ _ => none
  | .waitaGe _ _ _ _ => none
  | .waitaLt _ _ _ _ => none
  | .waitaGen _ _ _ _ => none
  | .waitaReread _ _ => none
  | .bar _ _ _ => none
  | .syncStep _ _ => none
  | .barrierGenerationEnd _ _ => none
  | .smAff _ _ _ _ => none
  | .smAfw _ _ _ _ => none
  | .smInd _ _ _ _ => none
  | .smSct _ _ _ _ => none
  | .smUpd _ _ _ _ => none
  | .smIsx _ _ _ _ => none
  | .smBar _ _ _ => none
  | .smKill _ _ _ => none
  | .smLink _ _ _ _ => none
  | .smRep _ _ _ _ => none
  | .smSteer _ _ _ _ => none
  | .smMerge _ _ _ _ => none
  | .smDem _ _ _ _ => none
  | .smStop _ _ _ _ => none
  | .smSpill _ _ _ _ => none
  | .smTok _ _ _ _ => none
  | .smDrain _ _ _ _ => none
  | .wave _ _ _ _ => none
  | .waveSmEntry _ => none
  | .terminatorPassage _ _ => none
  | .waveComplete _ => none
  | .arCarve _ _ _ _ => none
  | .arHold _ _ _ _ => none
  | .arFeed _ _ _ _ => none
  | .arStep _ _ _ => none
  | .mxRun _ _ _ => none
  | .arDrain _ _ _ => none
  | .arZero _ _ _ _ => none
  | .arChk _ _ _ _ => none
  | .arCoop _ _ _ => none
  | .arMmap _ _ _ _ => none
  | .leafFire _ _ _ => none
  | .spanAccumulate _ _ _ => none
  | .coopCombine _ => none
  | .drainToken _ _ => none
  | .arrayCommandComplete _ _ => none
  | .vePlane _ _ _ _ => none
  | .veSwap _ _ _ _ => none
  | .veBind _ _ _ _ => none
  | .veStart _ _ _ => none
  | .veStop _ _ _ => none
  | .veRd _ _ _ _ => none
  | .veWr _ _ _ _ => none
  | .veKonst _ _ _ _ => none
  | .elementStopComplete _ _ => none
  | .vadd _ => none
  | .vsub _ => none
  | .vmul _ => none
  | .vmulh _ => none
  | .vmin _ => none
  | .vmax _ => none
  | .vand _ => none
  | .vor _ => none
  | .vxor _ => none
  | .vshl _ => none
  | .vshr _ => none
  | .vsra _ => none
  | .vclz _ => none
  | .vpopc _ => none
  | .vabs _ => none
  | .vsad _ => none
  | .fadd _ => none
  | .fsub _ => none
  | .fmul _ => none
  | .ffma _ => none
  | .fmin _ => none
  | .fmax _ => none
  | .fabs _ => none
  | .fneg _ => none
  | .fcmp _ => none
  | .fclass _ => none
  | .vcmp _ => none
  | .vsel _ => none
  | .vmov _ => none
  | .cvt _ => none
  | .mxq _ => none
  | .mxs _ => none
  | .round _ => none
  | .cvti _ => none
  | .exp2 _ => none
  | .log2 _ => none
  | .rcp _ => none
  | .rsqrt _ => none
  | .sin _ => none
  | .cos _ => none
  | .tanh _ => none
  | .sqrt _ => none
  | .perm _ => none
  | .bcast _ => none
  | .pfx _ => none
  | .lred _ => none
  | .clmul _ => none
  | .pack _ => none
  | .unpack _ => none
  | .pset _ => none
  | .enq _ => none
  | .stop _ => none
  | .deq _ => none
  | .poi _ => none
  | .trigSig _ => none
  | .rnd _ => none
  | .trigNop _ => none
  | .nxPut _ _ _ => none
  | .nxGet _ _ _ => none
  | .nxXget _ _ _ _ => none
  | .nxSend _ _ _ => none
  | .nxRoute _ _ _ => none
  | .nxRing _ _ _ => none
  | .nxChan _ _ _ => none
  | .collGrp _ _ _ => none
  | .collRed _ _ _ => none
  | .collBc _ _ _ => none
  | .collFlt _ _ _ => none
  | .collAr _ _ _ => none
  | .handRel _ _ _ => none
  | .handAcq _ _ _ => none
  | .handQuery _ _ _ => none
  | .handoverPush _ => none
  | .nxCommandComplete _ _ => none
  | .ringAdmission _ _ => none
  | .routeResolve _ _ => none
  | .elasticPair _ _ => none
  | .elasticTokenCross _ _ => none
  | .collChunk _ _ => none
  | .memberLoss _ _ => none
  | .groupJoinComplete _ => none
  | .affineReadToken _ _ => none
  | .affineWriteToken _ _ => none
  | .gatherIndex _ _ => none
  | .scatterPair _ _ => none
  | .updatePair _ _ => none
  | .streamComplete _ _ => none
  | .suuUpdateApply _ => none
  | .suuLineRelease _ _ => none
  | .puuUpdateApply _ => none
  | .hashApply _ _ => none
  | .iseRequest _ => none
  | .iseTokenDeliver _ _ => none
  | .linkMove _ _ => none
  | .repeatRound _ _ => none
  | .steerSegment _ _ => none
  | .mergeSegment _ _ => none
  | .joinAlign _ _ => none
  | .demandCredit _ _ => none
  | .spillWrite _ _ => none
  | .spillRefill _ _ => none
  | .instructionFetch _ _ => none
  | .withheldAccessProceed _ _ => none
  | .windowRegister _ _ => none
  | .windowUnregister _ _ => none
  | .csrSpillWrite _ _ _ => none
  | .ectlWrite _ _ _ _ => none
  | .statusWrite _ _ _ => none
  | .registerWrite _ _ _ _ => none
  | .notifyWrite _ => none
  | .aqenWrite _ => none
  | .devidWrite _ => none
  | .asyncTrapTake _ _ => none
  | .endCrew _ _ => none
  | .watchdog _ => none
  | .drainToCheckpoint _ _ => none
  | .checkpointPageRecheck _ => none
  | .crewSave _ _ => none
  | .snapshotFallback _ => none
  | .crewResume _ _ => none
  | .preemptWaitExpiry _ _ => none
  | .swapOut _ => none
  | .crewRetire _ => none
  | .queueScan _ => none
  | .priorityAging _ => none
  | .dependencyRecheck _ => none
  | .launch _ => none
  | .barrierAnd _ => none
  | .signalRecord _ => none
  | .createQueue _ => none
  | .destroyQueue _ => none
  | .shootdown _ => none
  | .migrate _ => none
  | .handoverRecord _ => none
  | .clearRoute _ => none
  | .contextRoot _ => none
  | .gangPlace _ _ => none
  | .stealRequest _ => none
  | .stealGrant _ _ _ => none
  | .launchComplete _ => none
  | .packetReceive _ _ _ => none
  | .ackReceive _ _ => none
  | .ackTimeout _ => none
  | .linkDown _ => none
  | .hostLinkDown _ => none
  | .hostHdmAccess _ _ _ => none
  | .dieReset _ => none
  | .function0Reset => none
  | .controlPlaneRestart => none
  | .dataPlaneRestart => none
  | .managementPlaneRestart => none
  | .firmwareVerify _ _ => none
  | .hubBoundaryTrained _ => none
  | .stackTrained _ => none
  | .enterTwilight => none
  | .enterFullService => none
  | .stackTrainingTimeout => none
  | .spdmRequest _ => none
  | .tdispRequest _ _ => none
  | .transitTestStart _ => none
  | .transitTestResult _ _ _ _ => none
  | .thermalClockLower _ => none
  | .illegalInstruction _ _ => none
  | .nuethPortTrained _ => none
  | .hostLinkUp _ => none
  | .cxlCacheSnoop _ _ => none
  | .lazyWriteback _ _ _ => none
  | .storeBufferDrain _ _ => none
  | .scalarAccessResponse _ _ _ _ => none

/-- The words of a sequencer instruction: the first, and the second of a long form. The agents' steps
and the triggered operations (whose op stands in a 64-bit plane word) have none. -/
def encode (i : Instr) : Option (Half × Option Half) :=
  match encodeFirst i with
  | none => none
  | some w => some (BitVec.ofNat 32 w, (encodeSecond i).map (BitVec.ofNat 32))

/-! ### Triggered words (R57, Table 3.7) -/

/-- The op of a triggered word. -/
def trigOp (w : Nat) : Nat := fld w 33 6

/-- The fields of a triggered word other than op. -/
def trigFields (w : Nat) : Trig where
  q := w.testBit 63
  pcare := bv 8 w 55
  pval := bv 8 w 47
  cen := w.testBit 46
  chan := bv 5 w 41
  tkind := bv 2 w 39
  mod := bv 3 w 30
  d := bv 10 w 20
  a := bv 10 w 10
  b := bv 10 w 0

/-- The triggered word with an op and the given fields. -/
def encodeTrig (op : Nat) (t : Trig) : Nat :=
  (if t.q then 1 else 0) * 2 ^ 63 + t.pcare.toNat * 2 ^ 55 + t.pval.toNat * 2 ^ 47
    + (if t.cen then 1 else 0) * 2 ^ 46 + t.chan.toNat * 2 ^ 41 + t.tkind.toNat * 2 ^ 39
    + op * 2 ^ 33 + t.mod.toNat * 2 ^ 30 + t.d.toNat * 2 ^ 20 + t.a.toNat * 2 ^ 10 + t.b.toNat

/-- The instruction of a triggered word's op (Table 3.9); none for a reserved op. -/
def trigInstr (op : Nat) (t : Trig) : Option Instr :=
  match op with
  | 0x00 => some (.vadd t)
  | 0x01 => some (.vsub t)
  | 0x02 => some (.vmul t)
  | 0x03 => some (.vmulh t)
  | 0x04 => some (.vmin t)
  | 0x05 => some (.vmax t)
  | 0x06 => some (.vand t)
  | 0x07 => some (.vor t)
  | 0x08 => some (.vxor t)
  | 0x09 => some (.vshl t)
  | 0x0A => some (.vshr t)
  | 0x0B => some (.vsra t)
  | 0x0C => some (.vclz t)
  | 0x0D => some (.vpopc t)
  | 0x0E => some (.vabs t)
  | 0x0F => some (.vsad t)
  | 0x10 => some (.fadd t)
  | 0x11 => some (.fsub t)
  | 0x12 => some (.fmul t)
  | 0x13 => some (.ffma t)
  | 0x14 => some (.fmin t)
  | 0x15 => some (.fmax t)
  | 0x16 => some (.fabs t)
  | 0x17 => some (.fneg t)
  | 0x18 => some (.fcmp t)
  | 0x19 => some (.fclass t)
  | 0x1A => some (.vcmp t)
  | 0x1B => some (.vsel t)
  | 0x1C => some (.vmov t)
  | 0x20 => some (.cvt t)
  | 0x21 => some (.mxq t)
  | 0x22 => some (.mxs t)
  | 0x23 => some (.round t)
  | 0x24 => some (.cvti t)
  | 0x28 => some (.exp2 t)
  | 0x29 => some (.log2 t)
  | 0x2A => some (.rcp t)
  | 0x2B => some (.rsqrt t)
  | 0x2C => some (.sin t)
  | 0x2D => some (.cos t)
  | 0x2E => some (.tanh t)
  | 0x2F => some (.sqrt t)
  | 0x30 => some (.perm t)
  | 0x31 => some (.bcast t)
  | 0x32 => some (.pfx t)
  | 0x33 => some (.lred t)
  | 0x34 => some (.clmul t)
  | 0x35 => some (.pack t)
  | 0x36 => some (.unpack t)
  | 0x38 => some (.pset t)
  | 0x39 => some (.enq t)
  | 0x3A => some (.stop t)
  | 0x3B => some (.deq t)
  | 0x3C => some (.poi t)
  | 0x3D => some (.trigSig t)
  | 0x3E => some (.rnd t)
  | 0x3F => some (.trigNop t)
  | _ => none

/-- The instruction that the words numbered as spec/opcode_table.json numbers them decode to: bit 0 is
the least significant bit of the first word, the second word counts on from bit 32. -/
def decodeTableWord (nbits w : Nat) : Option Instr :=
  match decode (BitVec.ofNat 32 (w % 2 ^ nbits)) (BitVec.ofNat 32 (w % 2 ^ nbits / 2 ^ 32)) with
  | .ok i => some i
  | .error _ => none

end Sys2Proof
end

