-- ==== Sys2Proof/Config.lean ====
section
/-!
DEFINITION. What an implementation fixes, what firmware supplies, and the free values: constants without a body,
of which nothing can be proved.
-/
namespace Sys2Proof.Config
open Sys2Proof

/-- A byte the spec leaves unspecified: the moment of the read and the place (R144, R352). DESIGN CHOICE, log 4. -/
opaque freeByte : Nat → Nat → Byte

/-- A number the spec leaves unspecified: the moment and a site code. DESIGN CHOICE, log 4. -/
opaque freeNat : Nat → Nat → Nat

/-- Does the host complete PCIe AtomicOps (R133)? DESIGN CHOICE, log 4. -/
opaque hostAtomics : Bool

/-- Does the voltage domain of a core carry an undervolt offset in full service (R363)? DESIGN CHOICE, log 4. -/
opaque undervolt : Nat → Bool

/-- The number of cores, clusters, stacks and memory channels (R9, R10). -/
def coreCount : Nat := 448
def clusterCount : Nat := 56
def stackCount : Nat := 16

/-- Bytes of a core's pool (R113). -/
def poolBytes : Nat := 4194304

/-- Bytes of device HBM (R71). -/
def hbmBytes : Nat := 2 ^ 40

/-- Entries of a cluster's and of a base die's translation cache (R81). -/
def clusterTlb : Nat := 4096
def stackTlb : Nat := 1024

/-- Store buffer entries (R127). -/
def bufferDepth : Nat := 16

/-- Channel slots (R135). -/
def chanDepth : Nat := 16

end Sys2Proof.Config
end

