-- ==== Sys2Proof/Machine/Bits.lean ====
section
/-!
DEFINITION. Bit fields, sign extension, byte order, tables, byte memories and sets: the helpers
every other file of the machine is written over.
-/
namespace Sys2Proof.Machine
open Sys2Proof

/-! ### Bit fields -/

/-- Bits [hi:lo] of a number. -/
def field (w : Nat) (hi lo : Nat) : Nat := (w >>> lo) % 2 ^ (hi + 1 - lo)

/-- Bit i of a number. -/
def bitAt (w : Nat) (i : Nat) : Bool := w.testBit i

/-- 1 for true, 0 for false. -/
def b2n (b : Bool) : Nat := if b then 1 else 0

/-- `n` with bit i set or cleared. -/
def setBit (n i : Nat) (v : Bool) : Nat :=
  if n.testBit i == v then n else if v then n + 2 ^ i else n - 2 ^ i

/-- The w low bits of x read as a two's complement integer (R18). -/
def sintOf (w x : Nat) : Int :=
  if x % 2 ^ w < 2 ^ (w - 1) then ((x % 2 ^ w : Nat) : Int) else ((x % 2 ^ w : Nat) : Int) - ((2 ^ w : Nat) : Int)

/-- An integer cut to w bits (R31: wraps). -/
def wrapInt (w : Nat) (v : Int) : Nat := (v % ((2 ^ w : Nat) : Int)).toNat

/-- An integer clamped to [lo, hi]. -/
def clampInt (lo hi v : Int) : Int := if v < lo then lo else if hi < v then hi else v

/-- The smallest signed w-bit value. -/
def sintMin (w : Nat) : Int := -((2 ^ (w - 1) : Nat) : Int)
/-- The largest signed w-bit value. -/
def sintMax (w : Nat) : Int := ((2 ^ (w - 1) : Nat) : Int) - 1

/-- The number of set bits among the w low bits. -/
def popCount : Nat → Nat → Nat
  | 0, _ => 0
  | w + 1, x => popCount w x + b2n (x.testBit w)

/-- Leading zero bits of the w low bits of x (w for zero). -/
def leadZeros (w x : Nat) : Nat := if x % 2 ^ w = 0 then w else w - 1 - (x % 2 ^ w).log2

/-- Trailing zero bits counted from bit i upward, `fuel` bits at most. -/
def trailFrom : Nat → Nat → Nat → Nat
  | 0, _, i => i
  | f + 1, x, i => if x.testBit i then i else trailFrom f x (i + 1)

/-- Trailing zero bits of the w low bits of x (w for zero). -/
def trailZeros (w x : Nat) : Nat := trailFrom w x 0

/-- Round up to a multiple of n. -/
def alignUp (x n : Nat) : Nat := (x + (n - 1)) / n * n

/-- Is x a power of two? -/
def isPow2 (x : Nat) : Bool := x != 0 && 2 ^ x.log2 == x

/-! ### Bytes, least significant first (R2) -/

/-- The n low bytes of a number, least significant first. -/
def bytesOf : Nat → Nat → List Byte
  | 0, _ => []
  | n + 1, x => BitVec.ofNat 8 x :: bytesOf n (x / 256)

/-- The number whose little-endian bytes are given. -/
def ofBytes : List Byte → Nat
  | [] => 0
  | b :: bs => b.toNat + 256 * ofBytes bs

/-! ### Finite tables -/

/-- The value at key i, or the default where the key is not listed. -/
def tget {α : Type} : Tab α → Nat → α → α
  | [], _, d => d
  | (k, v) :: t, i, d => if i = k then v else tget t i d

/-- The table with key i holding v. -/
def tset {α : Type} : Tab α → Nat → α → Tab α
  | [], i, v => [(i, v)]
  | (k, w) :: t, i, v =>
    if i < k then (i, v) :: (k, w) :: t
    else if i = k then (i, v) :: t
    else (k, w) :: tset t i v

/-- The value at key i, if the key is listed. -/
def tfind {α : Type} : Tab α → Nat → Option α
  | [], _ => none
  | (k, v) :: t, i => if i = k then some v else tfind t i

/-- The table without key i. -/
def tdel {α : Type} : Tab α → Nat → Tab α
  | [], _ => []
  | (k, v) :: t, i => if i = k then tdel t i else (k, v) :: tdel t i

/-- The table holding the values in order under keys from k. -/
def tfrom {α : Type} : Nat → List α → Tab α
  | _, [] => []
  | k, v :: vs => (k, v) :: tfrom (k + 1) vs

/-! ### Byte memories in canonical form -/

/-- The byte at an address; an unlisted address reads as zero. -/
def mget : Memory → Nat → Byte
  | [], _ => 0
  | (k, v) :: t, a => if a = k then v else if a < k then 0 else mget t a

/-- The memory with one byte stored, in canonical form: storing zero removes the entry. -/
def mset : Memory → Nat → Byte → Memory
  | [], a, v => if v = 0 then [] else [(a, v)]
  | (k, w) :: t, a, v =>
    if a < k then (if v = 0 then (k, w) :: t else (a, v) :: (k, w) :: t)
    else if a = k then (if v = 0 then t else (a, v) :: t)
    else (k, w) :: mset t a v

/-- Every listed address from `lo` on rises strictly and no listed byte is zero. -/
def wfFrom : Nat → Memory → Bool
  | _, [] => true
  | lo, (k, v) :: t => decide (lo ≤ k) && v != 0 && wfFrom (k + 1) t

/-- The canonical form of a memory. -/
def Memory.wf (m : Memory) : Bool := wfFrom 0 m

/-- n bytes from address a. -/
def mgetN (m : Memory) : Nat → Nat → List Byte
  | _, 0 => []
  | a, n + 1 => mget m a :: mgetN m (a + 1) n

/-- Bytes stored from address a on. -/
def msetN : Memory → Nat → List Byte → Memory
  | m, _, [] => m
  | m, a, b :: bs => msetN (mset m a b) (a + 1) bs

/-- The little-endian number in n bytes at a. -/
def mnat (m : Memory) (a n : Nat) : Nat := ofBytes (mgetN m a n)

/-- The memory with the n low bytes of x at a. -/
def mput (m : Memory) (a n x : Nat) : Memory := msetN m a (bytesOf n x)

/-- The memory without the listed bytes of [lo, hi). -/
def mclear (m : Memory) (lo hi : Nat) : Memory := m.filter (fun c => c.1 < lo || hi ≤ c.1)

/-! ### Sets of numbers -/

/-- Is n in the set? -/
def smem (t : NatSet) (n : Nat) : Bool := t.contains n

/-- The set with n. -/
def sadd : NatSet → Nat → NatSet
  | [], n => [n]
  | k :: t, n => if n < k then n :: k :: t else if n = k then k :: t else k :: sadd t n

/-- The set without n. -/
def sdel (t : NatSet) (n : Nat) : NatSet := t.filter (fun k => k != n)

/-- The set with n numbers from a. -/
def saddN : NatSet → Nat → Nat → NatSet
  | t, _, 0 => t
  | t, a, n + 1 => saddN (sadd t a) (a + 1) n

/-! ### Lists -/

/-- The list with element i replaced. -/
def lset {α : Type} (l : List α) (i : Nat) (v : α) : List α := l.set i v

/-- Element i, or the default. -/
def lget {α : Type} (l : List α) (i : Nat) (d : α) : α := l.getD i d

/-- The numbers below n for which the predicate holds, in rising order. -/
def bitsBelow (n : Nat) (p : Nat → Bool) : List Nat := (List.range n).filter p

/-- The set bits of a mask below n. -/
def maskBits (n mask : Nat) : List Nat := bitsBelow n (fun i => mask.testBit i)

end Sys2Proof.Machine
end

