-- ==== Sys2Proof/Machine/Num.lean ====
section
/-!
DEFINITION. Number formats and exact arithmetic (spec 02): the values patterns stand for, the one
rounding of the device, conversions, Philox draws, the special functions, the sums of the
multiplier pool and its residue checks.
-/
namespace Sys2Proof.Machine
open Sys2Proof

/-- The value of a floating-point pattern: NaN, an infinity, or (-1)^neg * m * 2^e (R19). -/
inductive Num where
  | nan
  | inf (neg : Bool)
  | fin (neg : Bool) (m : Nat) (e : Int)
  deriving DecidableEq, Repr

/-- The rounding modes of Table 2.4 (R22). -/
inductive Rm where
  | rne | rtz | rup | rdn | rsr
  deriving DecidableEq, Repr

/-- The six flags of Table 2.6 as a number: NX 1, UF 2, OF 4, DZ 8, NV 16, RG 32 (R30). -/
abbrev FlagSet := BitVec 6

def flagNX : FlagSet := 1
def flagUF : FlagSet := 2
def flagOF : FlagSet := 4
def flagDZ : FlagSet := 8
def flagNV : FlagSet := 16
def flagRG : FlagSet := 32

/-- The mode a 3-bit code names (R22); codes 5 to 7 are reserved. -/
def rmOf : Nat → Option Rm
  | 0 => some .rne
  | 1 => some .rtz
  | 2 => some .rup
  | 3 => some .rdn
  | 4 => some .rsr
  | _ => none

/-! ### The formats of Table 2.1 and Table 2.2, by code (R17, R19) -/

/-- Element bits of a format code. -/
def fmtWidth : Nat → Nat
  | 0 | 1 | 9 | 10 | 12 | 13 | 14 | 16 => 8
  | 2 | 3 | 7 | 8 => 16
  | 4 | 5 | 6 => 32
  | 11 | 15 => 4
  | 17 => 64
  | _ => 0

/-- Fraction bits of a float format. -/
def fracBits : Nat → Nat
  | 6 => 23 | 7 => 7 | 8 => 10 | 9 => 3 | 10 => 2 | 11 => 1 | 17 => 52
  | _ => 0

/-- Exponent bits of a float format. -/
def expBits : Nat → Nat
  | 6 => 8 | 7 => 8 | 8 => 5 | 9 => 4 | 10 => 5 | 11 => 2 | 17 => 11 | 12 => 8
  | _ => 0

/-- Exponent bias of a float format. -/
def biasOf : Nat → Int
  | 6 => 127 | 7 => 127 | 8 => 15 | 9 => 7 | 10 => 15 | 11 => 1 | 17 => 1023 | 12 => 127
  | _ => 0

/-- Is the code a signed or unsigned integer format? -/
def isIntFmt (c : Nat) : Bool := decide (c ≤ 5)

/-- Is the integer format signed? -/
def isSignedFmt (c : Nat) : Bool := c == 0 || c == 2 || c == 4

/-- Is the code a binary float format? -/
def isFloatFmt (c : Nat) : Bool := (decide (6 ≤ c) && decide (c ≤ 11)) || c == 17

/-- Does flush-to-zero reach the format (R29)? -/
def ftzReaches (c : Nat) : Bool := decide (6 ≤ c) && decide (c ≤ 10)

/-- The weight exponent of the last fraction bit of a subnormal. -/
def qMin (c : Nat) : Int := 1 - biasOf c - (fracBits c : Int)

/-- The largest finite value of a format as a significand and an exponent (Table 2.2). -/
def maxFin : Nat → Nat × Int
  | 6 => (2 ^ 24 - 1, 104)
  | 7 => (2 ^ 8 - 1, 120)
  | 8 => (2 ^ 11 - 1, 5)
  | 9 => (14, 5)
  | 10 => (7, 13)
  | 11 => (3, 1)
  | 17 => (2 ^ 53 - 1, 971)
  | _ => (0, 0)

/-- The canonical NaN of a format (Table 2.3). -/
def canonNaN : Nat → Nat
  | 6 => 0x7FC00000 | 7 => 0x7FC0 | 8 => 0x7E00 | 9 => 0x7F | 10 => 0x7E | 12 => 0xFF
  | 17 => 0x7FF8000000000000
  | _ => 0

/-- The sign bit of a float format, as a number. -/
def signBit (c : Nat) (neg : Bool) : Nat := if neg then 2 ^ (expBits c + fracBits c) else 0

/-- The infinity pattern of a format that has infinities. -/
def infBits (c : Nat) (neg : Bool) : Nat := signBit c neg + (2 ^ expBits c - 1) * 2 ^ fracBits c

/-- The pattern of the largest finite value. -/
def maxBits (c : Nat) (neg : Bool) : Nat :=
  signBit c neg +
    (if c == 9 then 0x7E
     else if c == 11 then 7
     else (2 ^ expBits c - 1) * 2 ^ fracBits c - 1)

/-! ### Reading a pattern (R19) -/

/-- The value of a float or e8m0 pattern, subnormals honoured. -/
def numOf (c x : Nat) : Num :=
  let f := fracBits c
  let neg := x.testBit (expBits c + f)
  let ex := x / 2 ^ f % 2 ^ expBits c
  let fr := x % 2 ^ f
  if c == 12 then
    (if x % 256 = 255 then .nan else .fin false 1 (((x % 256 : Nat) : Int) - 127))
  else if c == 9 then
    (if ex = 15 ∧ fr = 7 then .nan
     else if ex = 0 then .fin neg fr (qMin c)
     else .fin neg (fr + 2 ^ f) (qMin c + (ex : Int) - 1))
  else if ex = 2 ^ expBits c - 1 ∧ c ≠ 11 then
    (if fr = 0 then .inf neg else .nan)
  else if ex = 0 then .fin neg fr (qMin c)
  else .fin neg (fr + 2 ^ f) (qMin c + (ex : Int) - 1)

/-- Is the pattern a subnormal of its format? -/
def isSubnormal (c x : Nat) : Bool :=
  c != 12 && x / 2 ^ fracBits c % 2 ^ expBits c == 0 && x % 2 ^ fracBits c != 0

/-- The value read as an operand: under flush-to-zero a subnormal reads as a zero of its sign (R29). -/
def operand (ftz : Bool) (c x : Nat) : Num :=
  if ftz && ftzReaches c && isSubnormal c x then .fin (x.testBit (expBits c + fracBits c)) 0 0
  else numOf c x

/-- The value of an integer pattern as a Num. -/
def numOfInt (v : Int) : Num := .fin (decide (v < 0)) v.natAbs 0

/-- The integer an integer format's pattern stands for (R18). -/
def intOfFmt (c x : Nat) : Int :=
  if isSignedFmt c then sintOf (fmtWidth c) x else ((x % 2 ^ fmtWidth c : Nat) : Int)

/-! ### Rounding (R22, R23, R26) -/

/-- The magnitude m cut by s places under a mode, with whether anything was lost.
`u` is the 32-bit draw of rsr (R23). -/
def cutBy (mode : Rm) (u : Nat) (neg : Bool) (m s : Nat) : Nat × Bool :=
  let t := m >>> s
  let r := m % 2 ^ s
  if r = 0 then (t, false)
  else
    let up : Bool := match mode with
      | .rne => decide (2 ^ s < 2 * r) || (2 * r == 2 ^ s && t % 2 == 1)
      | .rtz => false
      | .rup => !neg
      | .rdn => neg
      | .rsr => decide (2 ^ 32 ≤ r * 2 ^ 32 / 2 ^ s + u)
    (if up then t + 1 else t, true)

/-- The magnitude m * 2^e as a multiple of 2^q. -/
def roundAt (mode : Rm) (u : Nat) (neg : Bool) (m : Nat) (e q : Int) : Nat × Bool :=
  if q ≤ e then (m * 2 ^ (e - q).toNat, false) else cutBy mode u neg m (q - e).toNat

/-- Is n * 2^q larger than m * 2^e? -/
def magLt (m : Nat) (e : Int) (n : Nat) (q : Int) : Bool :=
  if e ≤ q then decide (m < n * 2 ^ (q - e).toNat) else decide (m * 2 ^ (e - q).toNat < n)

/-- The result of an overflow (R26, Table 2.5). -/
def overflowBits (c : Nat) (mode : Rm) (nosat neg : Bool) : Nat :=
  let inf := if c == 9 then canonNaN 9 else infBits c neg
  if c == 11 || ((c == 9 || c == 10) && !nosat) then maxBits c neg
  else match mode with
    | .rne => inf
    | .rsr => inf
    | .rtz => maxBits c neg
    | .rup => if neg then maxBits c neg else inf
    | .rdn => if neg then inf else maxBits c neg

/-- A finite value rounded once into a float format, with its flags (R22, R26, R27, R29, R30). -/
def roundFin (c : Nat) (mode : Rm) (u : Nat) (nosat ftz neg : Bool) (m : Nat) (e : Int) : Nat × FlagSet :=
  if m = 0 then (signBit c neg, 0)
  else
    let f := fracBits c
    let k : Int := (m.log2 : Int) + e
    let qn := k - (f : Int)
    let q := if qn < qMin c then qMin c else qn
    let r := roundAt mode u neg m e q
    let tiny : Bool := decide (k < 1 - biasOf c) &&
      (decide (k < -biasOf c) || decide ((roundAt mode u neg m e qn).1 < 2 ^ (f + 1)))
    if magLt (maxFin c).1 (maxFin c).2 r.1 q then (overflowBits c mode nosat neg, flagOF ||| flagNX)
    else if ftz && ftzReaches c && r.1 != 0 && decide (r.1 < 2 ^ f) then (signBit c neg, flagUF ||| flagNX)
    else
      (signBit c neg + ((q - qMin c).toNat * 2 ^ f + r.1),
        (if r.2 then flagNX else 0) ||| (if r.2 && tiny then flagUF else 0))

/-- A value rounded once into a float format (R20, R26, R27). -/
def roundNum (c : Nat) (mode : Rm) (u : Nat) (nosat ftz : Bool) : Num → Nat × FlagSet
  | .nan => if c == 11 then (0, flagNV) else (canonNaN c, 0)
  | .inf neg =>
    if c == 11 then (maxBits c neg, flagOF ||| flagNX)
    else if c == 9 then
      (if nosat then (canonNaN 9, flagNV) else (maxBits c neg, flagOF ||| flagNX))
    else (infBits c neg, 0)
  | .fin neg m e => roundFin c mode u nosat ftz neg m e

/-- A value converted to e8m0 (R28, Float to e8m0). -/
def toE8m0 : Num → Nat × FlagSet
  | .nan => (0xFF, flagNV)
  | .inf _ => (0xFF, flagNV)
  | .fin _ m e =>
    if m = 0 then (0, 0)
    else
      let k : Int := (m.log2 : Int) + e + 127
      if k < 0 then (0, flagNX) else if 254 < k then (0xFE, flagNX) else (k.toNat, 0)

/-- The range of an integer format. -/
def intRange (c : Nat) : Int × Int :=
  if isSignedFmt c then (sintMin (fmtWidth c), sintMax (fmtWidth c))
  else (0, ((2 ^ fmtWidth c : Nat) : Int) - 1)

/-- A value rounded to an integer and clamped to an integer format (R28, Float to integer). -/
def toIntFmt (c : Nat) (mode : Rm) (u : Nat) : Num → Nat × FlagSet
  | .nan => (0, flagNV)
  | .inf neg => (wrapInt (fmtWidth c) (if neg then (intRange c).1 else (intRange c).2), flagNV)
  | .fin neg m e =>
    let r := roundAt mode u neg m e 0
    let v : Int := if neg then -(r.1 : Int) else (r.1 : Int)
    if v < (intRange c).1 then (wrapInt (fmtWidth c) (intRange c).1, flagNV)
    else if (intRange c).2 < v then (wrapInt (fmtWidth c) (intRange c).2, flagNV)
    else (wrapInt (fmtWidth c) v, if r.2 then flagNX else 0)

/-- One element converted between two format codes (R27, R28, R29). An integer becomes e8m0 by the rule of a float of its
value (DESIGN CHOICE, log 76). -/
def convert (src tgt : Nat) (mode : Rm) (u : Nat) (nosat ftz : Bool) (x : Nat) : Nat × FlagSet :=
  if isIntFmt src && isIntFmt tgt then
    (wrapInt (fmtWidth tgt) (clampInt (intRange tgt).1 (intRange tgt).2 (intOfFmt src x)), 0)
  else
    let v := if isIntFmt src then numOfInt (intOfFmt src x) else operand ftz src x
    if isIntFmt tgt then toIntFmt tgt mode u v
    else if tgt == 12 then toE8m0' src v
    else roundNum tgt mode u nosat ftz v
where
  /-- An e8m0 source keeps its NaN without a flag when the target is e8m0 too (R234). -/
  toE8m0' (src : Nat) (v : Num) : Nat × FlagSet :=
    if src == 12 then ((toE8m0 v).1, 0) else toE8m0 v

/-! ### Exact arithmetic on values -/

/-- The sign of an exact zero sum: minus only where both are, or under rdn where they differ. -/
def zeroSign (mode : Rm) (n1 n2 : Bool) : Bool :=
  if n1 == n2 then n1 else mode == .rdn

/-- A signed magnitude. -/
def signed (neg : Bool) (m : Nat) : Int := if neg then -(m : Int) else (m : Int)

/-- The exact sum of two values; the flag is set for infinity minus infinity (Table 2.6). -/
def addNum (mode : Rm) : Num → Num → Num × FlagSet
  | .nan, _ => (.nan, 0)
  | _, .nan => (.nan, 0)
  | .inf a, .inf b => if a == b then (.inf a, 0) else (.nan, flagNV)
  | .inf a, _ => (.inf a, 0)
  | _, .inf b => (.inf b, 0)
  | .fin n1 m1 e1, .fin n2 m2 e2 =>
    let e := if e1 ≤ e2 then e1 else e2
    let v := signed n1 (m1 * 2 ^ (e1 - e).toNat) + signed n2 (m2 * 2 ^ (e2 - e).toNat)
    if m1 = 0 ∧ m2 = 0 then (.fin (zeroSign mode n1 n2) 0 0, 0)
    else if v = 0 then (.fin (mode == .rdn) 0 0, 0)
    else if m1 = 0 then (.fin n2 m2 e2, 0)
    else if m2 = 0 then (.fin n1 m1 e1, 0)
    else (.fin (decide (v < 0)) v.natAbs e, 0)

/-- The exact product of two values; the flag is set for zero times infinity (Table 2.6). -/
def mulNum : Num → Num → Num × FlagSet
  | .nan, _ => (.nan, 0)
  | _, .nan => (.nan, 0)
  | .inf a, .inf b => (.inf (a != b), 0)
  | .inf a, .fin b m _ => if m = 0 then (.nan, flagNV) else (.inf (a != b), 0)
  | .fin a m _, .inf b => if m = 0 then (.nan, flagNV) else (.inf (a != b), 0)
  | .fin a m1 e1, .fin b m2 e2 => (.fin (a != b) (m1 * m2) (e1 + e2), 0)

/-- The negated value. -/
def negNum : Num → Num
  | .nan => .nan
  | .inf a => .inf (!a)
  | .fin a m e => .fin (!a) m e

/-- Is the first value below the second? NaN is below nothing. -/
def ltNum : Num → Num → Bool
  | .nan, _ => false
  | _, .nan => false
  | .inf a, .inf b => a && !b
  | .inf a, .fin _ _ _ => a
  | .fin _ _ _, .inf b => !b
  | .fin n1 m1 e1, .fin n2 m2 e2 =>
    let e := if e1 ≤ e2 then e1 else e2
    decide (signed n1 (m1 * 2 ^ (e1 - e).toNat) < signed n2 (m2 * 2 ^ (e2 - e).toNat))

/-- Are the values numerically equal? -/
def eqNum (a b : Num) : Bool :=
  match a, b with
  | .nan, _ => false
  | _, .nan => false
  | a, b => !(ltNum a b) && !(ltNum b a)

/-- Is the value a NaN? -/
def isNaN : Num → Bool
  | .nan => true
  | _ => false

/-- The sign of a value. -/
def negOf : Num → Bool
  | .nan => false
  | .inf n => n
  | .fin n _ _ => n

/-! ### Philox4x32-10 (R24, R25) -/

/-- i rounds of Philox on (c0, c1, c2, c3) with key (k0, k1). -/
def philoxRounds : Nat → Nat → Nat → Nat → Nat → Nat → Nat → List Nat
  | 0, c0, c1, c2, c3, _, _ => [c0, c1, c2, c3]
  | i + 1, c0, c1, c2, c3, k0, k1 =>
    let p := 0xD2511F53 * c0
    let q := 0xCD9E8D57 * c2
    philoxRounds i ((q / 2 ^ 32).xor (c1.xor k0)) (q % 2 ^ 32) ((p / 2 ^ 32).xor (c3.xor k1)) (p % 2 ^ 32)
      ((k0 + 0x9E3779B9) % 2 ^ 32) ((k1 + 0xBB67AE85) % 2 ^ 32)

/-- The four words of Philox4x32-10 (R25). -/
def philox (c0 c1 c2 c3 k0 k1 : Nat) : List Nat := philoxRounds 10 c0 c1 c2 c3 k0 k1

/-- The eight draw words of a firing, lane 0 first (R24). -/
def drawWords (seed counter bank : Nat) : List Nat :=
  let n0 := counter % 2 ^ 32
  let n1 := counter / 2 ^ 32 % 2 ^ 32
  let k0 := seed % 2 ^ 32
  let k1 := seed / 2 ^ 32 % 2 ^ 32
  philox n0 n1 0 bank k0 k1 ++ philox n0 n1 1 bank k0 k1

/-- The draw of value j of a lane holding m values (R23 step 3). -/
def laneDraw (word m j : Nat) : Nat :=
  field word (32 * j / m + 32 / m - 1) (32 * j / m) * 2 ^ (32 - 32 / m)

/-! ### CRC-32C (polynomial 0x1EDC6F41, reflected) -/

/-- One byte's eight shifts of the reflected CRC-32C register. -/
def crcShift : Nat → Nat → Nat
  | 0, r => r
  | n + 1, r => crcShift n (if r % 2 = 1 then (r / 2).xor 0x82F63B78 else r / 2)

/-- CRC-32C of bytes, from a running register. -/
def crcRun : Nat → List Byte → Nat
  | r, [] => r
  | r, b :: bs => crcRun (crcShift 8 (r.xor b.toNat)) bs

/-- CRC-32C of bytes. -/
def crc32c (bs : List Byte) : Nat := (crcRun 0xFFFFFFFF bs).xor 0xFFFFFFFF

/-! ### Square roots and reciprocals, exact with a sticky bit -/

/-- The integer square root of m, found from bit i downward. -/
def isqrtFrom : Nat → Nat → Nat → Nat
  | 0, m, r => if (r + 1) * (r + 1) ≤ m then r + 1 else r
  | i + 1, m, r => if (r + 2 ^ (i + 1)) * (r + 2 ^ (i + 1)) ≤ m then isqrtFrom i m (r + 2 ^ (i + 1)) else isqrtFrom i m r

/-- The integer square root. -/
def isqrt (m : Nat) : Nat := isqrtFrom (m.log2 / 2 + 1) m 0

/-- A magnitude with a sticky bit below it: `lost` says whether the true value lies above. -/
def sticky (neg : Bool) (m : Nat) (e : Int) (lost : Bool) : Num :=
  .fin neg (2 * m + b2n lost) (e - 1)

/-- The square root of a positive value, with a sticky bit. -/
def sqrtMag (m : Nat) (e : Int) : Num :=
  let m1 := if e % 2 = 0 then m else 2 * m
  let e1 := if e % 2 = 0 then e else e - 1
  let w := m1 * 2 ^ 160
  let r := isqrt w
  sticky false r (e1 / 2 - 80) (r * r != w)

/-- The reciprocal of a non-zero magnitude, with a sticky bit. -/
def rcpMag (neg : Bool) (m : Nat) (e : Int) : Num :=
  let t := m.log2 + 160
  sticky neg (2 ^ t / m) (-e - (t : Int)) (2 ^ t % m != 0)

/-- The reciprocal square root of a positive value, with a sticky bit. -/
def rsqrtMag (m : Nat) (e : Int) : Num :=
  let m1 := if e % 2 = 0 then m else 2 * m
  let e1 := if e % 2 = 0 then e else e - 1
  let t := m1.log2 + 160
  let w := 2 ^ (2 * t) / m1
  let r := isqrt w
  sticky false r (-(e1 / 2) - (t : Int)) (r * r * m1 != 2 ^ (2 * t))

/-! ### Transcendental functions: fixed point with 600 fraction bits (DEDUCED, log 20) -/

/-- Fraction bits of the fixed-point work. -/
def fxBits : Nat := 600
/-- One, in fixed point. -/
def fxOne : Int := ((2 ^ fxBits : Nat) : Int)
/-- Product of two fixed-point numbers. -/
def fxMul (a b : Int) : Int := a * b / fxOne

/-- The sum of z^(2k+1)/(2k+1) with sign s each term, n terms from index k; p = z^(2k+1), z2 = z*z. -/
def oddSeries (alt : Bool) : Nat → Nat → Int → Int → Int
  | 0, _, _, _ => 0
  | n + 1, k, p, z2 =>
    p / ((2 * k + 1 : Nat) : Int) + (if alt then -(oddSeries alt n (k + 1) (fxMul p z2) z2)
      else oddSeries alt n (k + 1) (fxMul p z2) z2)

/-- atanh z for |z| at most 1/3, in fixed point. -/
def fxAtanh (z : Int) : Int := oddSeries false 200 0 z (fxMul z z)

/-- arctan of 1/n. -/
def fxAtanInv (n : Nat) : Int := oddSeries true 150 0 (fxOne / (n : Int)) (fxMul (fxOne / (n : Int)) (fxOne / (n : Int)))

/-- The natural logarithm of 2. -/
def fxLn2 : Int := 2 * fxAtanh (fxOne / 3)
/-- Half of pi. -/
def fxHalfPi : Int := 8 * fxAtanInv 5 - 2 * fxAtanInv 239

/-- The Taylor terms y^k/k! summed from term p at index k, with step st and sign change alt. -/
def taylor (alt : Bool) (st : Nat) : Nat → Nat → Int → Int → Int
  | 0, _, _, _ => 0
  | n + 1, k, p, y =>
    let d : Int := if st = 1 then ((k + 1 : Nat) : Int) else (((k + 1) * (k + 2) : Nat) : Int)
    let p' := fxMul p y / d
    p + (if alt then -(taylor alt st n (k + st) p' y) else taylor alt st n (k + st) p' y)

/-- e^y for 0 ≤ y < 1. -/
def fxExp (y : Int) : Int := taylor false 1 130 0 fxOne y
/-- sin r for |r| at most pi/4. -/
def fxSin (r : Int) : Int := taylor true 2 60 1 r (fxMul r r)
/-- cos r for |r| at most pi/4. -/
def fxCos (r : Int) : Int := taylor true 2 60 0 fxOne (fxMul r r)

/-- A finite value in fixed point (exact for the operand formats). -/
def toFx (neg : Bool) (m : Nat) (e : Int) : Int :=
  if 0 ≤ e + (fxBits : Int) then signed neg (m * 2 ^ (e + (fxBits : Int)).toNat)
  else signed neg (m / 2 ^ (-(e + (fxBits : Int))).toNat)

/-- An inexact fixed-point result as a value with a sticky bit. -/
def ofFx (v : Int) (shift : Int) : Num := sticky (decide (v < 0)) v.natAbs (shift - (fxBits : Int)) true

/-- 2^x (R235). -/
def exp2Num (neg : Bool) (m : Nat) (e : Int) : Num :=
  if m = 0 then .fin false 1 0
  else if 12 < (m.log2 : Int) + e then (if neg then .fin false 1 (-5000) else .fin false 1 5000)
  else
    let x := toFx neg m e
    let n := x / fxOne
    let f := x - n * fxOne
    if f = 0 then .fin false 1 n else ofFx (fxExp (fxMul f fxLn2)) n

/-- log2 of a positive value (R235). -/
def log2Num (m : Nat) (e : Int) : Num :=
  let k := m.log2
  if m = 2 ^ k then numOfInt ((k : Int) + e)
  else
    let t := toFx false m (-(k : Int))
    let l := 2 * fxAtanh ((t - fxOne) * fxOne / (t + fxOne))
    ofFx (((k : Int) + e) * fxOne + l * fxOne / fxLn2) 0

/-- sin or cos of a finite value below 65,536 in magnitude (R235). -/
def trigNum (isCos : Bool) (neg : Bool) (m : Nat) (e : Int) : Num :=
  if m = 0 then (if isCos then .fin false 1 0 else .fin neg 0 0)
  else
    let x := toFx neg m e
    let q := (2 * x + fxHalfPi) / (2 * fxHalfPi)
    let r := x - q * fxHalfPi
    let sel := (if isCos then q + 1 else q) % 4
    let v := if sel = 0 then fxSin r else if sel = 1 then fxCos r else if sel = 2 then -(fxSin r) else -(fxCos r)
    ofFx v 0

/-- tanh of a finite value (R235). -/
def tanhNum (neg : Bool) (m : Nat) (e : Int) : Num :=
  if m = 0 then .fin neg 0 0
  else if 6 < (m.log2 : Int) + e then sticky neg (2 ^ fxBits - 1) (-(fxBits : Int)) true
  else
    let y := 2 * toFx false m e
    let n := y / fxLn2
    let t := fxExp (y - n * fxLn2) * ((2 ^ n.toNat : Nat) : Int)
    let v := (t - fxOne) * fxOne / (t + fxOne)
    ofFx (if neg then -v else v) 0

/-! ### The sums of the multiplier pool (R32 to R38) -/

/-- Two f64 patterns added and rounded rne (R34). -/
def addF64 (a b : Nat) : Nat × FlagSet :=
  let s := addNum .rne (numOf 17 a) (numOf 17 b)
  let r := roundNum 17 .rne 0 false false s.1
  (r.1, s.2 ||| r.2)

/-- The two children of a tree node joined (R34): NONE is neutral. -/
def joinNodes : Option Nat × FlagSet → Option Nat × FlagSet → Option Nat × FlagSet
  | (none, f), (r, g) => (r, f ||| g)
  | (l, f), (none, g) => (l, f ||| g)
  | (some a, f), (some b, g) =>
    let s := addF64 a b
    (some s.1, f ||| g ||| s.2)

/-- TreeSum over 2^k positions from `lo` (R34). -/
def treeSum (value : Nat → Option Nat) : Nat → Nat → Option Nat × FlagSet
  | 0, lo => (value lo, 0)
  | k + 1, lo => joinNodes (treeSum value k lo) (treeSum value k (lo + 2 ^ k))

/-- The least k with n ≤ 2^k. -/
def ceilLog2 (n : Nat) : Nat := if n ≤ 1 then 0 else (n - 1).log2 + 1

/-- The span result of n positions (R34). -/
def spanSum (value : Nat → Option Nat) (n : Nat) : Option Nat × FlagSet :=
  treeSum (fun i => if i < n then value i else none) (ceilLog2 n) 0

/-- The element value of an MX operand: e4m3, e5m2, e2m1, or s8 scaled by 2^-6 (R21). -/
def mxElem (code x : Nat) : Num :=
  if code == 13 then numOf 9 x
  else if code == 14 then numOf 10 x
  else if code == 15 then numOf 11 x
  else
    let v := sintOf 8 x
    .fin (decide (v < 0)) v.natAbs (-6)

/-- The exact product of two operands of a format, with an error added to the product of the significands; the error is
0 but in a firing that went wrong undetected (R32, R41). -/
def productOf (code a b err : Nat) : Num :=
  let v := fun (x : Nat) => if 13 ≤ code then mxElem code x else numOf code x
  match (mulNum (v a) (v b)).1 with
  | .fin neg m e => .fin neg (m + err) e
  | w => w

/-- A finite exact product in units of 2^-32 (R32). -/
def productUnits : Num → Int
  | .fin neg m e => signed neg (m * 2 ^ (e + 32).toNat)
  | _ => 0

/-- The sum of a block's products in units of 2^-32 (R32). -/
def blockSum (prods : List Num) : Int := (prods.map productUnits).foldl (· + ·) 0

/-- BlockResult of R32 over the products of the pairs present, with the block's scales; none stands for NONE. The result is
an f64 pattern; the special values are settled before step 2 and raise no flag (R176); `err` is an error in the block's sum, 0 but
where one went undetected (R41). DEDUCED, log 26. -/
def blockResult (sa sb : Nat) (prods : List Num) (err : Nat) : Option Nat × FlagSet :=
  let pos := prods.any (fun v => v == .inf false)
  let neg := prods.any (fun v => v == .inf true)
  if prods.isEmpty then (none, 0)
  else if sa == 255 || sb == 255 || prods.any isNaN || (pos && neg) then (some (canonNaN 17), 0)
  else if pos || neg then (some (infBits 17 neg), 0)
  else
    let acc := blockSum prods + (err : Int)
    let r := roundFin 17 .rne 0 false false (decide (acc < 0)) acc.natAbs (-32)
    match numOf 17 r.1 with
    | .fin n m e =>
      if m = 0 then (some 0, r.2)
      else (some (roundFin 17 .rne 0 false false n m (e + (sa : Int) + (sb : Int) - 254)).1, r.2)
    | _ => (some r.1, r.2)

/-- The product of two bf16 or f16 elements as an f64 pattern, in which it is exact (R34). -/
def elemProduct (code a b err : Nat) : Nat := (roundNum 17 .rne 0 false false (productOf code a b err)).1

/-- Step 4: an f64 span result added once into an entry of format code c (R35). -/
def accumulate (c e s : Nat) : Nat × FlagSet :=
  let v := addNum .rne (numOf c e) (numOf 17 s)
  let r := roundNum c .rne 0 false false v.1
  (r.1, v.2 ||| r.2)

/-! ### Residue checks and dual fire (R41 to R43) -/

/-- The residue modulo 7 formed from 3-bit groups, `fuel` of them. -/
def residueOf : Nat → Nat → Nat
  | 0, _ => 0
  | n + 1, x => (x % 8 + residueOf n (x / 8)) % 7

/-- Does the leaf's residue check pass for a product P of magnitudes Ma and Mb (R41)? -/
def residueOk (ma mb p : Nat) : Bool := residueOf 64 ma * residueOf 64 mb % 7 == residueOf 64 p

/-- Does the dual-fire check pass for the first and second products (R43)? -/
def dualFireOk (p p2 : Nat) : Bool := p2 % 4 == 0 && p2 / 4 == p

/-- Do the two copies of a product's sign agree (R41)? `flip` is an error in the second. -/
def signsOk (neg flip : Bool) : Bool := neg == (neg != flip)

/-- The residue of a value of either sign: that of a negative one is 7 minus its magnitude's, modulo 7 (R41). -/
def residueInt (v : Int) : Nat := if v < 0 then (7 - residueOf 64 v.natAbs) % 7 else residueOf 64 v.natAbs

/-- The residue of a product as the block adder aligns it: a shift by s places multiplies it by 2^(s mod 3) (R41). -/
def alignedResidue : Num → Nat
  | .fin neg m e =>
    let r := residueOf 64 m * 2 ^ ((e + 32).toNat % 3) % 7
    if neg then (7 - r) % 7 else r
  | _ => 0

/-- Does a block adder's check of its sum pass, with an error added to it (R41)? Under dual fire the sum of the second firing's products,
each four times the first's, must also agree once scaled by 2^-2 (R43). -/
def blockAdderOk (dual : Bool) (prods : List Num) (err : Nat) : Bool :=
  let sum := blockSum prods + (err : Int)
  residueInt sum == (prods.map alignedResidue).foldl (· + ·) 0 % 7
    && (!dual || decide ((prods.map (fun v => 4 * productUnits v)).foldl (· + ·) 0 = 4 * sum))

end Sys2Proof.Machine
end

