-- ==== Sys2Proof/Machine/Types.lean ====
section
/-!
DEFINITION. The parts the machine's state is built from: plain data, one structure per unit of the device.
-/
namespace Sys2Proof.Machine
open Sys2Proof

/-! ### Strands (R271, R279, R341) -/

/-- A trap cause code (Table 13.1). -/
abbrev Cause := BitVec 8

/-- One level of a strand's hardware loop stack (R290). -/
structure LoopLevel where
  /-- B: the address of the first word of the body. -/
  start : Word
  /-- E: the address of the last word of the body. -/
  stop : Word
  remaining : Word
  deriving DecidableEq, Repr

/-- One level of a strand's trap stack (R341). -/
structure TrapLevel where
  epc : Word
  cause : Word
  tval : Word
  status : Word
  save0 : Word
  save1 : Word
  save2 : Word
  save3 : Word
  deriving DecidableEq, Repr

/-- Where a buffered store goes: the sp space, or a physical address found at issue. -/
inductive BufAddr where
  | sp (offset : Nat)
  | phys (pa : Nat)
  deriving DecidableEq, Repr

/-- One entry of a strand's store buffer (R127). -/
structure BufStore where
  addr : BufAddr
  bytes : List Byte
  /-- the policy of the page written (R84) -/
  policy : Nat
  deriving DecidableEq, Repr

/-- The waita that holds a strand: its condition code and registers (R294). -/
structure Watched where
  cond : Nat
  d : Reg
  a : Reg
  b : Reg
  deriving DecidableEq, Repr

/-- What a scalar access sent outside the device's own memory waits for (R127). -/
structure Pending where
  /-- the destination register; 0 discards -/
  dest : Nat
  /-- access size in bytes -/
  size : Nat
  /-- sign-extend the data -/
  sext : Bool
  /-- a store or cache form: only the acknowledgement is awaited -/
  store : Bool
  /-- a waita read -/
  watch : Option Watched
  ea : Nat
  pa : Nat
  /-- the operation sent, for an atomic: op, operand, compare value -/
  atomic : Option (Nat × Word × Word)
  /-- the bytes of a store -/
  bytes : List Byte
  /-- instruction length in bytes -/
  len : Nat
  /-- since when the strand has waited -/
  since : Nat
  /-- the number of the packet that carries a fabric access -/
  seq : Nat
  deriving DecidableEq, Repr

/-- The condition of Table 10.1 that holds a strand. A condition that the instruction itself re-tests when the
strand is given another turn (a full queue, a semaphore below its threshold) needs no record. -/
inductive Hold where
  | none
  /-- an instruction fetch whose page is withheld, since a time -/
  | fetch (va since : Nat)
  /-- a scalar access or dispatch-time read whose page is withheld (R80), since a time -/
  | withheld (va since : Nat)
  /-- one that may go on: the strand executes its instruction again, and the access keeps its place at the directory (R111 step 5) -/
  | freed (va since : Nat)
  /-- an atomic of n bytes at a physical address, with an update of them waiting in their unit (R89, R125) -/
  | unit (pa n : Nat)
  /-- a scalar access outside the device's own memory (R127) -/
  | response (p : Pending)
  /-- waita whose condition has not been observed, since a time (R294) -/
  | watch (pa since : Nat) (q : Watched)
  /-- bar: arrived at a generation, since a time (R295) -/
  | barrier (level id gen since : Nat)
  /-- sync.step: arrived at a superstep, since a time (R296) -/
  | superstep (level gen since : Nat)
  /-- st.sp.d to word 0 of a mapping entry: registration or unregistration in progress (R121, R123), and the page that it is withheld at, since a time -/
  | window (entry : Nat) (value : Word) (wait : Option (Nat × Nat))
  /-- ctx.save with bit 0 set, waiting for the crew's other strands (R368) -/
  | suspend
  deriving DecidableEq, Repr

/-- One barrier or superstep counter (R295, R296): the launch, the tile (.co) or gang (.cl) it belongs to, 0 at the
wider levels, the level, the id (256 for the superstep), the current generation and the strands that have
arrived at it, as tile and strand. -/
structure Barrier where
  launch : Nat
  scope : Nat
  level : Nat
  id : Nat
  gen : Nat
  arrived : List (Nat × Nat)
  deriving DecidableEq, Repr

/-- A strand (R271). -/
structure Strand where
  /-- x1 to x63; x0 is not stored (R49). -/
  x : Tab Word
  /-- p1 to p7 in bits 1 to 7; p0 is not stored (R49). -/
  p : BitVec 8
  pc : Word
  /-- innermost level first -/
  loops : List LoopLevel
  /-- oldest entry first -/
  buffer : List BufStore
  /-- csr_status: prio [5:4], mode [1], ie [0] (Table 10.5) -/
  status : Word
  /-- top level first -/
  traps : List TrapLevel
  /-- the level popped most recently (R341) -/
  popped : TrapLevel
  /-- pending asynchronous traps: cause and first tval (R341) -/
  pending : Tab Word
  /-- does the crew have this strand? -/
  present : Bool
  halted : Bool
  /-- in its kernel handler (R344) -/
  inHandler : Bool
  hold : Hold
  /-- barrier and superstep arrivals counted for the strand and not yet completed: level, id, generation (R276) -/
  arrivals : List (Nat × Nat × Nat)
  /-- since when the strand has been ready without issuing (R273) -/
  readySince : Option Nat
  /-- when it halted (R335) -/
  haltedAt : Nat
  deriving DecidableEq, Repr

/-! ### Tokens and channels (R135, R136, R143) -/

/-- A token (R136): lanes 0 to 7 as one 256-bit number, bank and kind of the tag, poison.
Kinds: 0 data, 1 stop, 2 count, 3 error. -/
structure Token where
  data : Nat
  bank : Nat
  kind : Nat
  poison : Bool
  deriving DecidableEq, Repr

/-- What stands in a channel: a token, or a terminator marker, which takes no slot (R155).
A snapshot marker placed by the context-save engine is a rank-0 stop marked as placed (R350). -/
inductive Item where
  | tok (t : Token)
  | marker
  | snap (bank : Nat)
  deriving DecidableEq, Repr

/-- What stands in a channel's spill ring: a ring slot whose token lies in memory, a token on its way to
memory, or a marker (R143, R156). -/
inductive RingItem where
  | slot (n : Nat)
  | staged (n : Nat) (t : Token)
  | marker
  | snap (bank : Nat)
  deriving DecidableEq, Repr

/-- An active spill entry (Table 6.13): capacity, space, ring base and, for space 0, the frames bound at
dispatch (page number of the ring to physical base). -/
structure SpillEntry where
  cap : Nat
  space : Nat
  base : Nat
  frames : Tab Nat
  deriving DecidableEq, Repr

/-- A channel (R135): head first. -/
structure Chan where
  fifo : List Item
  ring : List RingItem
  /-- the ring now in use -/
  spill : Option SpillEntry
  /-- ring write position -/
  wpos : Nat
  /-- a terminator has put another spill entry, or none, in the ring's place for what follows it: that entry, and what waits for it, until the old ring is
  empty and the terminator has passed the channel (R144) -/
  turned : Option (Option SpillEntry)
  later : List RingItem
  /-- a wait-mode sm.drain of the channel has completed while this ring was in use: loads of the ring return the entries last written (R163) -/
  opened : Bool
  deriving DecidableEq, Repr

/-! ### The operand graph (R148, Tables 6.8 to 6.13) -/

/-- A plane of the graph engine: the words of the enabled nodes and gates, keyed 0 to 7 link, 8 to 11 repeat,
12 to 15 steer, 16 to 19 merge, 20 to 27 gates; the captured multicast destinations of link
nodes; and the spill entries by channel. -/
structure GraphPlane where
  nodes : Tab Nat
  maps : Tab (List Nat)
  spills : Tab SpillEntry
  deriving DecidableEq, Repr

/-- What a repeat, steer or merge node is doing. -/
inductive NodePhase where
  | idle
  /-- collecting or moving a segment: path or input, poison laid on its tokens -/
  | moving (path : Nat) (poison : Bool)
  /-- collecting the segment of a repeat round of n repetitions -/
  | collect (n : Nat) (poison : Bool)
  /-- discarding the segment a bad control token would have governed; then one error token -/
  | discard (code bank : Nat) (cause : Nat)
  /-- emitting: repetitions left, position -/
  | emit (left pos : Nat) (first : Bool)
  deriving DecidableEq, Repr

/-- A node's own state (R160). -/
structure NodeState where
  phase : NodePhase
  /-- the buffered segment of a repeat node, in order -/
  buf : List Token
  /-- tokens of the segment seen so far -/
  seen : Nat
  /-- a join is discarding, with at least one token discarded: the bank of the stop of rank 7 that began it, and of the last token discarded of each
  channel -/
  surplus : Option (Nat × Tab Nat)
  deriving DecidableEq, Repr

/-- A wave (R164): its mask, abandon flag and semaphore, and how far it has come. -/
structure Wave where
  mask : Nat
  abandon : Bool
  sem : Nat
  strand : Nat
  /-- the SM entry has left the queue -/
  begun : Bool
  /-- engines of the mask that have passed: node and gate keys, 28 the array, 29 the spill entries, 32 + e element e -/
  passed : NatSet
  /-- slots whose old-period command was active when the wave began and has not completed -/
  slots : NatSet
  /-- channels that stream and NX commands of the old period named as input -/
  slotIns : NatSet
  deriving DecidableEq, Repr

/-- The graph engine of a core. -/
structure Graph where
  active : GraphPlane
  idle : GraphPlane
  states : Tab NodeState
  /-- credit of each gate by key 20 to 27 -/
  credits : Tab Nat
  /-- waves dispatched and not completed, oldest first -/
  waves : List Wave
  /-- waves dispatched so far: the current period; those of them that name the graph engine; and those whose passage
  of the whole graph engine is over -/
  period : Nat
  graphPeriod : Nat
  graphPassed : Nat
  /-- channels that stream and NX commands of the current period named as input, and channels that sm.tok and sm.stop of the period named -/
  slotIns : NatSet
  smOuts : NatSet
  deriving DecidableEq, Repr

/-! ### Streams (R92 to R109) -/

/-- The commands of majors 0x24 and 0x25. -/
inductive SmOp where
  | aff | afw | ind | sct | upd | isx | bar
  | plane | stop | tok | drain | wave
  deriving DecidableEq, Repr

/-- A captured stream command (R93): operands a and b, the 64-byte block as one number, the issuing strand,
the semaphore (63 null), the channels of a captured multicast map, and for a plane write the
entry it makes. -/
structure SmCmd where
  op : SmOp
  a : Nat
  b : Nat
  blk : Nat
  strand : Nat
  sem : Nat
  dests : List Nat
  /-- node key of a plane write, or 64 + channel for a spill entry -/
  key : Nat
  spill : Option SpillEntry
  /-- the period the command belongs to; for a plane write the number of graph waves dispatched before it -/
  period : Nat
  deriving DecidableEq, Repr

/-- An update on its way to, or pending in, an update unit (R88, R125). -/
structure Update where
  /-- where it applies: a pool byte of a core, or a device HBM byte -/
  addr : BufAddr
  uop : Nat
  operand : Nat
  poison : Bool
  /-- the issuing core, slot, and position in its stream -/
  core : Nat
  slot : Nat
  pos : Nat
  /-- the element's address in the stream's own space (R91) -/
  ea : Nat
  /-- a remote requester's device and flow sequence, for an update that arrived by the fabric -/
  remote : Option (Nat × Nat)
  deriving DecidableEq, Repr

/-- An element of a scatter's data token, to be written once the token is complete (R100): its address in the stream's space, bytes, poison, and the code that it has
failed with, 0 for none. -/
structure Staged where
  ea : Int
  bytes : List Byte
  poison : Bool
  code : Nat
  deriving DecidableEq, Repr

/-- A stream slot's active command (R92). -/
structure Active where
  cmd : SmCmd
  /-- elements delivered, written or paired so far -/
  pos : Nat
  /-- elements of the token in progress already taken from the first and second input -/
  sub1 : Nat
  sub2 : Nat
  /-- an output token in progress: elements, how many, poison, error that replaces it -/
  out : Nat
  outN : Nat
  outPoison : Bool
  outError : Option Nat
  /-- tokens ready to be enqueued in order -/
  send : List Token
  /-- pairs formed since the previous stop (R98) -/
  run : Nat
  /-- the element stream has ended; what remains is to send and to complete -/
  ended : Bool
  /-- waiting for the closing stop of sm.afw (R98) -/
  closing : Bool
  /-- updates sent and not yet applied -/
  outstanding : Nat
  /-- returns that arrived out of order, by position (R91) -/
  returns : Tab Token
  nextReturn : Nat
  /-- hash-accumulate: keys applied, and the stop that ended it -/
  applied : Nat
  stopped : Option (Nat × Nat × Nat)
  /-- a LATENCY_BROKEN trap holds the stream at this element until the trap returns (R80): the strand it went to,
  and whether the strand has taken it -/
  broken : Option (Nat × Bool)
  /-- since when the next element's page has been withheld (R80) -/
  withheld : Option (Nat × Nat)
  /-- elements of other devices asked for and not answered, and those answered: address, bytes as a number, poison, and the code
  of an error in their place or 0 -/
  asked : List Nat
  fetched : Tab (Nat × Bool × Nat)
  /-- a scatter's elements of the data token in progress (R100) -/
  staged : List Staged
  /-- packets sent and not acknowledged: flow and sequence number -/
  sent : List (Nat × Nat)
  killed : Bool
  deriving DecidableEq, Repr

/-- A slot of the stream engine and its sm.bar bookkeeping. -/
structure Streams where
  queue : List SmCmd
  slots : Tab Active
  /-- commands of each strand dispatched to the SM queue and not yet completed (fence.sm) -/
  open_ : Tab Nat
  /-- sm.kill commands waiting for slots to become idle: mask, semaphore, strand -/
  kills : List (Nat × Nat × Nat)
  /-- tokens whose writes another device refused and that have been counted (R100), newest first -/
  refused : List Nat
  deriving DecidableEq, Repr

/-! ### Vector elements (R199 to R229) -/

/-- A register lane: value, deferred field, poison (R200). -/
structure Lane where
  v : BitVec 32
  df : FlagSet
  poison : Bool
  deriving DecidableEq, Repr

/-- A plane of an element: header, slots, constants and port bindings (R199). -/
structure Plane where
  defbank : Nat
  valid : Nat
  slots : Tab Nat
  consts : Tab (BitVec 32)
  /-- the port word of ve.bind (R226) -/
  ports : Nat
  deriving DecidableEq, Repr

/-- A vector element. Registers are keyed 8 * name + lane; names are 128 to 255 shared and 256 to 767 by bank (Table
3.8). Lane predicates are keyed 8 * bank + lane, bit i lpi. -/
structure Element where
  active : Plane
  idle : Plane
  regs : Tab Lane
  preds : Tab (BitVec 8)
  /-- csr_ectl, csr_eflags, csr_eseed, csr_edraw0 to 3, csr_estate (Tables 8.2, 8.3) -/
  ctl : Word
  flags : Word
  seed : Word
  draws : Tab Word
  state : Word
  /-- semaphore of an armed swap -/
  swapSem : Nat
  deriving DecidableEq, Repr

/-- A command of the VE queue (R223). -/
inductive VeCmd where
  /-- header and slots of the idle plane -/
  | plane (element defbank valid : Nat) (slots : Tab Nat)
  | swap (element chan : Nat)
  | bind (element ports : Nat)
  | start (mask : Nat)
  | stop (mask : Nat)
  | rd (addr element first count : Nat)
  | wr (addr element first count : Nat)
  | konst (element first : Nat) (words : List Nat)
  | wave (element : Nat)
  deriving DecidableEq, Repr

/-- A VE queue entry; `begun` says that a stop at the head has set its elements stopping. -/
structure VeEntry where
  cmd : VeCmd
  sem : Nat
  strand : Nat
  period : Nat
  begun : Bool
  deriving DecidableEq, Repr

/-! ### The array (R165 to R198) -/

/-- A stationary slot (R166). -/
structure Slot where
  value : Nat
  scale : Nat
  kpos : Nat
  full : Bool
  absent : Bool
  poison : Bool
  deriving DecidableEq, Repr

/-- A moving operand in a latch (R166), and the span it belongs to. -/
structure Moving where
  value : Nat
  scale : Nat
  kpos : Nat
  poison : Bool
  span : Nat
  deriving DecidableEq, Repr

/-- The state of one stationary position's leaf or leaves: ring, current slot, moving latch, latch history newest first
(R167), and failing firings in a row (R185). -/
structure Cell where
  ring : List Slot
  cur : Nat
  latch : Option Moving
  history : List (Slot × Moving)
  fails : Nat
  deriving DecidableEq, Repr

/-- A group: its word (Table 7.1) and its captured feed set. -/
structure Group where
  word : Nat
  feeds : Nat
  deriving DecidableEq, Repr

/-- A carve plane (R168): groups in ascending order of first, feed channels as a mask, the drain port word, the
co-operation mask (0 stands for the core alone). -/
structure ArrayPlane where
  groups : List Group
  feeds : Nat
  drains : Nat
  coop : Nat
  deriving DecidableEq, Repr

/-- A pair that a leaf multiplied: stationary and moving values and scales, and an undetected error in the product. -/
structure Pair where
  a : Nat
  b : Nat
  sa : Nat
  sb : Nat
  err : Nat
  deriving DecidableEq, Repr

/-- A span being formed (R173): the command's number, the group's first leaf, the entry and its format code, the operand format code, the
number of positions, the pairs by K position, operands latched and not yet fired, whether every operand has
entered, poison, and mismatches of its stages in a row. -/
structure Span where
  id : Nat
  seq : Nat
  first : Nat
  entry : Nat
  code : Nat
  fmt : Nat
  npos : Nat
  pairs : Tab Pair
  pending : Nat
  closed : Bool
  poison : Bool
  fails : Nat
  /-- the key of the slice result of an mx.run split in K -/
  slice : Option Nat
  deriving DecidableEq, Repr

/-- Where a co-operating mx.run at the head of the feed queue stands: not yet announced, waiting for the other cores
of its set, met with blocks that agree, or met with blocks that differ (R184, R195). -/
inductive Meet where
  | idle | waiting | met | differed
  deriving DecidableEq, Repr

/-- The commands of major 0x26. -/
inductive ArOp where
  | carve | hold | feed | step | run | drain | zero | chk | coop | mmap | wave
  deriving DecidableEq, Repr

/-- An array command: operands, captured block, carved groups, semaphore, strand, dispatch number, the array's period (its
waves dispatched before) and the core's period. -/
structure ArCmd where
  op : ArOp
  a : Nat
  b : Nat
  blk : Nat
  groups : List Group
  sem : Nat
  strand : Nat
  seq : Nat
  period : Nat
  core : Nat
  deriving DecidableEq, Repr

/-- The progress of the command at the head of the feed queue: row, element tokens of the row taken, whether the row's scale
token has come and its bytes, poison of the row's scales, an error token in the row; element (i, j) of an mx.run;
and the numbers of the row's spans. -/
structure FeedPos where
  row : Nat
  tok : Nat
  scale : Option Nat
  poison : Bool
  error : Bool
  spans : List Nat
  deriving DecidableEq, Repr

/-- The progress of the drain at the head of the drain queue: row, values of it sent, stop owed, first poisoned entry and poisoned entries met. -/
structure DrainPos where
  row : Nat
  sent : Nat
  owed : Option Nat
  first : Option Nat
  met : Nat
  deriving DecidableEq, Repr

/-- The array of a core. Cells are keyed by twice the leaf number, plus 1 for an mx4 leaf's second position. -/
structure Array where
  active : ArrayPlane
  idle : ArrayPlane
  cells : Tab Cell
  spans : List Span
  nextSpan : Nat
  nextSeq : Nat
  cfgq : List ArCmd
  feedq : List ArCmd
  drainq : List ArCmd
  /-- feed commands whose last operand has entered and whose spans are not all accumulated -/
  feeding : List ArCmd
  feedPos : FeedPos
  drainPos : DrainPos
  /-- the drain at the head has sent its last token or stopped -/
  drained : Bool
  /-- array waves dispatched, and passed -/
  period : Nat
  passed : Nat
  /-- co-operating runs announced in a period of the core, where the latest stands, and the slice results that have come to this
  core, keyed by element * ks + ik: the value, none for NONE, and poison -/
  runs : Nat
  /-- the core's period that `runs` counts in (R184) -/
  runPeriod : Nat
  meet : Meet
  slices : Tab (Option Nat × Bool)
  /-- elements combined so far at the accumulating core -/
  combined : Nat
  /-- mismatches in a row of the combine stage's join in progress (R42) -/
  combineFails : Nat
  /-- leaves that the terminator's sweep has passed (R157, R181) -/
  sweep : Nat
  accPoison : NatSet
  /-- Table 7.3: short and coopmis and flags, then the counters -/
  flags : FlagSet
  short : Bool
  coopmis : Bool
  abandoned : Nat
  errrows : Nat
  poisoned : Nat
  checkfail : Nat
  holderr : Nat
  deriving DecidableEq, Repr

/-- The bindings of one period as the commands dispatched so far leave them (R138, R161, R189, R223). -/
structure Shadow where
  nodes : Tab Nat
  maps : Tab (List Nat)
  array : ArrayPlane
  planes : Tab Plane
  deriving DecidableEq, Repr

/-! ### The network interface (R239 to R266) -/

/-- The commands of majors 0x28 to 0x2A. -/
inductive NxOp where
  | put | get | xget | send | route | ring | chan
  | grp | red | bc | flt | ar
  | rel | acq | query
  deriving DecidableEq, Repr

/-- A command of the NX queue: the sp address of its block, the captured block as one number, the channel word of
nx.xget, the captured page list or the frames translated for a ring (control block first), the semaphore, the
issuing strand, its place in the order of dispatch, and the period it was dispatched in. -/
structure NxCmd where
  op : NxOp
  addr : Nat
  blk : Nat
  chans : Nat
  list : List Nat
  sem : Nat
  strand : Nat
  seq : Nat
  period : Nat
  deriving DecidableEq, Repr

/-- What a command in progress does next. -/
inductive NxPhase where
  /-- the next unit of its work -/
  | run
  /-- first (1) or second (2) choice of the assignment in progress, as it was read, is with a device, awaiting the answer; was the first choice's expert invalid -/
  | choice (n dev word : Nat) (bad : Bool)
  /-- the first choice of the assignment in progress was not admitted: its second choice is next -/
  | second (word : Nat) (bad : Bool)
  /-- every byte is performed; the flag store is next -/
  | flag
  /-- waiting for acknowledgements, an answer, a pair, members or admissions -/
  | waiting
  /-- nothing left but to complete -/
  | finished
  deriving DecidableEq, Repr

/-- An NX command in progress: units performed, packets sent and not acknowledged (destination * 4 + class, sequence
number), bytes of the unit in progress that have come (offset, bytes, poison) and offsets asked for, its status so far, the virtual
address of an OWNER failure, its gather state, the hold of LATENCY_BROKEN, the address it is withheld at and since when, the number of a collective among its member's, and
whether its part of the chunk in progress has been given. -/
structure NxJob where
  cmd : NxCmd
  phase : NxPhase
  pos : Nat
  sent : List (Nat × Nat)
  pieces : List (Nat × List Byte × Bool)
  asked : List Nat
  code : Nat
  detail : Nat
  count : Nat
  ownerVa : Option Nat
  gather : Option Active
  broken : Option (Nat × Bool)
  withheld : Option (Nat × Nat)
  turn : Nat
  given : Bool
  deriving DecidableEq, Repr

/-- An elastic endpoint (R253), keyed by its local channel on the producer side, plus 32 on the consumer side: credit left on the
producer side, demand owed to the producer on the consumer side; tokens that crossed and are not yet enqueued on the consumer side. -/
structure Endpoint where
  id : Nat
  dev : Nat
  tile : Nat
  paired : Bool
  credit : Nat
  buffer : List Token
  retiring : Bool
  deriving DecidableEq, Repr

/-- A receive ring (R247): the crew that declared it, as launch and tile; its first byte within the first frame, its frames in
order, its size, its mode, its control block, tail, and the records written to it. -/
structure RecvRing where
  launch : Nat
  tile : Nat
  offset : Nat
  frames : List Nat
  size : Nat
  contiguous : Bool
  ctrl : Nat
  tail : Nat
  seq : Nat
  deriving DecidableEq, Repr

/-- A local member of a group (R258): its local rank, its crew as launch and tile, the collectives it has issued, whether the
monitor has ended its crew. -/
structure CollMember where
  rank : Nat
  launch : Nat
  tile : Nat
  issued : Nat
  ended : Bool
  deriving DecidableEq, Repr

/-- A member's part of a chunk (R257): the member's rank, the number of the collective and of the chunk within it, the chunk's sequence number in the
group, the block's operation, combine code, length and root, and the bytes with their poisoned granules. -/
structure CollPart where
  rank : Nat
  turn : Nat
  chunk : Nat
  seq : Nat
  kind : Nat
  code : Nat
  len : Nat
  root : Nat
  bytes : List Byte
  poison : NatSet
  deriving DecidableEq, Repr

/-- An entry of the group table (R255 to R258): the launch that uses it, its values, its local members, whether it is complete, whether a join
disagrees, whether the other devices have been told, the ranks lost, the generation, the sequence number of the chunk in flight, that of the first chunk
without a lost member, collectives completed, the parts that have come, the parts of the chunk in flight that were all there when a member was lost, whether the
other devices know that every part of the chunk in flight is here, and what each of them has said: its generation and the chunk whose parts it holds. -/
structure CollGroup where
  launch : Nat
  nlocal : Nat
  devs : List Nat
  members : List CollMember
  complete : Bool
  mismatch : Bool
  told : Bool
  lost : NatSet
  generation : Nat
  chunks : Nat
  lostAt : Nat
  turns : Nat
  parts : List CollPart
  kept : List CollPart
  readyTold : Bool
  ready : Tab (Nat × Nat)
  deriving DecidableEq, Repr

/-! ### Saves and launches (spec 12, 13) -/

/-- A save in progress (R348): its reason, whether the markers have been placed, whether the snapshot
has been ended by the fallback, since when, the withheld address of a checkpoint, the place of the crew's engine image in its region (R353), and the channels at
whose heads a marker waits at a join, since when (R350). -/
structure Save where
  reason : Nat
  placed : Bool
  fallback : Bool
  since : Nat
  wva : Nat
  image : Nat
  stuck : Tab Nat
  deriving DecidableEq, Repr

/-- A launch in progress (R322, R328 to R331). -/
structure Launch where
  queue : Nat
  /-- consumption count of its record -/
  count : Nat
  seq : Nat
  prio : Nat
  side : Nat
  tiles : Nat
  gang : Nat
  strands : Nat
  preempt : Nat
  ctx : Nat
  args : Nat
  cpl : Nat
  code : Nat
  part : BitVec 32
  handler : Nat
  savebase : Nat
  savesz : Nat
  dtag : Nat
  ndev : Nat
  /-- which launch of its domain tag it is on this device, counted from 0 (R332) -/
  run : Nat
  /-- csr_mode of its crews -/
  mode : Word
  /-- a crew ran in twilight service -/
  twilight : Bool
  degraded : Bool
  /-- undispatched tiles of each die: from, to -/
  ranges : Tab (Nat × Nat)
  /-- gangs placed so far: the number of the next one -/
  placed : Nat
  /-- since when the next new gang waits, by die -/
  waiting : Tab Nat
  /-- tiles whose crews have retired -/
  retired : Nat
  /-- the cause of the first crew ended -/
  failed : Option Cause
  /-- order of taking -/
  order : Nat
  deriving DecidableEq, Repr

/-- What another device has said of its launch of a domain tag (R332): which launch of the tag, the barrier, and the first generation not arrived at. Barrier
`domainBegan` says that the launch has begun, `domainOver` that every strand of it has halted or retired, so that it has arrived at every generation. -/
structure Heard where
  tag : Nat
  run : Nat
  id : Nat
  gen : Nat
  dev : Nat
  deriving DecidableEq, Repr

/-- Where the CP stands with the request at the head of a queue: not begun, begun and waiting, carried out with a code that its completion has yet to give,
or cut short by a restart of the control plane (Table 14.3). -/
inductive Carried where
  | idle | begun | carried (code : Nat) | cut
  deriving DecidableEq, Repr

/-- A queue the CP knows (R319, R323, R327, R329). -/
structure Queue where
  /-- physical address of the descriptor -/
  desc : Nat
  function : Nat
  /-- a notification the CP has not answered -/
  announced : Bool
  /-- the head found present: its count and since when -/
  head : Option (Nat × Nat)
  /-- priority levels the head has gained by waiting -/
  aged : Nat
  /-- an access for the queue failed and none has succeeded since -/
  failed : Bool
  /-- the request at its head -/
  carried : Carried
  deriving DecidableEq, Repr

/-- A signal record taken and not completed (R326). -/
structure PendingSignal where
  queue : Nat
  /-- the context its cpl is translated under, for an ordinary queue -/
  ctx : Nat
  count : Nat
  seq : Nat
  cpl : Nat
  deriving DecidableEq, Repr

/-- Bytes of another device that the CP has asked for on behalf of a queue (R320, R325, R328): device, address, length, and the answer's code, bytes and
poison mask by granule once it has come. -/
structure CpRead where
  queue : Nat
  dev : Nat
  addr : Nat
  size : Nat
  answer : Option (Nat × List Byte × Nat)
  deriving DecidableEq, Repr

/-- The RAS fields of one record besides kind, core, tile and time (Table 13.6). -/
structure RasFields where
  at08 : Nat
  at0C : Nat
  at18 : Nat
  at19 : Nat
  deriving DecidableEq, Repr

end Sys2Proof.Machine
end

