-- ==== Sys2Proof/Machine/State.lean ====
section
/-!
DEFINITION. The state of the device as plain data, what stops a step, and the state after reset.
-/
namespace Sys2Proof.Machine
open Sys2Proof

/-- What stops the machine with a fault. -/
inductive Fault where
  /-- a host access names an HBM address at or above 2^40, which does not exist (R71, R316); raised by
  HOST_HDM_ACCESS; safe: the spec gives such an access no effect -/
  | noSuchAddress (address : Nat)
  deriving DecidableEq, Repr

/-- Why a step is refused. -/
inductive Refusal where
  /-- no meaning yet for the instruction; raised by its arm of exec; safe -/
  | notModelled (mnemonic : String)
  deriving DecidableEq, Repr

/-! ### Agents and turns (DESIGN CHOICE, log 1) -/

/-- A record inside the CP, which carries a CRC-32C (R323): what it notes of a queue's head, a launch in progress, by its number in the CP, and a signal
taken and not completed, by its queue and count. -/
inductive CpRecord where
  | head (queue : Nat)
  | launch (number : Nat)
  | signal (queue count : Nat)
  deriving DecidableEq, Repr

/-- Who takes a step. -/
inductive Agent where
  /-- the sequencer of a core picks a strand and issues its next instruction (R273) -/
  | sequencer (core : Nat)
  /-- the element's lowest ready slot fires (R207) -/
  | element (core element : Nat)
  /-- the head of an engine queue: 0 SM, 1 array configuration, 2 array feed, 3 array drain, 4 VE, 5 NX -/
  | queue (core queue : Nat)
  | event (i : Instr)
  /-- the environment: an error in a row of an SRAM bank of a core was corrected (R363) -/
  | bankError (core bank row : Nat)
  /-- the environment: a 32-byte granule of device HBM, or of the pool of a core, meets an uncorrectable error (R86) -/
  | memoryError (core : Option Nat) (granule : Nat)
  /-- the environment: a word leaves a cluster's instruction cache (R47) -/
  | codeEvict (cluster word : Nat)
  /-- the environment: a record inside the CP fails its CRC-32C (R323, R337) -/
  | cpError (record : CpRecord)
  /-- firmware writes bytes that have waited for their stack (R13) -/
  | firmware
  /-- firmware sets the governor's threshold (R363) -/
  | threshold (n : Nat)
  /-- the control plane writes a route of the ephemeris (R270) -/
  | route (device index word : Nat)
  deriving DecidableEq, Repr

/-- One turn of the schedule: who steps, how much time passes with it (units of 1/13 ns), and a number the
environment gives: a physical error added to a product formed, or mismatching executions. -/
structure Turn where
  who : Agent
  dt : Nat
  err : Nat
  deriving DecidableEq, Repr

/-- Whose state an instruction acts on: core and strand for sequencer instructions; core, element
and slot for triggered ones; and the turn's err. -/
structure Cursor where
  core : Nat
  strand : Nat
  element : Nat
  slot : Nat
  err : Nat
  deriving DecidableEq, Repr

/-! ### Memory system -/

/-- A translation cache entry (R81): the context or none for global, level of the leaf, virtual page, leaf word. -/
structure TlbEntry where
  ctx : Option Nat
  level : Nat
  vpage : Nat
  leaf : Nat
  deriving DecidableEq, Repr

/-- A cluster's cache slice, instruction cache, translation cache, and the launch its code belongs to (R47, R81). -/
structure Cluster where
  tlb : List TlbEntry
  icache : Tab Half
  launch : Option Nat
  /-- the ways of each set of the cluster's slice, the next to be replaced last; a line that the directory no longer has there does not count (R84) -/
  ways : Tab (List Nat)
  deriving DecidableEq, Repr

/-- A line's place in the directory (R85): the clusters that share it, the one that owns it, whether it
is dirty there. Values are always coherent and stand in memory; this says who holds the line. DEDUCED, log 7. -/
structure DirLine where
  sharers : NatSet
  owner : Option Nat
  dirty : Bool
  deriving DecidableEq, Repr

/-- A registered window (R121): the owning core, its entry, first scratchpad byte, first global address,
the bound frames in order (physical addresses), whether others may write. -/
structure Window where
  core : Nat
  entry : Nat
  spoff : Nat
  gva : Nat
  frames : List Nat
  rwrite : Bool
  /-- lines of the region not yet written back (R123) -/
  dirty : NatSet
  deriving DecidableEq, Repr

/-- A handover record (R260), keyed in the state by page frame number PA[51:16]. States: 0 owned, 1 in transit,
2 present. -/
structure Handover where
  owner : Nat
  layer : Nat
  count : Nat
  state : Nat
  /-- lines pushed so far while in transit (R263) -/
  pushed : Nat
  deriving DecidableEq, Repr

/-! ### Fabric (R267 to R270) -/

/-- A Nueth packet: the header fields, of which `aux` are the 20 bytes of operation fields as one number, and the payload (Table 9.8); its length is that of the
payload, and its CRC follows from the rest. `issuer` tells the crew that caused it, for csr_replay. -/
structure Packet where
  dst : Nat
  src : Nat
  cls : Nat
  op : Nat
  seq : Nat
  addr : Nat
  poison : Nat
  aux : Nat
  payload : List Byte
  issuer : Nat
  /-- the number of the last packet accepted of the reverse flow of the class -/
  ack : Nat
  /-- the tag of the route it travels on -/
  route : Nat
  deriving DecidableEq, Repr

/-- The source's side of a flow: the next sequence number, the unacknowledged packets, oldest first (R268), and the numbers of those of them that have been
answered (R269). -/
structure FlowOut where
  next : Nat
  unacked : List Packet
  answered : List Nat
  deriving DecidableEq, Repr

/-- The device's fabric state: ephemeris routes keyed 4 * device + i; outgoing flows and expected numbers of
incoming flows keyed 4 * device + class; the atomic-class response caches by source device, newest
first (R268 to R270). -/
structure Fabric where
  routes : Tab Nat
  out : Tab FlowOut
  expect : Tab Nat
  cache : Tab (List (Nat × Nat))
  /-- what was sent back, newest first: destination and acknowledged number, or an answer -/
  sent : List Packet
  deriving DecidableEq, Repr

/-! ### Management, start-up, host attachment (spec 14) -/

/-- Per-core record of spare leaves, transit tests and service (R185, R186, R359 to R363). -/
structure CoreHealth where
  /-- units that failed their latest transit test, as 4096 * kind + index (Table 13.7), and those of them whose die has been reset since: one of kind 2 to 5 puts
  the core out of service (R362) -/
  failing : NatSet
  cleared : NatSet
  /-- logical leaf to spare index -/
  spared : Tab Nat
  /-- leaves pending a spare move, and leaves exhausted (Table 13.5) -/
  pending : NatSet
  exhausted : NatSet
  /-- times of a leaf's check failures within the sliding 1 ms -/
  fails : Tab (List Nat)
  /-- corrected errors of each unit within the sliding 10 minutes, by 4096 * kind + index (Table 13.7), as time and the row of a bank; and the units
  that are predictive-failing (R363) -/
  counts : Tab (List (Nat × Nat))
  predicted : NatSet
  /-- units of the core that have passed since reset, while not all of them have (R364, Table 14.4) -/
  passed : NatSet
  /-- the undervolt offset has been withdrawn until reset (R363) -/
  barred : Bool
  /-- when a crew last left the core, and the end of a transit granule in progress -/
  freed : Nat
  testing : Option Nat
  /-- failing rows that wait for a spare row, and rows served by one, as 1024 * bank + row (R363) -/
  rows : NatSet
  rowsSpared : NatSet
  deriving DecidableEq, Repr

/-- The management plane and the host side (R360, R371 to R380). -/
structure Sys where
  /-- 0 boot, 1 twilight, 2 full, 3 failed (Table 14.4) -/
  service : Nat
  /-- trained stacks, compute dies in service, trained memory-die boundaries, Nueth ports, host links 0 and 2 up -/
  trained : NatSet
  dies : NatSet
  memDies : NatSet
  /-- trained boundaries of compute dies, and cores with units that have yet to pass after a reset of their die (R13, R364) -/
  bounds : NatSet
  untested : NatSet
  /-- cores whose every unit has passed its transit test since reset (Table 14.4) -/
  tested : NatSet
  ports : NatSet
  links : NatSet
  /-- verified firmware images: 0 CP, 1 monitor, 2 MC, 3 transit patterns -/
  firmware : NatSet
  aqdesc : Nat
  aqen : Nat
  raslog : Nat
  raslost : Nat
  /-- RAS records written, and read by the host -/
  rasWritten : Nat
  rasRead : Nat
  devid : Nat
  lock : Bool
  /-- units of 1/13 ns per cc: 20 in twilight, 10 in full service, more when the governor lowers the clock -/
  cc : Nat
  /-- measurement log: images and results, newest first -/
  measures : List Nat
  /-- TDISP state of functions 0 to 4: 0 unlocked, 1 locked, 2 run, 3 error; functions with IDE keys -/
  tdisp : Tab Nat
  ide : NatSet
  /-- answers of the SPDM responder, newest first -/
  answers : List Nat
  /-- completions of host accesses, newest first -/
  hostReads : List (List Byte)
  health : Tab CoreHealth
  /-- governor threshold (R363) -/
  threshold : Nat
  /-- the firmware region that holds the engine images, its physical address and its bytes (R353) -/
  imageBase : Nat
  imageRoom : Nat
  /-- bytes that firmware has yet to write, in a stack that is not up: address and bytes, oldest first (R13) -/
  held : List (Nat × List Byte)
  deriving DecidableEq, Repr

/-! ### Crews and cores -/

/-- What a crew has from its launch (R68, R328, R330). -/
structure CrewInfo where
  launch : Nat
  tile : Nat
  gang : Nat
  /-- place in the gang -/
  place : Nat
  nstr : Nat
  args : Word
  ctx : Nat
  /-- partition word (Table 5.1, [31:0]) -/
  part : BitVec 32
  /-- csr_mode (Table 10.5) -/
  mode : Word
  handler : Word
  /-- x4 of R68: the save area's address -/
  saveBase : Word
  saveSize : Nat
  side : Nat
  seq : Nat
  deriving DecidableEq, Repr

/-- The updates of a semaphore within a cc (R277): which cc, how much was added and how much wait.dec took, and whether its bit of csr_semsat was
first set in it. DEDUCED, log 44. -/
structure SemMove where
  cc : Nat
  added : Nat
  taken : Nat
  raised : Bool
  deriving DecidableEq, Repr

/-- A crew with everything that is saved with it. -/
structure Crew where
  info : CrewInfo
  strands : Tab Strand
  /-- round-robin: the strand that last issued at each prio (R273) -/
  lastIssued : Tab Nat
  /-- the strand that has just yielded (R365) -/
  yielded : Option Nat
  /-- f0 to f62 (R277) -/
  sems : Tab (BitVec 16)
  /-- what the latest cc has added to and taken from a semaphore (R277) -/
  semMoves : Tab SemMove
  semsat : Word
  errtok : Word
  pftime : Word
  snaptime : Word
  /-- [63:32] of csr_spill -/
  spilled : BitVec 32
  ras : Word
  replay : Word
  /-- csr_cycle in twentieths of a cc (DESIGN CHOICE, log 2), and what of a twentieth has passed, in twentieths of 1/13 ns -/
  cycle : Nat
  cyclePart : Nat
  /-- the length of the cc that `cyclePart` was counted at -/
  cycleAt : Nat
  /-- the cc in which the sequencer last issued (R273) -/
  issuedCc : Option Nat
  /-- when a strand last issued or an engine last moved a token or completed a command (R346), and `cycle` then -/
  progress : Nat
  progressCycle : Nat
  pool : Memory
  poolPoison : NatSet
  /-- the 4 KiB units of the pool written since launch, and whether a trap frame has been (R354) -/
  units : NatSet
  framed : Bool
  /-- mapping entries: word w of the control range at sp 0x40_0000 + 8 w -/
  entries : Tab Word
  /-- multicast maps -/
  maps : Tab Word
  chans : Tab Chan
  graph : Graph
  /-- the bindings of the current period and of the next, at dispatch -/
  now : Shadow
  coming : Shadow
  streams : Streams
  array : Array
  elems : Tab Element
  veq : List VeEntry
  nxq : List NxCmd
  /-- NX commands dispatched so far -/
  nxSeq : Nat
  /-- NX commands in progress, keyed 0 to 15 -/
  nx : Tab NxJob
  endpoints : Tab Endpoint
  puu : List Update
  /-- the monitor has decided to end the crew, with a cause (R345) -/
  ending : Option Cause
  saving : Option Save
  /-- withheld accesses recorded for a crew without a save area (R349): address, and since when -/
  reported : List (Nat × Nat)
  deriving DecidableEq, Repr

/-- A core (R9). -/
structure Core where
  held : Bool
  crew : Crew
  /-- csr_tvec (R340) -/
  tvec : Word
  deriving DecidableEq, Repr

/-- A suspended gang (R331, R348): its crews with everything saved and the cores they ran on, the die and cluster, the save reason,
since when, the withheld address of a checkpoint and whether its page is still awaited, how many gangs its launch had placed at
a swap-out, whether its cluster owned a handover record (R263), and the places of its crews' engine images (R353). -/
structure Gang where
  launch : Nat
  gang : Nat
  die : Nat
  cluster : Nat
  crews : List Crew
  cores : List Nat
  reason : Nat
  since : Nat
  wva : Nat
  awaited : Bool
  placedThen : Nat
  pinned : Bool
  images : List Nat
  deriving DecidableEq, Repr

/-- The command processor and the die dispatchers (spec 12). -/
structure Cp where
  queues : Tab Queue
  launches : Tab Launch
  /-- suspended gangs by age -/
  gangs : Tab Gang
  signals : List PendingSignal
  nextLaunch : Nat
  nextGang : Nat
  /-- the queue served last at each priority level -/
  served : Tab Nat
  /-- when a die last sent a steal request for a launch: keyed 4 * launch + die -/
  asked : Tab Nat
  /-- steal requests on their way: launch, victim, thief -/
  requests : List (Nat × Nat × Nat)
  barriers : List Barrier
  /-- domain arrivals heard from other devices, and the launches of each domain tag taken here (R332) -/
  domain : List Heard
  domainRuns : Tab Nat
  /-- reads of other devices' memory in progress -/
  remote : List CpRead
  /-- status words sent to other devices whose signals follow once they are acknowledged (R324): queue, cpl, status word, flow and number of the packet -/
  posted : List (Nat × Nat × Nat × Nat × Nat)
  deriving DecidableEq, Repr

/-- The device. -/
structure State where
  /-- time since reset in units of 1/13 ns -/
  time : Nat
  /-- steps taken: the free values are functions of it (DESIGN CHOICE, log 4); the model's own -/
  moment : Nat
  /-- whose turns come next; the model's own (DESIGN CHOICE, log 1) -/
  sched : List Turn
  cur : Cursor
  /-- device HBM, by physical address (R71) -/
  hbm : Memory
  /-- poisoned 32-byte granules of device HBM (R86) -/
  hbmPoison : NatSet
  /-- host memory behind the CXL host window -/
  host : Memory
  hostPoison : NatSet
  lines : Tab DirLine
  clusters : Tab Cluster
  /-- context roots and domain tags (R73) -/
  roots : Tab Nat
  tags : Tab Nat
  windows : List Window
  handovers : Tab Handover
  /-- the ring table of the hub (R247) and the group table (R255) -/
  rings : Tab RecvRing
  groups : Tab CollGroup
  /-- other devices' group entries reported complete: group, device, nlocal, device list -/
  reports : List (Nat × Nat × Nat × List Nat)
  fabric : Fabric
  cores : Tab Core
  /-- the requests of each stack's indirect-stream engine, as core and slot, in arrival order (R87) -/
  ise : Tab (List (Nat × Nat))
  /-- the pending updates of each stack's sparse-update unit, and the lines it owns with the time it took them (R88) -/
  suu : Tab (List Update)
  suuLines : Tab (List (Nat × Nat))
  sys : Sys
  cp : Cp
  deriving DecidableEq, Repr

/-! ### Defaults: what a table's unlisted key holds -/

def emptyLevel : TrapLevel := ⟨0, 0, 0, 0, 0, 0, 0, 0⟩

/-- A strand at the moment its crew starts, not yet placed (Table 10.5: ie 1). -/
def emptyStrand : Strand where
  x := []
  p := 0
  pc := 0
  loops := []
  buffer := []
  status := 1
  traps := []
  popped := emptyLevel
  pending := []
  present := false
  halted := false
  haltedAt := 0
  inHandler := false
  hold := .none
  arrivals := []
  readySince := none

def emptyChan : Chan := ⟨[], [], none, 0, none, [], false⟩
def emptyGraphPlane : GraphPlane := ⟨[], [], []⟩
def emptyNode : NodeState := ⟨.idle, [], 0, none⟩
def emptyGraph : Graph := ⟨emptyGraphPlane, emptyGraphPlane, [], [], [], 0, 0, 0, [], []⟩
def emptyStreams : Streams := ⟨[], [], [], [], []⟩
def emptyArrayPlane : ArrayPlane := ⟨[], 0, 0, 0⟩
def emptyFeedPos : FeedPos := ⟨0, 0, none, false, false, []⟩
def emptyDrainPos : DrainPos := ⟨0, 0, none, none, 0⟩

/-- The array at crew start (R168, R176). -/
def emptyArray : Array where
  active := emptyArrayPlane
  idle := emptyArrayPlane
  cells := []
  spans := []
  nextSpan := 0
  nextSeq := 0
  cfgq := []
  feedq := []
  drainq := []
  feeding := []
  feedPos := emptyFeedPos
  drainPos := emptyDrainPos
  drained := false
  period := 0
  passed := 0
  runs := 0
  runPeriod := 0
  meet := .idle
  slices := []
  combined := 0
  combineFails := 0
  sweep := 0
  accPoison := []
  flags := 0
  short := false
  coopmis := false
  abandoned := 0
  errrows := 0
  poisoned := 0
  checkfail := 0
  holderr := 0

def emptyShadow : Shadow := ⟨[], [], emptyArrayPlane, []⟩
def emptyLane : Lane := ⟨0, 0, false⟩
def emptyPlane : Plane := ⟨0, 0, [], [], 0⟩

def emptyElement : Element where
  active := emptyPlane
  idle := emptyPlane
  regs := []
  preds := []
  ctl := 0
  flags := 0
  seed := 0
  draws := []
  state := 0
  swapSem := 63

def emptyInfo : CrewInfo := ⟨0, 0, 0, 0, 0, 0, 0, 0, 0, 0, 0, 0, 0, 0⟩

/-- A crew's state before its first strand starts (R68, R116, R135, R153, R200, R277; Table 10.5 resets). -/
def emptyCrew : Crew where
  info := emptyInfo
  strands := []
  lastIssued := []
  yielded := none
  sems := []
  semMoves := []
  semsat := 0
  errtok := 0
  pftime := 50
  snaptime := 20
  spilled := 0
  ras := 0
  replay := 0
  cycle := 0
  cyclePart := 0
  cycleAt := 20
  issuedCc := none
  progress := 0
  progressCycle := 0
  pool := []
  units := []
  framed := false
  poolPoison := []
  entries := []
  maps := []
  chans := []
  graph := emptyGraph
  now := emptyShadow
  coming := emptyShadow
  streams := emptyStreams
  array := emptyArray
  elems := []
  veq := []
  nxq := []
  nxSeq := 0
  nx := []
  endpoints := []
  puu := []
  ending := none
  saving := none
  reported := []

def emptyCore : Core := ⟨false, emptyCrew, 0⟩
def emptyCluster : Cluster := ⟨[], [], none, []⟩
def emptyLine : DirLine := ⟨[], none, false⟩

def emptyFlow : FlowOut := ⟨0, [], []⟩
def emptyFabric : Fabric := ⟨[], [], [], [], []⟩

def emptyHealth : CoreHealth := ⟨[], [], [], [], [], [], [], [], [], false, 0, none, [], []⟩

/-- The management plane after reset (R371, R373, R375, R376, R378). raslog: DESIGN CHOICE (log 8). DESIGN CHOICE, log 43. DESIGN CHOICE, log 93. -/
def emptySys : Sys where
  service := 0
  trained := []
  dies := []
  memDies := []
  bounds := []
  untested := []
  tested := []
  ports := []
  links := []
  firmware := []
  aqdesc := 0
  aqen := 0
  raslog := 0xFFFFFF0000
  raslost := 0
  rasWritten := 0
  rasRead := 0
  devid := 0
  lock := false
  cc := 20
  measures := []
  tdisp := []
  ide := []
  answers := []
  hostReads := []
  health := []
  threshold := 3
  imageBase := 0xFFC0000000
  imageRoom := 587202560
  held := []

/-- The control plane after reset: the monitor's admin queue 1,022 exists (R327); where its descriptor lies in the
firmware region is not given (DESIGN CHOICE, log 8). -/
def emptyCp : Cp where
  queues := [(1022, ⟨0xFFFFFE0000, 0, false, none, 0, false, .idle⟩)]
  launches := []
  gangs := []
  signals := []
  nextLaunch := 0
  nextGang := 0
  served := []
  asked := []
  requests := []
  barriers := []
  domain := []
  domainRuns := []
  remote := []
  posted := []

/-- The device right after reset. DESIGN CHOICE, log 5. DESIGN CHOICE, log 6. -/
def State.reset : State where
  time := 0
  moment := 0
  sched := []
  cur := ⟨0, 0, 0, 0, 0⟩
  hbm := []
  hbmPoison := []
  host := []
  hostPoison := []
  lines := []
  clusters := []
  roots := []
  tags := []
  windows := []
  handovers := []
  rings := []
  groups := []
  reports := []
  fabric := emptyFabric
  cores := []
  ise := []
  suu := []
  suuLines := []
  sys := emptySys
  cp := emptyCp

end Sys2Proof.Machine
end

