-- ==== Sys2Proof/Machine/Ops.lean ====
section
/-!
DEFINITION. The named operations over the state: finding and replacing a core, crew and strand,
registers and predicates, completing an instruction, taking a trap and returning from one,
semaphores, free values.
-/
namespace Sys2Proof.Machine
open Sys2Proof

/-! ### Cores, crews, strands -/

/-- A core of the device. -/
def State.core (s : State) (c : Nat) : Core := tget s.cores c emptyCore
/-- The device with a core replaced. -/
def State.setCore (s : State) (c : Nat) (k : Core) : State := { s with cores := tset s.cores c k }
/-- The crew on a core. -/
def State.crew (s : State) (c : Nat) : Crew := (s.core c).crew
/-- The device with the crew of a core replaced. -/
def State.setCrew (s : State) (c : Nat) (w : Crew) : State := s.setCore c { s.core c with crew := w }
/-- The device with the crew of a core changed. -/
def State.modCrew (s : State) (c : Nat) (f : Crew → Crew) : State := s.setCrew c (f (s.crew c))
/-- A strand of a crew. -/
def Crew.strand (w : Crew) (k : Nat) : Strand := tget w.strands k emptyStrand
/-- The crew with a strand replaced. -/
def Crew.setStrand (w : Crew) (k : Nat) (t : Strand) : Crew := { w with strands := tset w.strands k t }
/-- A strand of the crew on a core. -/
def State.strandAt (s : State) (c k : Nat) : Strand := (s.crew c).strand k
/-- The device with a strand replaced. -/
def State.setStrandAt (s : State) (c k : Nat) (t : Strand) : State := s.setCrew c ((s.crew c).setStrand k t)
/-- The strand whose turn it is. -/
def State.me (s : State) : Strand := s.strandAt s.cur.core s.cur.strand
/-- The device with the strand whose turn it is replaced. -/
def State.setMe (s : State) (t : Strand) : State := s.setStrandAt s.cur.core s.cur.strand t
/-- The crew whose turn it is. -/
def State.mine (s : State) : Crew := s.crew s.cur.core
/-- The device with the crew whose turn it is replaced. -/
def State.setMine (s : State) (w : Crew) : State := s.setCrew s.cur.core w
/-- A number that tells a crew from the others of the device, for the answers to its requests. -/
def CrewInfo.tag (i : CrewInfo) : Nat := i.launch * 2 ^ 32 + i.tile
/-- The cluster of a core (R9). -/
def clusterOf (c : Nat) : Nat := c / 8
/-- The side of a core: 1 prompt, 2 token (R9). -/
def sideOf (c : Nat) : Nat := if c < 192 then 1 else 2
/-- The compute die of a core: 0 PD0, 1 PD1, 2 TD0, 3 TD1 (R9). -/
def dieOf (c : Nat) : Nat := if c < 96 then 0 else if c < 192 then 1 else if c < 320 then 2 else 3

/-! ### Registers and predicates (R49) -/

/-- A scalar register; x0 reads as zero. -/
def Strand.getX (t : Strand) (r : Reg) : Word := if r = 0 then 0 else tget t.x r.toNat 0
/-- A scalar register written; a write to x0 is discarded. -/
def Strand.setX (t : Strand) (r : Reg) (v : Word) : Strand := if r = 0 then t else { t with x := tset t.x r.toNat v }
/-- A predicate; p0 reads as true. -/
def Strand.getP (t : Strand) (q : Pred) : Bool := q == 0 || t.p.getLsbD q.toNat
/-- A predicate written; a write to p0 is discarded. -/
def Strand.setP (t : Strand) (q : Pred) (v : Bool) : Strand :=
  if q = 0 then t else { t with p := BitVec.ofNat 8 (setBit t.p.toNat q.toNat v) }

/-! ### csr_status (Table 10.5) -/

/-- Is the strand in monitor mode? -/
def Strand.monitor (t : Strand) : Bool := t.status.getLsbD 1
/-- Are asynchronous traps delivered? -/
def Strand.ie (t : Strand) : Bool := t.status.getLsbD 0
/-- The strand's priority, 0 highest. -/
def Strand.prio (t : Strand) : Nat := field t.status.toNat 5 4
/-- csr_status with prio kept and mode and ie as given. -/
def statusWith (old : Word) (mode ie : Bool) : Word :=
  BitVec.ofNat 64 (field old.toNat 5 4 * 16 + b2n mode * 2 + b2n ie)

/-! ### Completing an instruction (R50, R290) -/

/-- The loop end step: the address of the last word of the instruction that completed, the address of the next
word, and the loop stack; the next pc and loop stack. -/
def endLoops (last next : Word) : List LoopLevel → Word × List LoopLevel
  | [] => (next, [])
  | l :: ls =>
    if l.stop = last then
      if l.remaining - 1 = 0 then endLoops last next ls
      else (l.start, { l with remaining := l.remaining - 1 } :: ls)
    else (next, l :: ls)

/-- The strand past an instruction of len bytes, with the loop end step. -/
def Strand.complete (t : Strand) (len : Nat) : Strand :=
  let e := endLoops (t.pc + BitVec.ofNat 64 len - 4) (t.pc + BitVec.ofNat 64 len) t.loops
  { t with pc := e.1, loops := e.2, hold := .none }

/-- The device with the current strand past an instruction of len bytes. -/
def State.complete (s : State) (len : Nat) : State := s.setMe (s.me.complete len)

/-- An instruction of one word whose effect on the strand is `f`, under guard g (R50). -/
def State.strandOp (s : State) (g : Pred) (f : Strand → Strand) : State :=
  if s.me.getP g then s.setMe ((f s.me).complete 4) else s.complete 4

/-- A long form whose effect on the strand is `f`, under guard g. -/
def State.strandOpL (s : State) (g : Pred) (f : Strand → Strand) : State :=
  if s.me.getP g then s.setMe ((f s.me).complete 8) else s.complete 8

/-! ### Traps (R341, R367) -/

def causeNone : Cause := 0x00
def causeIllegalOp : Cause := 0x01
def causeIllegalName : Cause := 0x02
def causeMisaligned : Cause := 0x03
def causePageNotPresent : Cause := 0x04
def causePermission : Cause := 0x05
def causeLatencyBroken : Cause := 0x06
def causeAtomicPath : Cause := 0x07
def causeBounds : Cause := 0x08
def causePoisonConsumed : Cause := 0x09
def causeOwner : Cause := 0x0A
def causeSoftwareTrap : Cause := 0x0B
def causeBreak : Cause := 0x0C
def causeWatchdog : Cause := 0x0D
def causeConfig : Cause := 0x0E
def causeChannel : Cause := 0x0F
def causeFabricUnreachable : Cause := 0x10
def causePreempted : Cause := 0x12

/-- A new level on top of the trap stack, and the monitor entered (R341). -/
def Strand.pushTrap (t : Strand) (entry : Word) (cause : Cause) (tval epc : Word) : Strand :=
  { t with
    traps := ⟨epc, cause.setWidth 64, tval, t.status, t.getX 5, t.getX 6, t.getX 7, t.getX 8⟩ :: t.traps
    status := statusWith t.status true false
    pc := entry
    hold := .none
    readySince := none }

/-- Where a strand of a core enters the monitor: csr_tvec, at a multiple of 4 (R45, R340). -/
def State.monitorEntry (s : State) (c : Nat) : Word := (s.core c).tvec &&& ~~~3

/-- TakeTrap of R341 on a strand of a core: with both levels in use the crew ends with the cause. -/
def State.takeTrapAt (s : State) (c k : Nat) (cause : Cause) (tval epc : Word) : State :=
  let t := s.strandAt c k
  if t.traps.length = 2 then
    s.modCrew c (fun w => { w with ending := match w.ending with | some e => some e | none => some cause })
  else s.setStrandAt c k (t.pushTrap (s.monitorEntry c) cause tval epc)

/-- A synchronous trap of the current strand: the epc is the instruction's own address (R55). -/
def State.takeTrap (s : State) (cause : Cause) (tval : Word) : State :=
  s.takeTrapAt s.cur.core s.cur.strand cause tval s.me.pc

/-- eret: the top level popped and restored (R367); with the stack empty, nothing is popped. -/
def Strand.popTrap (t : Strand) : Strand :=
  match t.traps with
  | [] => t
  | l :: ls =>
    let t1 := (((t.setX 5 l.save0).setX 6 l.save1).setX 7 l.save2).setX 8 l.save3
    { t1 with
      traps := ls
      popped := l
      status := statusWith t.status (l.status.getLsbD 1) (l.status.getLsbD 0)
      pc := BitVec.ofNat 64 (l.epc.toNat / 4 * 4)
      hold := .none
      readySince := none }

/-- The level the trap-stack CSRs read: the top one, or with the stack empty the one popped last (R341). -/
def Strand.topLevel (t : Strand) : TrapLevel :=
  match t.traps with
  | [] => t.popped
  | l :: _ => l

/-- The strand with the top level changed; with the stack empty the write is discarded (R341). -/
def Strand.setTop (t : Strand) (f : TrapLevel → TrapLevel) : Strand :=
  match t.traps with
  | [] => t
  | l :: ls => { t with traps := f l :: ls }

/-- The strand an asynchronous trap of a strand goes to: itself, or where it has halted the lowest-indexed strand
that has not (R342). -/
def Crew.trapTarget (w : Crew) (k : Nat) : Option Nat :=
  if (w.strand k).present && !(w.strand k).halted then some k
  else (List.range 4).find? (fun j => (w.strand j).present && !(w.strand j).halted)

/-- An asynchronous trap held pending at its target, one per cause with the first tval (R341); with every strand
halted the crew is ended with the cause (R342). -/
def Crew.postTrap (w : Crew) (k : Nat) (cause : Cause) (tval : Word) : Crew :=
  match w.trapTarget k with
  | none => { w with ending := match w.ending with | some e => some e | none => some cause }
  | some j =>
    let t := w.strand j
    match tfind t.pending cause.toNat with
    | some _ => w
    | none => w.setStrand j { t with pending := tset t.pending cause.toNat tval }

/-- Has issue stopped for a save of the crew (R348 step 1)? -/
def Crew.stopped (w : Crew) : Bool := match w.saving with | some v => v.placed | none => false

/-- Does a hold leave its strand to issue: there is none, or its access may go on? -/
def Hold.lets : Hold → Bool
  | .none => true
  | .freed _ _ => true
  | _ => false

/-- Is a strand held in waita, bar.dv or bar.dm (R346)? -/
def Hold.waitsOnMemory : Hold → Bool
  | .watch _ _ _ => true
  | .response p => p.watch.isSome
  | .barrier l _ _ _ => decide (3 ≤ l)
  | _ => false

/-- Is some strand of a crew held in waita, bar.dv or bar.dm? -/
def Crew.excused (w : Crew) : Bool := w.strands.any (fun k => k.2.present && !k.2.halted && k.2.hold.waitsOnMemory)

/-! ### Semaphores (R277, R293) -/

/-- Semaphore fi of a crew. -/
def Crew.sem (w : Crew) (i : Nat) : Nat := (tget w.sems i 0).toNat

/-- What the present cc of a crew has done to semaphore fi (R277). -/
def Crew.semMove (w : Crew) (i : Nat) : SemMove :=
  match tfind w.semMoves i with
  | some m => if m.cc = w.cycle / 20 then m else ⟨w.cycle / 20, 0, 0, false⟩
  | none => ⟨w.cycle / 20, 0, 0, false⟩

/-- Bit i of csr_semsat. -/
def satBit (i : Nat) : Word := BitVec.ofNat 64 (2 ^ i)

/-- v added to semaphore fi, saturating, with csr_semsat; f63 is null. Of the updates of one cc the additions come before what wait.dec takes. -/
def Crew.addSem (w : Crew) (i v : Nat) : Crew :=
  let m := w.semMove i
  let past := decide (65535 < w.sem i + m.taken + v)
  if i = 63 then w
  else { w with
    sems := tset w.sems i (BitVec.ofNat 16 (if past then 65535 - m.taken else w.sem i + v))
    semMoves := tset w.semMoves i { m with added := m.added + v, raised := m.raised || (past && !(w.semsat.getLsbD i)) }
    semsat := if past then w.semsat ||| satBit i else w.semsat }

/-- Semaphore fi set to v; f63 is null. Of the updates of one cc this comes first, so what the cc has added is added to v. -/
def Crew.putSem (w : Crew) (i v : Nat) : Crew :=
  let m := w.semMove i
  let past := decide (65535 < v + m.added)
  if i = 63 then w
  else { w with
    sems := tset w.sems i (BitVec.ofNat 16 (if past then 65535 else v + m.added))
    semMoves := tset w.semMoves i { m with taken := 0, raised := past && (m.raised || !(w.semsat.getLsbD i)) }
    semsat := if past then w.semsat ||| satBit i else if m.raised then w.semsat &&& ~~~(satBit i) else w.semsat }

/-- n taken from semaphore fi by a wait.dec. -/
def Crew.takeSem (w : Crew) (i n : Nat) : Crew :=
  let m := w.semMove i
  { w with
    sems := tset w.sems i (BitVec.ofNat 16 (w.sem i - n))
    semMoves := tset w.semMoves i { m with taken := m.taken + n } }

/-- An engine command naming fi completes (Table 10.3). -/
def Crew.signal (w : Crew) (i : Nat) : Crew := w.addSem i 1

/-- One error token counted in csr_errtok, with its code (Table 10.5). -/
def Crew.countError (w : Crew) (code : Nat) : Crew :=
  let n := field w.errtok.toNat 31 0
  { w with errtok := BitVec.ofNat 64 ((code % 256) * 2 ^ 32 + (if n = 2 ^ 32 - 1 then n else n + 1)) }

/-! ### Fault and RAS records (R360, R379) -/

/-- csr_ns: nanoseconds since device reset (R281). -/
def State.ns (s : State) : Nat := s.time / 13

/-- The 32 bytes of a record (Tables 9.1, 13.6). -/
def rasBytes (kind core tile ns : Nat) (f : RasFields) : List Byte :=
  let b := bytesOf 2 kind ++ bytesOf 2 core ++ bytesOf 4 tile ++ bytesOf 4 f.at08 ++ bytesOf 4 f.at0C
    ++ bytesOf 8 ns ++ bytesOf 1 f.at18 ++ bytesOf 1 f.at19 ++ bytesOf 2 0
  b ++ bytesOf 4 (crc32c b)

/-- The first granule of [a, a + n) and how many. -/
def granules (a n : Nat) : List Nat := (List.range ((a + n + 31) / 32 - a / 32)).map (fun i => a / 32 + i)

/-- Poison marks after n bytes at a are written: a whole granule of clean data clears its mark, poisoned data sets
the mark of every granule touched (R86). -/
def markPoison (t : NatSet) (a n : Nat) (poison : Bool) : NatSet :=
  (granules a n).foldl
    (fun t g => if poison then sadd t g else if decide (a ≤ 32 * g) && decide (32 * g + 32 ≤ a + n) then sdel t g else t) t

/-- The HBM stack of a physical address (R10). -/
def stackOf (pa : Nat) : Nat := field pa 15 12

/-- Is a stack trained, behind a boundary that is (R13, R376)? DEDUCED, log 63. -/
def Sys.stackUp (y : Sys) (stack : Nat) : Bool := smem y.trained stack && smem y.memDies (stack / 4)

/-- Bytes of firmware at an HBM address within one stack's 4 KiB: written, or kept while the stack is not up (R13). DESIGN CHOICE, log 106. -/
def State.putFirmware (s : State) (a : Nat) (bs : List Byte) : State :=
  if s.sys.stackUp (stackOf a) then { s with hbm := msetN s.hbm a bs, hbmPoison := markPoison s.hbmPoison a bs.length false }
  else { s with sys := { s.sys with held := s.sys.held ++ [(a, bs)] } }

/-- The oldest bytes kept for a stack that is up now written. -/
def State.flushFirmware (s : State) : State :=
  match s.sys.held.find? (fun x => s.sys.stackUp (stackOf x.1)) with
  | some x => ({ s with sys := { s.sys with held := s.sys.held.erase x } } : State).putFirmware x.1 x.2
  | none => s

/-- A record added to the RAS log, a ring of 2,048 in device HBM (R379). Core 0xFFFF stands for none. -/
def State.rasLog (s : State) (kind core tile : Nat) (f : RasFields) : State :=
  let full := decide (2048 ≤ s.sys.rasWritten - s.sys.rasRead)
  let s1 := s.putFirmware (s.sys.raslog + 32 * (s.sys.rasWritten % 2048)) (rasBytes kind core tile s.ns f)
  { s1 with
    sys := { s1.sys with
      rasWritten := s.sys.rasWritten + 1
      rasRead := if full then s.sys.rasRead + 1 else s.sys.rasRead
      raslost := if full then s.sys.raslost + 1 else s.sys.raslost } }

/-- A counter of 32 bits that stops at its largest value (R280). -/
def bump32 (n k : Nat) : Nat := if 2 ^ 32 - 1 < n + k then 2 ^ 32 - 1 else n + k

/-- The crew with csr_ras raised (Table 10.5). -/
def Crew.addRas (w : Crew) (records fails : Nat) : Crew :=
  { w with ras := BitVec.ofNat 64 (bump32 (field w.ras.toNat 63 32) records * 2 ^ 32
      + bump32 (field w.ras.toNat 31 0) fails) }

/-- A record made for the crew of a core (R360). -/
def State.rasCrew (s : State) (kind core : Nat) (f : RasFields) : State :=
  (s.rasLog kind core (s.crew core).info.tile f).modCrew core (fun w => w.addRas 1 0)

/-! ### Free values -/

/-- A byte that the spec leaves unspecified, at a place. -/
def State.freeByte (s : State) (site : Nat) : Byte := Config.freeByte s.moment site

/-- A number that the spec leaves unspecified, at a site. -/
def State.freeNat (s : State) (site : Nat) : Nat := Config.freeNat s.moment site

end Sys2Proof.Machine
end

