-- ==== Sys2Proof/Machine/Operands.lean ====
section
/-!
DEFINITION. The operand forms of sequencer words (R48 to R51): immediates, offsets, access sizes, effective
addresses, how a load's bytes reach a register.
-/
namespace Sys2Proof.Machine
open Sys2Proof

/-- An n-bit field sign-extended to 64 bits (R51). -/
def sext64 {n : Nat} (v : BitVec n) : Word := v.signExtend 64

/-- imm48 of li.l: imm17[15:0] : w2 (Table 3.4). -/
def imm48 (hi : BitVec 16) (w2 : Half) : Word := (hi ++ w2).signExtend 64

/-- The branch target: the address of the branch plus four times a signed word count (R51). -/
def branchTarget {n : Nat} (pc : Word) (off : BitVec n) : Word := pc + sext64 off * 4

/-- The access size of an sz code: 1, 2, 4 or 8 bytes (R51). -/
def accessSize (z : Nat) : Nat := 2 ^ (z % 4)

/-- The effective address of an SM form: off8 scaled by the access size (R51, R129). -/
def scaledAddress (base : Word) (off : BitVec 8) (size : Nat) : Word := base + sext64 off * BitVec.ofNat 64 size

/-- The effective address of a long-offset form (R131). -/
def longAddress (base : Word) (off : Half) : Word := base + sext64 off

/-- A loaded value of `size` bytes as a register value: sign-extended for sz 0 to 3, zero-extended for 4 to 6
(R51, R129). -/
def loadExtend (sext : Bool) (size v : Nat) : Word :=
  if sext then BitVec.ofInt 64 (sintOf (8 * size) v) else BitVec.ofNat 64 (v % 2 ^ (8 * size))

/-- Does an sz code load sign-extended? -/
def szSigned (z : Nat) : Bool := decide (z ≤ 3)

/-- The scopes of R51 and R130. -/
inductive Scope where
  | st | co | cl | dv | dm | sy
  deriving DecidableEq, Repr

/-- The scope of a 3-bit code; codes 6 and 7 are no instructions. -/
def scopeOf (c : Nat) : Scope :=
  if c = 0 then .st else if c = 1 then .co else if c = 2 then .cl else if c = 3 then .dv else if c = 4 then .dm else .sy

end Sys2Proof.Machine
end

