-- ==== Sys2Proof/Machine/Flags.lean ====
section
/-!
DEFINITION. What sets predicates and sticky bits: the conditions of Table 10.8, the waita conditions, and the flag
fields of csr_eflags (Table 8.3).
-/
namespace Sys2Proof.Machine
open Sys2Proof

def condEq (a b : Word) : Bool := a == b
def condNe (a b : Word) : Bool := a != b
/-- Signed less-than. -/
def condLt (a b : Word) : Bool := a.slt b
/-- Unsigned less-than. -/
def condLtn (a b : Word) : Bool := a.ult b
/-- Signed less-or-equal. -/
def condLe (a b : Word) : Bool := a.sle b
/-- Unsigned less-or-equal. -/
def condLen (a b : Word) : Bool := a.ule b
/-- A common set bit. -/
def condBit (a b : Word) : Bool := (a &&& b) != 0
/-- Signed greater-or-equal. -/
def condGe (a b : Word) : Bool := b.sle a
/-- Unsigned greater-or-equal. -/
def condGen (a b : Word) : Bool := b.ule a

/-- The conditions of waita by fn code (R294). -/
def watchCond (code : Nat) (m b : Word) : Bool :=
  if code = 0 then condEq m b else if code = 1 then condNe m b else if code = 2 then condGe m b
  else if code = 3 then condLt m b else condGen m b

/-- csr_eflags with flags ORed in (R215). -/
def flagsOr (e : Word) (f : FlagSet) : Word := e ||| f.setWidth 64

/-- csr_eflags with ppred, spoison or swaperr set: bits 6, 7 and 8 (Table 8.3). -/
def flagsSet (e : Word) (bit : Nat) : Word := e ||| BitVec.ofNat 64 (2 ^ bit)

/-- csr_eflags with checkfail one up, stopping at 65,535 (Table 8.3). -/
def flagsFail (e : Word) : Word :=
  if field e.toNat 31 16 = 65535 then e else e + 65536

end Sys2Proof.Machine
end

