-- ==== Sys2Proof/Machine/Scalar.lean ====
section
/-!
DEFINITION. Integer, predicate and immediate instructions of the sequencer (spec 10, R282 to R288). Each reads its
registers before it writes (R272); a false guard only advances (R50).
-/
namespace Sys2Proof.Machine
open Sys2Proof

/-- What a meaning answers. -/
abbrev Out := Host.Outcome State Fault Refusal

/-! ### Results of Table 10.6 and Table 10.7 -/

/-- Signed quotient with the results of Table 2.7. -/
def divS (a b : Word) : Word := if b = 0 then BitVec.ofInt 64 (-1) else BitVec.ofInt 64 (a.toInt.tdiv b.toInt)
/-- Unsigned quotient. -/
def divU (a b : Word) : Word := if b = 0 then BitVec.ofInt 64 (-1) else a / b
/-- Signed remainder. -/
def remS (a b : Word) : Word := if b = 0 then a else BitVec.ofInt 64 (a.toInt.tmod b.toInt)
/-- Unsigned remainder. -/
def remU (a b : Word) : Word := if b = 0 then a else a % b
/-- High half of the signed product. -/
def mulhS (a b : Word) : Word := BitVec.ofInt 64 (a.toInt * b.toInt / ((2 ^ 64 : Nat) : Int))
/-- High half of the unsigned product. -/
def mulhU (a b : Word) : Word := BitVec.ofNat 64 (a.toNat * b.toNat / 2 ^ 64)
/-- A value whose low 32 bits are sign-extended. -/
def sextW (v : Word) : Word := (v.setWidth 32).signExtend 64
/-- The shift amount: modulo 64. -/
def amount (b : Word) : Nat := b.toNat % 64
/-- Rotate right; a rotate by 0 returns the value. -/
def rotR (a : Word) (n : Nat) : Word := a.rotateRight n
/-- The eight bytes in reverse order. -/
def revBytes (a : Word) : Word := BitVec.ofNat 64 (ofBytes (bytesOf 8 a.toNat).reverse)

/-! ### Shapes -/

/-- x[d] := f x[a] x[b]. -/
def binary (f : Word → Word → Word) (d a b : Reg) (g : Pred) (s : State) : State :=
  s.strandOp g (fun t => t.setX d (f (t.getX a) (t.getX b)))
/-- x[d] := f x[a]. -/
def unary (f : Word → Word) (d a : Reg) (g : Pred) (s : State) : State :=
  s.strandOp g (fun t => t.setX d (f (t.getX a)))
/-- p[q] := c x[a] x[b]. -/
def compare (c : Word → Word → Bool) (q : Pred) (a b : Reg) (g : Pred) (s : State) : State :=
  s.strandOp g (fun t => t.setP q (c (t.getX a) (t.getX b)))
/-- p[q] := c x[a] v. -/
def compareImm (c : Word → Word → Bool) (q : Pred) (a : Reg) (v : Word) (g : Pred) (s : State) : State :=
  s.strandOp g (fun t => t.setP q (c (t.getX a) v))
/-- p[p] := f p[q] p[r]. -/
def logic (f : Bool → Bool → Bool) (p q r : Pred) (g : Pred) (s : State) : State :=
  s.strandOp g (fun t => t.setP p (f (t.getP q) (t.getP r)))

/-! ### Meanings -/

/-- R282, Table 10.6. -/
def execAdd (d a b : Reg) (g : Pred) (s : State) : Out := .next (binary (fun a b => a + b) d a b g s)
/-- R282, Table 10.6. -/
def execSub (d a b : Reg) (g : Pred) (s : State) : Out := .next (binary (fun a b => a - b) d a b g s)
/-- R282, Table 10.6. -/
def execMul (d a b : Reg) (g : Pred) (s : State) : Out := .next (binary (fun a b => a * b) d a b g s)
/-- R282, Table 10.6. -/
def execMulh (d a b : Reg) (g : Pred) (s : State) : Out := .next (binary (fun a b => mulhS a b) d a b g s)
/-- R282, Table 10.6. -/
def execMulhn (d a b : Reg) (g : Pred) (s : State) : Out := .next (binary (fun a b => mulhU a b) d a b g s)
/-- R282, Table 10.6. -/
def execDiv (d a b : Reg) (g : Pred) (s : State) : Out := .next (binary (fun a b => divS a b) d a b g s)
/-- R282, Table 10.6. -/
def execDivn (d a b : Reg) (g : Pred) (s : State) : Out := .next (binary (fun a b => divU a b) d a b g s)
/-- R282, Table 10.6. -/
def execRem (d a b : Reg) (g : Pred) (s : State) : Out := .next (binary (fun a b => remS a b) d a b g s)
/-- R282, Table 10.6. -/
def execRemn (d a b : Reg) (g : Pred) (s : State) : Out := .next (binary (fun a b => remU a b) d a b g s)
/-- R282, Table 10.6. -/
def execAnd (d a b : Reg) (g : Pred) (s : State) : Out := .next (binary (fun a b => a &&& b) d a b g s)
/-- R282, Table 10.6. -/
def execOr (d a b : Reg) (g : Pred) (s : State) : Out := .next (binary (fun a b => a ||| b) d a b g s)
/-- R282, Table 10.6. -/
def execXor (d a b : Reg) (g : Pred) (s : State) : Out := .next (binary (fun a b => a ^^^ b) d a b g s)
/-- R282, Table 10.6. -/
def execAndn (d a b : Reg) (g : Pred) (s : State) : Out := .next (binary (fun a b => a &&& ~~~b) d a b g s)
/-- R282, Table 10.6. -/
def execShl (d a b : Reg) (g : Pred) (s : State) : Out := .next (binary (fun a b => a <<< amount b) d a b g s)
/-- R282, Table 10.6. -/
def execShr (d a b : Reg) (g : Pred) (s : State) : Out := .next (binary (fun a b => a >>> amount b) d a b g s)
/-- R282, Table 10.6. -/
def execSra (d a b : Reg) (g : Pred) (s : State) : Out := .next (binary (fun a b => a.sshiftRight (amount b)) d a b g s)
/-- R282, Table 10.6. -/
def execRot (d a b : Reg) (g : Pred) (s : State) : Out := .next (binary (fun a b => rotR a (amount b)) d a b g s)
/-- R282, Table 10.6. -/
def execMin (d a b : Reg) (g : Pred) (s : State) : Out := .next (binary (fun a b => if a.slt b then a else b) d a b g s)
/-- R282, Table 10.6. -/
def execMax (d a b : Reg) (g : Pred) (s : State) : Out := .next (binary (fun a b => if b.slt a then a else b) d a b g s)
/-- R282, Table 10.6. -/
def execMinn (d a b : Reg) (g : Pred) (s : State) : Out := .next (binary (fun a b => if a.ult b then a else b) d a b g s)
/-- R282, Table 10.6. -/
def execMaxn (d a b : Reg) (g : Pred) (s : State) : Out := .next (binary (fun a b => if b.ult a then a else b) d a b g s)
/-- R282, Table 10.6. -/
def execAddw (d a b : Reg) (g : Pred) (s : State) : Out := .next (binary (fun a b => sextW (a + b)) d a b g s)
/-- R282, Table 10.6. -/
def execSubw (d a b : Reg) (g : Pred) (s : State) : Out := .next (binary (fun a b => sextW (a - b)) d a b g s)
/-- R282, Table 10.6. -/
def execMulw (d a b : Reg) (g : Pred) (s : State) : Out := .next (binary (fun a b => sextW (a * b)) d a b g s)
/-- R283, Table 10.7. -/
def execClz (d a : Reg) (g : Pred) (s : State) : Out := .next (unary (fun a => BitVec.ofNat 64 (leadZeros 64 a.toNat)) d a g s)
/-- R283, Table 10.7. -/
def execCtz (d a : Reg) (g : Pred) (s : State) : Out := .next (unary (fun a => BitVec.ofNat 64 (trailZeros 64 a.toNat)) d a g s)
/-- R283, Table 10.7. -/
def execPopc (d a : Reg) (g : Pred) (s : State) : Out := .next (unary (fun a => BitVec.ofNat 64 (popCount 64 a.toNat)) d a g s)
/-- R283, Table 10.7. -/
def execSextB (d a : Reg) (g : Pred) (s : State) : Out := .next (unary (fun a => (a.setWidth 8).signExtend 64) d a g s)
/-- R283, Table 10.7. -/
def execSextH (d a : Reg) (g : Pred) (s : State) : Out := .next (unary (fun a => (a.setWidth 16).signExtend 64) d a g s)
/-- R283, Table 10.7. -/
def execSextW (d a : Reg) (g : Pred) (s : State) : Out := .next (unary (fun a => sextW a) d a g s)
/-- R283, Table 10.7. -/
def execZextB (d a : Reg) (g : Pred) (s : State) : Out := .next (unary (fun a => (a.setWidth 8).setWidth 64) d a g s)
/-- R283, Table 10.7. -/
def execZextH (d a : Reg) (g : Pred) (s : State) : Out := .next (unary (fun a => (a.setWidth 16).setWidth 64) d a g s)
/-- R283, Table 10.7. -/
def execZextW (d a : Reg) (g : Pred) (s : State) : Out := .next (unary (fun a => (a.setWidth 32).setWidth 64) d a g s)
/-- R283, Table 10.7. -/
def execRev (d a : Reg) (g : Pred) (s : State) : Out := .next (unary (fun a => revBytes a) d a g s)
/-- R283, Table 10.7. -/
def execMov (d a : Reg) (g : Pred) (s : State) : Out := .next (unary (fun a => a) d a g s)
/-- R284, Table 10.8. -/
def execCmpEq (p : Pred) (a b : Reg) (g : Pred) (s : State) : Out := .next (compare condEq p a b g s)
/-- R284, Table 10.8. -/
def execCmpNe (p : Pred) (a b : Reg) (g : Pred) (s : State) : Out := .next (compare condNe p a b g s)
/-- R284, Table 10.8. -/
def execCmpLt (p : Pred) (a b : Reg) (g : Pred) (s : State) : Out := .next (compare condLt p a b g s)
/-- R284, Table 10.8. -/
def execCmpLtn (p : Pred) (a b : Reg) (g : Pred) (s : State) : Out := .next (compare condLtn p a b g s)
/-- R284, Table 10.8. -/
def execCmpLe (p : Pred) (a b : Reg) (g : Pred) (s : State) : Out := .next (compare condLe p a b g s)
/-- R284, Table 10.8. -/
def execCmpLen (p : Pred) (a b : Reg) (g : Pred) (s : State) : Out := .next (compare condLen p a b g s)
/-- R284, Table 10.8. -/
def execCmpBit (p : Pred) (a b : Reg) (g : Pred) (s : State) : Out := .next (compare condBit p a b g s)
/-- R285. -/
def execPand (p q r g : Pred) (s : State) : Out := .next (logic (fun x y => x && y) p q r g s)
/-- R285. -/
def execPor (p q r g : Pred) (s : State) : Out := .next (logic (fun x y => x || y) p q r g s)
/-- R285. -/
def execPxor (p q r g : Pred) (s : State) : Out := .next (logic (fun x y => x != y) p q r g s)
/-- R285. -/
def execPandn (p q r g : Pred) (s : State) : Out := .next (logic (fun x y => x && !y) p q r g s)
/-- R285. -/
def execPnot (p q g : Pred) (s : State) : Out := .next (s.strandOp g (fun t => t.setP p (!(t.getP q))))
/-- R285. -/
def execPmovX (p : Pred) (a : Reg) (g : Pred) (s : State) : Out := .next (s.strandOp g (fun t => t.setP p (t.getX a != 0)))
/-- R285. -/
def execMovpX (d : Reg) (q g : Pred) (s : State) : Out :=
  .next (s.strandOp g (fun t => t.setX d (if t.getP q then 1 else 0)))
/-- R286. -/
def execAddi (d a : Reg) (i : BitVec 11) (g : Pred) (s : State) : Out := .next (unary (fun a => a + sext64 i) d a g s)
/-- R286. -/
def execAndi (d a : Reg) (i : BitVec 11) (g : Pred) (s : State) : Out := .next (unary (fun a => a &&& sext64 i) d a g s)
/-- R286. -/
def execOri (d a : Reg) (i : BitVec 11) (g : Pred) (s : State) : Out := .next (unary (fun a => a ||| sext64 i) d a g s)
/-- R286. -/
def execXori (d a : Reg) (i : BitVec 11) (g : Pred) (s : State) : Out := .next (unary (fun a => a ^^^ sext64 i) d a g s)
/-- R286. -/
def execShli (d a : Reg) (n : Reg) (g : Pred) (s : State) : Out := .next (unary (fun a => a <<< n.toNat) d a g s)
/-- R286. -/
def execShri (d a : Reg) (n : Reg) (g : Pred) (s : State) : Out := .next (unary (fun a => a >>> n.toNat) d a g s)
/-- R286. -/
def execSrai (d a : Reg) (n : Reg) (g : Pred) (s : State) : Out := .next (unary (fun a => a.sshiftRight n.toNat) d a g s)
/-- R286. -/
def execRoti (d a : Reg) (n : Reg) (g : Pred) (s : State) : Out := .next (unary (fun a => rotR a n.toNat) d a g s)
/-- R284: the immediate is sign-extended. -/
def execCmpiEq (p : Pred) (a : Reg) (i : BitVec 8) (g : Pred) (s : State) : Out := .next (compareImm condEq p a (sext64 i) g s)
/-- R284: the immediate is sign-extended. -/
def execCmpiLt (p : Pred) (a : Reg) (i : BitVec 8) (g : Pred) (s : State) : Out := .next (compareImm condLt p a (sext64 i) g s)
/-- R284: the immediate is zero-extended. -/
def execCmpiLtn (p : Pred) (a : Reg) (i : BitVec 8) (g : Pred) (s : State) : Out := .next (compareImm condLtn p a (i.setWidth 64) g s)
/-- R287. -/
def execLi (d : Reg) (i : BitVec 17) (g : Pred) (s : State) : Out := .next (s.strandOp g (fun t => t.setX d (sext64 i)))
/-- R287. -/
def execLiL (d : Reg) (hi : BitVec 16) (w2 : Half) (g : Pred) (s : State) : Out :=
  .next (s.strandOpL g (fun t => t.setX d (imm48 hi w2)))
/-- R287: the lower half is kept. -/
def execLihL (d : Reg) (w2 : Half) (g : Pred) (s : State) : Out :=
  .next (s.strandOpL g (fun t => t.setX d (w2 ++ (t.getX d).setWidth 32)))
/-- R287. -/
def execAddiL (d a : Reg) (w2 : Half) (g : Pred) (s : State) : Out :=
  .next (s.strandOpL g (fun t => t.setX d (t.getX a + sext64 w2)))
/-- R288. -/
def execLea (d a b : Reg) (n : BitVec 5) (g : Pred) (s : State) : Out :=
  .next (binary (fun a b => a + b <<< n.toNat) d a b g s)
/-- R288. -/
def execSel (d a b : Reg) (p g : Pred) (s : State) : Out :=
  .next (s.strandOp g (fun t => t.setX d (if t.getP p then t.getX a else t.getX b)))

end Sys2Proof.Machine
end

