-- ==== Sys2Proof/Machine/Control.lean ====
section
/-!
DEFINITION. Control flow: branches, jumps, hardware loops (spec 10, R289, R290), and what an encoding that is not
an instruction does (spec 03, R55, R56).
-/
namespace Sys2Proof.Machine
open Sys2Proof

/-- The word or words of an instruction as csr_tval holds them for ILLEGAL_OP (R55). -/
def wordsOf (i : Instr) : Word :=
  match encode i with
  | some (w, some v) => v ++ w
  | some (w, none) => w.setWidth 64
  | none => 0

/-- ILLEGAL_OP for an instruction that the strand's mode or the CSR map refuses (Table 3.5). -/
def illegal (i : Instr) (s : State) : State := s.takeTrap causeIllegalOp (wordsOf i)

/-- R55: a word, or the two words of a long form, whose encoding is not an instruction. -/
def execIllegalInstruction (word : Half) (second : Option Half) (s : State) : Out :=
  .next (s.takeTrap causeIllegalOp (match second with | some v => v ++ word | none => word.setWidth 64))

/-- R289. -/
def execBr (p : Pred) (n : Bool) (o : BitVec 22) (s : State) : Out :=
  .next (if (s.me.getP p).xor n then s.setMe { s.me with pc := branchTarget s.me.pc o, hold := .none }
    else s.complete 4)

/-- R289. -/
def execJal (d : Reg) (o : BitVec 20) (s : State) : Out :=
  .next (s.setMe { s.me.setX d (s.me.pc + 4) with pc := branchTarget s.me.pc o, hold := .none })

/-- R289: the target comes from the old value of a; a target that is no multiple of 4 traps. -/
def execJalr (d a : Reg) (g : Pred) (s : State) : Out :=
  .next
    (if s.me.getP g then
      (if (s.me.getX a).toNat % 4 ≠ 0 then s.takeTrap causeMisaligned (s.me.getX a)
       else s.setMe { s.me.setX d (s.me.pc + 4) with pc := s.me.getX a, hold := .none })
     else s.complete 4)

/-- The strand past a loop whose count is 0, as if an instruction ending at E had completed (R290). -/
def Strand.skipLoop (t : Strand) (l : BitVec 16) : Strand :=
  let e := t.pc + l.setWidth 64 * 4
  let r := endLoops e (e + 4) t.loops
  { t with pc := r.1, loops := r.2, hold := .none }

/-- The strand with a new innermost loop level (R290). -/
def Strand.pushLoop (t : Strand) (l : BitVec 16) (count : Word) : Strand :=
  { t with loops := ⟨t.pc + 4, t.pc + l.setWidth 64 * 4, count⟩ :: t.loops, pc := t.pc + 4, hold := .none }

/-- R290. -/
def execLoop (d : Reg) (l : BitVec 16) (g : Pred) (s : State) : Out :=
  .next
    (if s.me.getP g then
      (if s.me.getX d = 0 then s.setMe (s.me.skipLoop l)
       else if s.me.loops.length = 2 then s.takeTrap causeConfig 2
       else s.setMe (s.me.pushLoop l (s.me.getX d)))
     else s.complete 4)

/-- R290: leaves the innermost level; with an empty stack it has no effect. -/
def execLoopBrk (g : Pred) (s : State) : Out :=
  .next
    (if s.me.getP g then
      (match s.me.loops with
       | [] => s.complete 4
       | l :: ls => s.setMe { s.me with pc := l.stop + 4, loops := ls, hold := .none })
     else s.complete 4)

end Sys2Proof.Machine
end

