-- ==== Sys2Proof/Machine/Csr.lean ====
section
/-!
DEFINITION. Control and status registers: the map and the rights (Tables 8.2 and 10.4), reads, writes with their
value checks (R217, R280, R145), and the CSR instructions (R291).
-/
namespace Sys2Proof.Machine
open Sys2Proof

/-! ### The pool partition (R114, R115) -/

/-- Private registers per bank per element. -/
def vprivOf (part : Nat) : Nat := 32 * (field part 1 0 + 1)
/-- Shared registers per element. -/
def vsharedOf (part : Nat) : Nat :=
  let v := field part 3 2
  if v = 0 then 0 else if v = 1 then 32 else if v = 2 then 64 else 128
/-- Bytes of the accumulator region. -/
def accBytesOf (part : Nat) : Nat := 65536 * field part 11 4
/-- Is the accumulator entry format f64? -/
def accWide (part : Nat) : Bool := field part 13 12 == 1
/-- The scratchpad size S. -/
def spSizeOf (part : Nat) : Nat := Config.poolBytes - accBytesOf part - 256 * (4 * vprivOf part + vsharedOf part)
/-- The crew's scratchpad size. -/
def Crew.spSize (w : Crew) : Nat := spSizeOf w.info.part.toNat

/-! ### The map -/

/-- The rights of a CSR (Table 10.4): none, read-only, read-write, read-only in kernel and read-write in monitor
mode, monitor read-only, monitor read-write. -/
inductive CsrRight where
  | absent | ro | rw | kroMrw | monRo | monRw
  deriving DecidableEq, Repr

/-- The rights of CSR n (Tables 8.2, 10.4). -/
def csrRight (n : Nat) : CsrRight :=
  if n ≤ 0x00A then .ro
  else if n = 0x010 then .rw
  else if n = 0x011 ∨ n = 0x012 ∨ n = 0x013 then .kroMrw
  else if n = 0x014 then .monRw
  else if n = 0x015 then .monRo
  else if n = 0x016 then .monRw
  else if 0x018 ≤ n ∧ n ≤ 0x01B then .monRw
  else if 0x020 ≤ n ∧ n ≤ 0x023 then .rw
  else if n = 0x030 then .rw
  else if n = 0x040 then .ro
  else if n = 0x041 then .rw
  else if 0x100 ≤ n ∧ n ≤ 0x17F then
    (if n % 16 = 0 ∨ n % 16 = 1 ∨ n % 16 = 2 ∨ (4 ≤ n % 16 ∧ n % 16 ≤ 7) then .rw
     else if n % 16 = 8 then .ro else .absent)
  else .absent

/-- May CSR n be accessed in the mode, as a write or a read? -/
def csrAllowed (n : Nat) (monitor write : Bool) : Bool :=
  match csrRight n with
  | .absent => false
  | .ro => !write
  | .rw => true
  | .kroMrw => monitor || !write
  | .monRo => monitor && !write
  | .monRw => monitor

/-! ### Reads (R279 to R281) -/

/-- A counter as a CSR reads: it stops at its largest value (R280). -/
def counterCsr (n : Nat) : Word := BitVec.ofNat 64 (Nat.min n (2 ^ 64 - 1))
/-- csr_cycle: cc the crew has been on its core; `cycle` counts twentieths of a cc (DESIGN CHOICE, log 2). -/
def Crew.cycleCsr (w : Crew) : Word := counterCsr (w.cycle / 20)
/-- csr_ns (R281). -/
def State.nsCsr (s : State) : Word := counterCsr s.ns
/-- csr_pool (Table 5.1). -/
def Crew.poolCsr (w : Crew) : Word := BitVec.ofNat 64 (w.spSize * 2 ^ 32 + w.info.part.toNat)
/-- The inring bits of csr_spill. -/
def Crew.inring (w : Crew) : Nat :=
  (List.range 32).foldl (fun n c => if ((tget w.chans c emptyChan).ring ++ (tget w.chans c emptyChan).later).any
    (fun r => match r with | .slot _ => true | .staged _ _ => true | _ => false) then n + 2 ^ c else n) 0
/-- csr_spill (Table 6.3). -/
def Crew.spillCsr (w : Crew) : Word := BitVec.ofNat 64 (w.spilled.toNat * 2 ^ 32 + w.inring)
/-- Element e of the crew. -/
def Crew.elem (w : Crew) (e : Nat) : Element := tget w.elems e emptyElement
/-- The crew with element e replaced. -/
def Crew.setElem (w : Crew) (e : Nat) (x : Element) : Crew := { w with elems := tset w.elems e x }

/-- An element CSR by its place 0 to 8 (Table 8.2). -/
def Element.csr (x : Element) (i : Nat) : Word :=
  if i = 0 then x.ctl else if i = 1 then x.flags else if i = 2 then x.seed
  else if i = 8 then x.state else tget x.draws (i - 4) 0

/-- The value of CSR n for a strand of a core. -/
def State.readCsr (s : State) (c k : Nat) (n : Nat) : Word :=
  let w := s.crew c
  let t := w.strand k
  if n = 0x000 then BitVec.ofNat 64 k
  else if n = 0x001 then BitVec.ofNat 64 w.info.tile
  else if n = 0x002 then BitVec.ofNat 64 c
  else if n = 0x003 then BitVec.ofNat 64 (clusterOf c)
  else if n = 0x004 then BitVec.ofNat 64 (sideOf c)
  else if n = 0x005 then BitVec.ofNat 64 s.sys.devid
  else if n = 0x006 then w.info.args
  else if n = 0x007 then w.poolCsr
  else if n = 0x008 then w.cycleCsr
  else if n = 0x009 then s.nsCsr
  else if n = 0x00A then w.info.mode
  else if n = 0x010 then t.status
  else if n = 0x011 then t.topLevel.cause
  else if n = 0x012 then t.topLevel.epc
  else if n = 0x013 then t.topLevel.tval
  else if n = 0x014 then (s.core c).tvec
  else if n = 0x015 then BitVec.ofNat 64 t.traps.length
  else if n = 0x016 then t.topLevel.status
  else if n = 0x018 then t.topLevel.save0
  else if n = 0x019 then t.topLevel.save1
  else if n = 0x01A then t.topLevel.save2
  else if n = 0x01B then t.topLevel.save3
  else if n = 0x020 then w.semsat
  else if n = 0x021 then w.errtok
  else if n = 0x022 then w.pftime
  else if n = 0x023 then w.snaptime
  else if n = 0x030 then w.spillCsr
  else if n = 0x040 then w.ras
  else if n = 0x041 then w.replay
  else (w.elem ((n - 0x100) / 16)).csr (n % 16)

/-! ### Writes (R280, R217, R145) -/

/-- csr_status written: prio, and ie only in monitor mode (R280). -/
def Strand.writeStatus (t : Strand) (v : Word) : Strand :=
  let low := if t.monitor then field v.toNat 0 0 else b2n t.ie
  { t with status := BitVec.ofNat 64 (field v.toNat 5 4 * 16 + b2n t.monitor * 2 + low) }

/-- An element CSR written by its place; none where rm would become 5, 6 or 7 (R217). -/
def Element.writeCsr (x : Element) (i : Nat) (v : Word) : Option Element :=
  if i = 0 then
    (if 5 ≤ field v.toNat 2 0 then none else some { x with ctl := BitVec.ofNat 64 (field v.toNat 4 0) })
  else if i = 1 then
    some { x with flags := BitVec.ofNat 64 (field v.toNat 31 16 * 65536 + field v.toNat 8 0) }
  else if i = 2 then some { x with seed := v }
  else some { x with draws := tset x.draws (i - 4) v }

/-- A limit CSR of 16 bits: zero fails the value check (R280). -/
def limitValue (v : Word) : Option Word :=
  if field v.toNat 15 0 = 0 then none else some (BitVec.ofNat 64 (field v.toNat 15 0))

/-- csr_spill written: only the sticky spilled bits change (R145). -/
def Crew.writeSpill (w : Crew) (v : Word) : Crew := { w with spilled := BitVec.ofNat 32 (field v.toNat 63 32) }

/-- CSR n of a strand written; none where a value check fails (R217, R280). Read-only CSRs are left alone. -/
def State.writeCsr (s : State) (c k : Nat) (n : Nat) (v : Word) : Option State :=
  let w := s.crew c
  let t := w.strand k
  let put : Strand → Option State := fun t' => some (s.setStrandAt c k t')
  if n = 0x010 then put (t.writeStatus v)
  else if n = 0x011 then put (t.setTop (fun l => { l with cause := v }))
  else if n = 0x012 then put (t.setTop (fun l => { l with epc := v }))
  else if n = 0x013 then put (t.setTop (fun l => { l with tval := v }))
  else if n = 0x014 then some (s.setCore c { s.core c with tvec := v })
  else if n = 0x016 then put (t.setTop (fun l => { l with status := v &&& 0x33 }))
  else if n = 0x018 then put (t.setTop (fun l => { l with save0 := v }))
  else if n = 0x019 then put (t.setTop (fun l => { l with save1 := v }))
  else if n = 0x01A then put (t.setTop (fun l => { l with save2 := v }))
  else if n = 0x01B then put (t.setTop (fun l => { l with save3 := v }))
  else if n = 0x020 then some (s.setCrew c { w with semsat := BitVec.ofNat 64 (field v.toNat 62 0) })
  else if n = 0x021 then some (s.setCrew c { w with errtok := BitVec.ofNat 64 (field v.toNat 39 0) })
  else if n = 0x022 then (limitValue v).map (fun l => s.setCrew c { w with pftime := l })
  else if n = 0x023 then (limitValue v).map (fun l => s.setCrew c { w with snaptime := l })
  else if n = 0x030 then some (s.setCrew c (w.writeSpill v))
  else if n = 0x041 then some (s.setCrew c { w with replay := v })
  else if 0x100 ≤ n ∧ n ≤ 0x17F then
    ((w.elem ((n - 0x100) / 16)).writeCsr (n % 16) v).map (fun x => s.setCrew c (w.setElem ((n - 0x100) / 16) x))
  else some s

/-- A CSR write of the current strand: its effect, or CONFIG with nothing changed. The tval of this CONFIG
is not stated (DESIGN CHOICE, log 30). -/
def State.csrWriteOp (s : State) (n : Nat) (v : Word) : State :=
  match s.writeCsr s.cur.core s.cur.strand n v with
  | some s' => s'.complete 4
  | none => s.takeTrap causeConfig (BitVec.ofNat 64 (s.freeNat 30))

/-- The old value of CSR n for the current strand. -/
def State.csrOld (s : State) (n : Nat) : Word := s.readCsr s.cur.core s.cur.strand n

/-! ### Meanings (R291) -/

/-- R291. -/
def execCsrr (d : Reg) (c : BitVec 12) (g : Pred) (s : State) : Out :=
  .next (if csrAllowed c.toNat s.me.monitor false then s.strandOp g (fun t => t.setX d (s.csrOld c.toNat))
    else illegal (.csrr d c g) s)

/-- R291. -/
def execCsrw (x : Reg) (c : BitVec 12) (g : Pred) (s : State) : Out :=
  .next (if csrAllowed c.toNat s.me.monitor true then
      (if s.me.getP g then s.csrWriteOp c.toNat (s.me.getX x) else s.complete 4)
    else illegal (.csrw x c g) s)

/-- R291. -/
def execCsrs (x : Reg) (c : BitVec 12) (g : Pred) (s : State) : Out :=
  .next (if csrAllowed c.toNat s.me.monitor true then
      (if s.me.getP g then s.csrWriteOp c.toNat (s.csrOld c.toNat ||| s.me.getX x) else s.complete 4)
    else illegal (.csrs x c g) s)

/-- R291. -/
def execCsrc (x : Reg) (c : BitVec 12) (g : Pred) (s : State) : Out :=
  .next (if csrAllowed c.toNat s.me.monitor true then
      (if s.me.getP g then s.csrWriteOp c.toNat (s.csrOld c.toNat &&& ~~~(s.me.getX x)) else s.complete 4)
    else illegal (.csrc x c g) s)

/-- The write inside a csrw of csr_spill by a strand: only the sticky spilled bits (R145). -/
def execCsrSpillWrite (core strand : Nat) (value : Word) (s : State) : Out :=
  .next ((s.writeCsr core strand 0x030 value).getD s)

/-- The write inside a csrw of csr_ectl of an element: rm 5 to 7 traps with CONFIG (R217), whose tval is not stated (DESIGN CHOICE, log 30). -/
def execEctlWrite (core strand element : Nat) (value : Word) (s : State) : Out :=
  .next (match s.writeCsr core strand (0x100 + 16 * (element % 8)) value with
    | some s' => s'
    | none => s.takeTrapAt core strand causeConfig (BitVec.ofNat 64 (s.freeNat 30)) (s.strandAt core strand).pc)

/-- The write inside a csrw of csr_status: prio, and ie only in monitor mode (R280). -/
def execStatusWrite (core strand : Nat) (value : Word) (s : State) : Out :=
  .next ((s.writeCsr core strand 0x010 value).getD s)

/-- A function in ERROR refuses host traffic with an unsupported-request completion (R378). -/
def State.functionRefuses (s : State) (function : Nat) : Bool := tget s.sys.tdisp function 0 == 3

/-- A completion of a host access noted. -/
def State.hostAnswer (s : State) (b : List Byte) : State := { s with sys := { s.sys with hostReads := b :: s.sys.hostReads } }

/-- A host write to BAR0 of a function at an offset (Table 14.2): of the registers without a row of their own only aqdesc of function 0 takes one, while aqen
is 0. A refusal is noted as a completion without bytes (R378). -/
def State.writeBar (s : State) (function offset : Nat) (value : Word) : State :=
  if s.functionRefuses function then s.hostAnswer []
  else if function = 0 ∧ offset = 0x2000 ∧ s.sys.aqen = 0 then { s with sys := { s.sys with aqdesc := value.toNat } } else s

/-- The write of a register without its own row: its writable fields after the value checks (R280, R3). Numbers from 65,536 on are BAR0 offsets of function
number / 65,536 - 1 (DESIGN CHOICE, log 38). -/
def execRegisterWrite (core strand number : Nat) (value : Word) (s : State) : Out :=
  .next (if 65536 ≤ number then s.writeBar (number / 65536 - 1) (number % 65536) value
    else match s.writeCsr core strand number value with
    | some s' => s'
    | none => s.takeTrapAt core strand causeConfig (BitVec.ofNat 64 (s.freeNat 30)) (s.strandAt core strand).pc)

end Sys2Proof.Machine
end

