-- ==== Sys2Proof/Machine/Memory.lean ====
section
/-!
DEFINITION. The memory system (spec 04, 05): physical places and points of coherence, poison, page
walks, translation caches, rights, the directory, store buffers.
-/
namespace Sys2Proof.Machine
open Sys2Proof

/-! ### Places (R71, R122, R298) -/

/-- Where a byte's value stands. -/
inductive Loc where
  /-- a byte of a core's pool -/
  | pool (core a : Nat)
  /-- a byte of device HBM -/
  | hbm (a : Nat)
  /-- a byte of host memory, through the CXL host window -/
  | host (a : Nat)
  /-- a byte of another device's HBM range -/
  | remote (dev a : Nat)
  /-- an unassigned physical address -/
  | none (a : Nat)
  deriving DecidableEq, Repr

def isHbmPa (pa : Nat) : Bool := decide (pa < 2 ^ 40)
def isHostPa (pa : Nat) : Bool := decide (2 ^ 48 ≤ pa) && decide (pa < 2 ^ 49)
def isFabricPa (pa : Nat) : Bool := decide (2 ^ 51 ≤ pa) && decide (pa < 2 ^ 52)
def isAssigned (pa : Nat) : Bool := isHbmPa pa || isHostPa pa || isFabricPa pa

/-- Frame `f` (a multiple of 64 KiB) among a window's frames: its place in the region. -/
def frameIndex : List Nat → Nat → Nat → Option Nat
  | [], _, _ => none
  | g :: gs, f, i => if g = f then some i else frameIndex gs f (i + 1)

/-- The pool byte that serves an HBM byte of a registered window (R122). -/
def windowByte : List Window → Nat → Option (Window × Nat)
  | [], _ => none
  | w :: ws, pa =>
    match frameIndex w.frames (pa / 65536 * 65536) 0 with
    | some i => some (w, w.spoff + 65536 * i + pa % 65536)
    | none => windowByte ws pa

/-- The place of an HBM byte: the pool of the window bound to its frame, or HBM. -/
def State.hbmLoc (s : State) (a : Nat) : Loc :=
  match windowByte s.windows a with
  | some (w, q) => .pool w.core q
  | none => .hbm a

/-- The byte of device HBM that a physical address names, if it names one: the fabric window naming the device itself is its own HBM (R71), once the
identifier is locked (R373). -/
def State.hbmOf (s : State) (pa : Nat) : Option Nat :=
  if isHbmPa pa then some pa
  else if isFabricPa pa && s.sys.lock && field pa 50 40 == s.sys.devid then some (pa % 2 ^ 40)
  else none

/-- A physical address with the own device's fabric range named as its HBM. -/
def State.ownHbm (s : State) (pa : Nat) : Nat := (s.hbmOf pa).getD pa

/-- The place of a physical address (R71, R373). -/
def State.locOf (s : State) (pa : Nat) : Loc :=
  if isHbmPa pa then s.hbmLoc pa
  else if isHostPa pa then .host (pa % 2 ^ 48)
  else if isFabricPa pa then
    (if s.sys.lock = true ∧ field pa 50 40 = s.sys.devid then s.hbmLoc (pa % 2 ^ 40) else .remote (field pa 50 40) (pa % 2 ^ 40))
  else .none pa

/-- The place n bytes further on. -/
def Loc.plus : Loc → Nat → Loc
  | .pool c a, n => .pool c (a + n)
  | .hbm a, n => .hbm (a + n)
  | .host a, n => .host (a + n)
  | .remote d a, n => .remote d (a + n)
  | .none a, n => .none (a + n)

/-- The address of a place in its own space, and the place of its aligned 32-byte granule. -/
def Loc.address : Loc → Nat
  | .pool _ a => a
  | .hbm a => a
  | .host a => a
  | .remote _ a => a
  | .none a => a
def Loc.granule : Loc → Loc
  | .pool c a => .pool c (a / 32 * 32)
  | .hbm a => .hbm (a / 32 * 32)
  | .host a => .host (a / 32 * 32)
  | .remote d a => .remote d (a / 32 * 32)
  | .none a => .none (a / 32 * 32)

/-- Do n bytes at one place and m bytes at another share a byte? -/
def Loc.overlap (x : Loc) (n : Nat) (y : Loc) (m : Nat) : Bool :=
  match x, y with
  | .pool c a, .pool d b => c == d && decide (a < b + m) && decide (b < a + n)
  | .hbm a, .hbm b => decide (a < b + m) && decide (b < a + n)
  | .host a, .host b => decide (a < b + m) && decide (b < a + n)
  | .remote c a, .remote d b => c == d && decide (a < b + m) && decide (b < a + n)
  | .none a, .none b => decide (a < b + m) && decide (b < a + n)
  | _, _ => false

/-! ### Spill rings in use (R144) -/

/-- Does a spill entry's ring hold the pool byte? -/
def SpillEntry.holdsPool (e : SpillEntry) (a : Nat) : Bool :=
  e.space == 1 && decide (e.base ≤ a) && decide (a < e.base + 1024 * 2 ^ e.cap)

/-- Does a spill entry's ring hold the HBM byte? -/
def SpillEntry.holdsHbm (e : SpillEntry) (a : Nat) : Bool :=
  e.space == 0 && e.frames.any (fun f => f.2 == a / 65536 * 65536 &&
    decide (e.base ≤ f.1 * 65536 + a % 65536) && decide (f.1 * 65536 + a % 65536 < e.base + 1024 * 2 ^ e.cap))

/-- Is some spill ring of the crew bound to a place that the test accepts: one of an active entry, or one that a terminator has yet to leave (R144)? -/
def Crew.ringBinds (w : Crew) (f : SpillEntry → Bool) : Bool :=
  w.graph.active.spills.any (fun e => f e.2) || w.chans.any (fun c => match c.2.spill with | some e => f e | none => false)

/-- Is some such ring in use there, so that loads are not defined? One that a wait-mode sm.drain has seen empty is not (R163). -/
def Crew.ringUses (w : Crew) (f : SpillEntry → Bool) : Bool :=
  w.graph.active.spills.any (fun e => f e.2 && !(let x := tget w.chans e.1 emptyChan; x.opened && x.spill == some e.2))
    || w.chans.any (fun c => !c.2.opened && (match c.2.spill with | some e => f e | none => false))

/-- Every crew on a core or suspended. -/
def State.liveCrews (s : State) : List Crew :=
  (s.cores.filterMap (fun k => if k.2.held then some k.2.crew else none)) ++ s.cp.gangs.flatMap (fun g => g.2.crews)

/-- The HBM byte that backs a pool byte of a core through a window of it, if one does (R122). -/
def State.backing (s : State) (core a : Nat) : Option Nat :=
  (s.windows.find? (fun x => x.core == core && decide (x.spoff ≤ a) && decide (a < x.spoff + 65536 * x.frames.length))).map
    (fun x => x.frames.getD ((a - x.spoff) / 65536) 0 + (a - x.spoff) % 65536)

/-- Is the byte in a spill ring in use, so that a load of it returns an unspecified value (R144)? DEDUCED, log 72. -/
def State.ringByte (s : State) : Loc → Bool
  | .pool c a => (s.crew c).ringUses (fun e => e.holdsPool a)
      || (match s.backing c a with
          | some h => s.liveCrews.any (fun w => w.ringUses (fun e => e.holdsHbm h))
          | none => false)
  | .hbm a => s.liveCrews.any (fun w => w.ringUses (fun e => e.holdsHbm a))
  | _ => false

/-! ### Bytes and poison at a place (R86) -/

/-- The byte that stands at a place. Another device's byte and an unassigned address have no byte here. -/
def State.rawByte (s : State) : Loc → Byte
  | .pool c a => mget (s.crew c).pool a
  | .hbm a => mget s.hbm a
  | .host a => mget s.host a
  | .remote d a => s.freeByte (d * 2 ^ 40 + a)
  | .none a => s.freeByte a

/-- The byte a load returns: unspecified in a ring in use. -/
def State.byteAt (s : State) (l : Loc) : Byte :=
  if s.ringByte l then s.freeByte l.address else s.rawByte l

/-- n bytes from a place on. -/
def State.bytesAt (s : State) (l : Loc) : Nat → List Byte
  | 0 => []
  | n + 1 => s.byteAt l :: s.bytesAt (l.plus 1) n

/-- n bytes of a core's pool as a number, as an engine of the core reads them. -/
def State.poolNat (s : State) (core a n : Nat) : Nat := ofBytes (s.bytesAt (.pool core a) n)

/-- n bytes as they stand, ring or not: what page walks, windows and the spill path read. -/
def State.rawBytes (s : State) (l : Loc) : Nat → List Byte
  | 0 => []
  | n + 1 => s.rawByte l :: s.rawBytes (l.plus 1) n

/-- Is some granule of n bytes at a place poisoned? -/
def State.poisonedAt (s : State) (l : Loc) (n : Nat) : Bool :=
  match l with
  | .pool c a => (granules a n).any (smem (s.crew c).poolPoison)
  | .hbm a => (granules a n).any (smem s.hbmPoison)
  | .host a => (granules a n).any (smem s.hostPoison)
  | _ => false

/-- The line numbers of [a, a + n) in a window's region, marked dirty (R123). -/
def Window.touch (w : Window) (core a n : Nat) : Window :=
  if w.core = core ∧ a < w.spoff + 65536 * w.frames.length ∧ w.spoff < a + n then
    { w with dirty := saddN w.dirty ((a - w.spoff) / 128) ((a + n - 1 - w.spoff) / 128 + 1 - (a - w.spoff) / 128) }
  else w

/-- The 4 KiB units of a pool that n bytes at an offset lie in written (R354). -/
def Crew.wrote (w : Crew) (a n : Nat) : Crew := { w with units := saddN w.units (a / 4096) ((a + n + 4095) / 4096 - a / 4096) }

/-- Bytes written at a place, with or without poison. -/
def State.writeLoc (s : State) (l : Loc) (bs : List Byte) (poison : Bool) : State :=
  match l with
  | .pool c a =>
    let w := s.crew c
    let w' := { w with pool := msetN w.pool a bs, poolPoison := markPoison w.poolPoison a bs.length poison }
    let s' := s.setCrew c (w'.wrote a bs.length)
    { s' with windows := s.windows.map (fun x => x.touch c a bs.length) }
  | .hbm a => { s with hbm := msetN s.hbm a bs, hbmPoison := markPoison s.hbmPoison a bs.length poison }
  | .host a => { s with host := msetN s.host a bs, hostPoison := markPoison s.hostPoison a bs.length poison }
  | _ => s

/-! ### The directory (R84, R85) -/

/-- Line a of device HBM or the host window as the directory has it. -/
def State.line (s : State) (n : Nat) : DirLine := tget s.lines n emptyLine

/-- Does a cluster's slice hold a line? -/
def DirLine.heldBy (d : DirLine) (cluster : Nat) : Bool := smem d.sharers cluster || d.owner == some cluster

/-- A line without a cluster's copy, a dirty one of which is written back. -/
def DirLine.without (d : DirLine) (cluster : Nat) : DirLine :=
  let mine := d.owner == some cluster
  ⟨sdel d.sharers cluster, if mine then none else d.owner, if mine then false else d.dirty⟩

/-- A line evicted from a cluster's slice (R84). -/
def State.evict (s : State) (cluster line : Nat) : State :=
  let d := (s.line line).without cluster
  { s with lines := if d.sharers.isEmpty && d.owner.isNone then tdel s.lines line else tset s.lines line d }

/-- A line given a way of its set in a cluster's slice, 4,096 sets of 16: the most recently used stand first and the last is replaced; a
streaming line stands last (R84). The set is the low bits of the line's number (DESIGN CHOICE, log 80). -/
def State.allocate (s : State) (cluster line policy : Nat) : State :=
  let set := line % 4096
  let k := tget s.clusters cluster emptyCluster
  let old := (tget k.ways set []).filter (fun l => l != line && (s.line l).heldBy cluster)
  let kept := old.take 15
  let ways := if policy = 1 then kept ++ [line] else line :: kept
  (old.drop 15).foldl (fun t l => t.evict cluster l) { s with clusters := tset s.clusters cluster { k with ways := tset k.ways set ways } }

/-- The directory after a cached or uncached access by a cluster to the line of a physical address. A write
makes the cluster the owner of a dirty line; a read by another cluster has the line written back and
shared; an uncached access recalls it. Window frames and the fabric window hold no lines. -/
def State.touchLine (s : State) (cluster pa policy : Nat) (write : Bool) : State :=
  if isFabricPa pa then s
  else match s.locOf pa with
    | .pool _ _ => s
    | _ =>
      let n := pa / 128
      if policy = 2 then { s with lines := tdel s.lines n }
      else
        let d := s.line n
        let d' : DirLine :=
          if write then ⟨[cluster], some cluster, true⟩
          else if d.owner = some cluster then d
          else ⟨sadd d.sharers cluster, none, false⟩
        ({ s with lines := tset s.lines n d' } : State).allocate cluster n policy

/-- The directory after an access by a cluster to every line of n bytes at a physical address. -/
def State.touchRange (s : State) (cluster pa n policy : Nat) (write : Bool) : State :=
  (List.range ((pa + n + 127) / 128 - pa / 128)).foldl (fun t i => t.touchLine cluster (Nat.max pa (128 * (pa / 128 + i))) policy write) s

/-- Every line of n bytes at a physical address recalled and written back. -/
def State.recall (s : State) (pa n : Nat) : State :=
  { s with lines := s.lines.filter (fun l => decide (l.1 < pa / 128) || decide ((pa + n + 127) / 128 ≤ l.1)) }

/-! ### Page tables (R73 to R78) -/

/-- The fields of a leaf word (Table 4.3). -/
def leafClass (e : Nat) : Nat := field e 59 58
def leafPolicy (e : Nat) : Nat := field e 15 14
def leafFrame (e : Nat) : Nat := field e 51 16 * 65536
def leafMlock (e : Nat) : Bool := e.testBit 12
def leafHctl (e : Nat) : Bool := e.testBit 11
def leafAproxy (e : Nat) : Bool := e.testBit 10
def leafDirty (e : Nat) : Bool := e.testBit 7
def leafGlobal (e : Nat) : Bool := e.testBit 5

/-- Bytes of a page mapped by a leaf of a level. -/
def pageSize (level : Nat) : Nat := 2 ^ (16 + 10 * level)

/-- What an entry is at a level (R74 to R76, R80). -/
inductive Entry where
  | pointer (next : Nat)
  | leaf (e : Nat)
  | absent
  | malformed
  | notResident
  | notPresent
  deriving DecidableEq, Repr

/-- Is a leaf word of a level malformed (R76)? -/
def leafMalformed (level e : Nat) : Bool :=
  field e 63 60 != 0 || field e 57 52 != 0 || e.testBit 13 || field e 9 8 != 0
    || leafClass e == 3 || leafPolicy e == 3
    || leafFrame e % pageSize level != 0
    || !(isAssigned (leafFrame e))
    || (e.testBit 0 && decide (leafClass e < 2) && !(isHbmPa (leafFrame e)))
    || (level != 0 && (leafHctl e || leafMlock e))

/-- An entry classified. -/
def entryOf (level e : Nat) : Entry :=
  if e = 0 then .absent
  else if e.testBit 0 && field e 3 1 == 0 then
    (if level = 0 ∨ field e 63 52 ≠ 0 ∨ field e 12 1 ≠ 0 then .malformed else .pointer (field e 51 13 * 8192))
  else if level = 3 ∨ leafMalformed level e then .malformed
  else if e.testBit 0 then .leaf e
  else if leafClass e = 2 then .notPresent
  else if leafFrame e = 0 then .absent
  else .notResident

/-- What a walk finds: the leaf's level, the entry's physical address and its word, or why there is none; the last where a table lies
in host memory with both links down (none), or on a device that no route reaches (R372); `held` is a table in a stack that is not up (R13). -/
inductive Walk where
  | leaf (level addr e : Nat)
  | absent
  | malformed
  | notResident
  | notPresent
  | held
  | unreachable (dev : Option Nat)
  deriving DecidableEq, Repr

/-- The 8-byte table entry at a physical address, read coherently (R81). DESIGN CHOICE, log 96. -/
def State.entryAt (s : State) (pa : Nat) : Nat := ofBytes (s.rawBytes (s.locOf pa) 8)

/-- The index of a virtual address at a level (R73). -/
def vaIndex (level va : Nat) : Nat := va / 2 ^ (16 + 10 * level) % 1024

/-- Is the stack that holds a physical address trained, behind a boundary that is (R13, R376)? Only device HBM has stacks. DEDUCED, log 63. -/
def State.stackUp (s : State) (pa : Nat) : Bool :=
  match s.hbmOf pa with
  | some a => s.sys.stackUp (stackOf a)
  | none => true

/-- Does the sparse-update unit of a stack own the line of a physical address (R88)? -/
def State.suuOwns (s : State) (pa : Nat) : Bool :=
  match s.hbmOf pa with
  | some a => (tget s.suuLines (stackOf a) []).any (fun x => x.1 == a / 128)
  | none => false

/-- Does such a unit own a line of n bytes at a physical address? -/
def State.suuHolds (s : State) (a n : Nat) : Bool :=
  (List.range ((a + n + 127) / 128 - a / 128)).any (fun i => s.suuOwns (128 * (a / 128 + i)))

/-- The lines of n bytes at a physical address given back by the units that own them, as they may at any time within 2 µs of taking them (R88). -/
def State.giveBack (s : State) (a n : Nat) : State :=
  { s with suuLines := s.suuLines.map (fun q => (q.1, q.2.filter (fun x => decide (x.1 < a / 128) || decide ((a + n + 127) / 128 ≤ x.1)))) }

/-- Is there a valid route to a device that has not failed (R270)? -/
def State.routeUp (s : State) (dev : Nat) : Bool :=
  s.sys.lock && (List.range 4).any (fun i => let r := tget s.fabric.routes (4 * dev + i) 0; r.testBit 20 && !(r.testBit 21))

/-- Can a host-window access be carried: is the host link of a memory die up, and that die's boundary (R13, R372)? -/
def State.hostUp (s : State) : Bool :=
  (smem s.sys.links 0 && smem s.sys.memDies 0) || (smem s.sys.links 2 && smem s.sys.memDies 2)

/-- The device that cannot be reached for a place, none for the host; none of them where it can. -/
def State.cutOff (s : State) : Loc → Option (Option Nat)
  | .host _ => if s.hostUp then none else some none
  | .remote dev _ => if s.routeUp dev then none else some (some dev)
  | _ => none

/-- The walk from a table at level n - 1 downward (R73). -/
def State.walkFrom (s : State) (va : Nat) : Nat → Nat → Walk
  | 0, _ => .malformed
  | n + 1, table =>
    let addr := table + 8 * vaIndex n va
    if !(s.stackUp addr) then .held
    else match s.cutOff (s.locOf addr) with
    | some d => .unreachable d
    | none =>
      match entryOf n (s.entryAt addr) with
      | .pointer next => s.walkFrom va n next
      | .leaf e => .leaf n addr e
      | .absent => .absent
      | .malformed => .malformed
      | .notResident => .notResident
      | .notPresent => .notPresent

/-- The walk of a virtual address under a context. -/
def State.walk (s : State) (ctx va : Nat) : Walk := s.walkFrom va 4 (tget s.roots ctx 0)

/-- The rights an access needs (R77). -/
structure Need where
  read : Bool
  write : Bool
  exec : Bool
  /-- the monitor may access a page whatever its user bit holds -/
  monitor : Bool
  /-- the access writes now, so that the walker sets dirty first (R78) -/
  mark : Bool
  deriving DecidableEq, Repr

/-- Does a leaf grant what an access needs (R77)? -/
def grants (e : Nat) (n : Need) : Bool :=
  (!n.read || e.testBit 1) && (!n.write || e.testBit 2) && (!n.exec || e.testBit 3) && (n.monitor || e.testBit 4)

/-- What a translation yields (Table 4.5). -/
inductive Xlat where
  | ok (pa leaf : Nat)
  | absent
  | malformed
  | permission
  | notResident
  /-- not present, or mlock set -/
  | withheld
  /-- a table that cannot be reached: on a device, or in host memory -/
  | unreachable (dev : Option Nat)
  deriving DecidableEq, Repr

/-- A translation cache: clusters by number, base dies at 64 + stack (R81). -/
def State.cluster (s : State) (t : Nat) : Cluster := tget s.clusters t emptyCluster
def State.setCluster (s : State) (t : Nat) (k : Cluster) : State := { s with clusters := tset s.clusters t k }

/-- Does a cached entry serve a context and a virtual address? -/
def TlbEntry.hits (e : TlbEntry) (ctx va : Nat) : Bool :=
  (e.ctx == none || e.ctx == some ctx) && e.vpage == va / pageSize e.level

/-- The physical address of a virtual address through a leaf of a level. -/
def leafAddress (level e va : Nat) : Nat := leafFrame e + va % pageSize level
def State.leafPlace (s : State) (level e va : Nat) : Nat := s.ownHbm (leafAddress level e va)

/-- A translation through cache t for a context (R73 to R82), with the state after it: the walker sets accessed,
and dirty before a first write, and installs the leaf, only for an access that the rights allow (R78). DESIGN CHOICE, log 64. DEDUCED, log 65. -/
def State.translate (s : State) (t ctx va : Nat) (n : Need) : Xlat × State :=
  if 2 ^ 56 ≤ va then (.absent, s)
  else
    let hit := (s.cluster t).tlb.find? (fun e => e.hits ctx va && !(n.mark && !(leafDirty e.leaf)))
    match hit with
    | some e => if grants e.leaf n then (.ok (s.leafPlace e.level e.leaf va) e.leaf, s) else (.permission, s)
    | none =>
      match s.walk ctx va with
      | .absent => (.absent, s)
      | .malformed => (.malformed, s)
      | .notResident => (.notResident, s)
      | .notPresent => (.withheld, s)
      | .held => (.withheld, s)
      | .unreachable d => (.unreachable d, s)
      | .leaf level addr e =>
        if !(grants e n) then (.permission, s)
        else if leafMlock e then (.withheld, s)
        else
          let e1 := setBit e 6 true
          let e2 := if n.mark then setBit e1 7 true else e1
          let s1 := if e2 = e then s else s.writeLoc (s.locOf addr) (bytesOf 8 e2) false
          let k := s1.cluster t
          let new : TlbEntry := ⟨if leafGlobal e2 then none else some ctx, level, va / pageSize level, e2⟩
          let old := k.tlb.filter (fun x => !(x.ctx == new.ctx && x.level == new.level && x.vpage == new.vpage))
          let cap := if t < 64 then Config.clusterTlb else Config.stackTlb
          (.ok (s.leafPlace level e2 va) e2, s1.setCluster t { k with tlb := (new :: old).take cap })

/-! ### Handover-controlled pages (R261) -/

/-- The handover record of a frame. -/
def State.handover (s : State) (pa : Nat) : Option Handover := tfind s.handovers (pa / 65536)

/-- May a cluster access a byte of a page (R261)? False where the page is handover-controlled and another cluster
owns it. -/
def State.ownerOk (s : State) (cluster pa leaf : Nat) : Bool :=
  if leafHctl leaf then
    (match s.handover pa with | some h => h.owner == cluster | none => true)
  else true

/-- Does the owner's access wait for a line still in transit (R261)? -/
def State.inTransit (s : State) (pa leaf : Nat) : Bool :=
  leafHctl leaf && (match s.handover pa with
    | some h => h.state == 1 && decide (h.pushed ≤ pa % 65536 / 128)
    | none => false)

/-! ### The queue at the directory (R111 step 5, R314) -/

/-- Would an access to a virtual address of a context by a cluster be withheld: its page not present or in a migration fence, its stack not up, its line in
transit (R80, R111, R261)? -/
def State.withheldIn (s : State) (ctx cluster va : Nat) : Bool :=
  match s.walk ctx va with
  | .notPresent => true
  | .held => true
  | .leaf level _ e => let pa := s.leafPlace level e va
      leafMlock e || !(s.stackUp pa) || (s.ownerOk cluster pa e && s.inTransit pa e)
  | _ => false

/-- Would it be held up so, or by a sparse-update unit that owns its line (R88)? -/
def State.heldUp (s : State) (ctx cluster va : Nat) : Bool :=
  s.withheldIn ctx cluster va || (match s.walk ctx va with | .leaf level _ e => s.suuOwns (s.leafPlace level e va) | _ => false)

/-- An access that waits: whose it is, as 64 * core + strand, 16 + slot or 32 + NX key; its cluster, context and virtual address; and since when. -/
structure Waiter where
  who : Nat
  cluster : Nat
  ctx : Nat
  va : Nat
  since : Nat
  deriving DecidableEq, Repr

/-- Where a hold waits at the directory, and since when. -/
def Hold.waits : Hold → Option (Nat × Nat)
  | .withheld va t => some (va, t)
  | .freed va t => some (va, t)
  | .fetch va t => some (va, t)
  | _ => Option.none

/-- Where a command in progress waits at the directory, and since when. -/
def NxJob.waits (j : NxJob) : Option (Nat × Nat) := match j.gather with | some a => a.withheld | none => j.withheld

/-- The accesses of a crew that wait, by the place of each in its core. One that is being saved or ended leaves the queue. -/
def Crew.waiting (w : Crew) : List (Nat × Nat × Nat) :=
  if w.stopped || w.ending.isSome then []
  else w.strands.filterMap (fun k => k.2.hold.waits.map (fun x => (k.1, x)))
    ++ w.streams.slots.filterMap (fun a => a.2.withheld.map (fun x => (16 + a.1, x)))
    ++ w.nx.filterMap (fun j => j.2.waits.map (fun x => (32 + j.1, x)))

/-- The accesses that wait. -/
def State.waiters (s : State) : List Waiter :=
  s.cores.flatMap (fun k => if k.2.held then
    k.2.crew.waiting.map (fun x => ⟨64 * k.1 + x.1, clusterOf k.1, k.2.crew.info.ctx, x.2.1, x.2.2⟩) else [])

/-- The 64 KiB of physical addresses that a virtual address lies in, where an entry maps it. -/
def State.frameAt (s : State) (ctx va : Nat) : Option Nat :=
  match s.walk ctx va with
  | .leaf level _ e => some (s.leafPlace level e va / 65536)
  | _ => none

/-- Must an access of a core to a physical address wait because one that is no longer held up waits before it for the same 64 KiB (R111 step 5, R314)? `who` is
its place in its core. DEDUCED, log 16. -/
def State.behind (s : State) (core who pa : Nat) : Bool :=
  let here := s.waiters.filter (fun x => s.frameAt x.ctx x.va == some (pa / 65536))
  let since := ((here.find? (fun x => x.who == 64 * core + who)).map (fun x => x.since)).getD s.time
  here.any (fun x => x.who != 64 * core + who && decide (x.since < since) && !(s.heldUp x.ctx x.cluster x.va))

/-- Must an access of a core to n bytes at a physical address wait at the directory: for its stack, for a line in transit or with a sparse-update unit (R88), or for
one before it? -/
def State.mustWait (s : State) (core who pa leaf n : Nat) : Bool :=
  s.inTransit (pa + n - 1) leaf || !(s.stackUp pa) || s.suuHolds pa n || s.behind core who pa

/-! ### Save areas (R7, R352) -/

/-- Do n bytes at a virtual address share a byte with [lo, hi) of the save area of a crew (Table 13.3)? -/
def CrewInfo.inSave (i : CrewInfo) (va n lo hi : Nat) : Bool :=
  i.saveSize != 0 && decide (va < i.saveBase.toNat + hi) && decide (i.saveBase.toNat + lo < va + n)

/-- Is an access to n bytes at a virtual address, of a strand or of a command that it dispatched, one that software must not make: to the save area of a
crew on a core or suspended, but for a read of a header and the use of its crew's trap frames in its handler (R352)? DEDUCED, log 87. -/
def State.saveBarred (s : State) (core strand va n : Nat) (write : Bool) : Bool :=
  let i := (s.crew core).info
  s.liveCrews.any (fun w =>
    w.info.ctx == i.ctx && w.info.inSave va n 0 0x440000
      && (write || w.info.inSave va n 0 0x400000 || w.info.inSave va n 0x401000 0x440000)
      && !(w.info.tag == i.tag && (s.strandAt core strand).inHandler && !(w.info.inSave va n 0 0x402000) && !(w.info.inSave va n 0x403000 0x440000)))

/-! ### Scalar reach: translation and its outcome for a strand (R128, Table 4.5) -/

/-- What a scalar access reaches: a physical address and its leaf, a trap, a device or the host that cannot be reached, or a withheld
access. -/
inductive Reach where
  | ok (pa leaf : Nat)
  | trap (cause : Cause)
  | cut (dev : Option Nat)
  | wait
  deriving DecidableEq, Repr

/-- The outcome of a translation for a scalar access, a fetch or a dispatch, given what a usable leaf and a withheld page come to. -/
def Xlat.reach (ok : Nat → Nat → Reach) (withheld : Reach) : Xlat → Reach
  | .ok pa leaf => ok pa leaf
  | .absent => .trap causePageNotPresent
  | .malformed => .trap causePageNotPresent
  | .permission => .trap causePermission
  | .notResident => .trap causeLatencyBroken
  | .unreachable d => .cut d
  | .withheld => withheld

/-- The place in a core of an access that the monitor makes (R343, R348). -/
def whoMonitor : Nat := 63

/-- A global access of a core to n bytes at a virtual address, by the strand or other party `who` of it (R128 step 3, R261). -/
def State.reach (s : State) (core who va n : Nat) (need : Need) : Reach × State :=
  let cl := clusterOf core
  let r := s.translate cl (s.crew core).info.ctx va need
  (r.1.reach (fun pa leaf =>
      if !(s.ownerOk cl pa leaf) then .trap causeOwner else if s.mustWait core who pa leaf n then .wait else .ok pa leaf) .wait, r.2)

/-- A page that a registered window, a spill ring or a receive ring binds for a core: a leaf of class 0 or 1 that grants reads and writes, hctl clear where
`plain` asks it, or CONFIG (R121 step 2, R161 step 2, R250). Nothing is accessed, so neither owner nor transit counts. -/
def State.bindPage (s : State) (core va : Nat) (plain mark : Bool) : Reach × State :=
  let ctx := (s.crew core).info.ctx
  let bad := fun (e : Nat) => leafClass e == 2 || (plain && leafHctl e)
  let r := s.translate (clusterOf core) ctx va ⟨true, true, false, false, mark⟩
  (r.1.reach (fun pa leaf => if bad leaf then .trap causeConfig else if s.stackUp pa then .ok pa leaf else .wait)
    (match s.walk ctx va with
      | .leaf _ _ e => if bad e then .trap causeConfig else .wait
      | _ => .wait), r.2)

/-- A scalar access of the current strand to n bytes at a virtual address: one that software must not make traps with CONFIG (R7). -/
def State.scalarReach (s : State) (va n : Nat) (need : Need) : Reach × State :=
  let r := s.reach s.cur.core s.cur.strand va n need
  (match r.1 with
    | .ok pa leaf => if !s.me.monitor && s.saveBarred s.cur.core s.cur.strand va n need.write then .trap causeConfig else .ok pa leaf
    | e => e, r.2)

/-- The trap of an access that no route carries: tval is the device identifier (Table 13.1). -/
def State.unreachable (s : State) (dev : Nat) : State := s.takeTrap causeFabricUnreachable (BitVec.ofNat 64 dev)

/-- The trap of an access to host memory while no host link is up. The host window has no device identifier: the spec states no
value for csr_tval (DESIGN CHOICE, log 32). -/
def State.hostUnreachable (s : State) : State := s.takeTrap causeFabricUnreachable (BitVec.ofNat 64 (s.freeNat 33))

/-- The trap of an access cut off from a device, or from the host. -/
def State.cutTrap (s : State) : Option Nat → State
  | some dev => s.unreachable dev
  | none => s.hostUnreachable

/-- The csr_tval of that trap. -/
def State.cutValue (s : State) : Option Nat → Nat
  | some dev => dev
  | none => s.freeNat 33

/-- May others than the owning crew write the window byte at a place (R122)? -/
def State.windowWritable (s : State) (core pa : Nat) : Bool :=
  match (s.hbmOf pa).bind (windowByte s.windows) with
  | some (w, _) => w.rwrite || w.core == core
  | none => true

/-! ### Store buffers (R127) -/

/-- The place a buffered store goes to. -/
def State.bufLoc (s : State) (core : Nat) : BufAddr → Loc
  | .sp a => .pool core a
  | .phys pa => s.locOf pa

/-- A buffered store performed at its point of coherence: a sparse-update unit that owns its line gives it back first (R88). -/
def State.perform (s : State) (core : Nat) (b : BufStore) : State :=
  let s1 := s.writeLoc (s.bufLoc core b.addr) b.bytes false
  match b.addr with
  | .sp _ => s1
  | .phys pa => (s1.giveBack pa b.bytes.length).touchLine (clusterOf core) pa b.policy true

/-- Buffered stores performed in order. -/
def State.performAll (s : State) (core : Nat) : List BufStore → State
  | [] => s
  | b :: bs => (s.perform core b).performAll core bs

/-- A strand's whole store buffer drained. -/
def State.drainStrand (s : State) (core k : Nat) : State :=
  let t := s.strandAt core k
  (s.setStrandAt core k { t with buffer := [] }).performAll core t.buffer

/-- How many entries of a buffer must be performed so that none left overlaps n bytes at a place. -/
def State.overlapDepth (s : State) (core : Nat) (l : Loc) (n : Nat) : List BufStore → Nat
  | [] => 0
  | b :: bs =>
    let d := s.overlapDepth core l n bs
    if d ≠ 0 then d + 1 else if (s.bufLoc core b.addr).overlap b.bytes.length l n then 1 else 0

/-- A strand's buffer drained up to its last store that overlaps n bytes at a place (R129: one strand's accesses
to a byte are in program order). -/
def State.drainOverlap (s : State) (core k : Nat) (l : Loc) (n : Nat) : State :=
  let t := s.strandAt core k
  let d := s.overlapDepth core l n t.buffer
  (s.setStrandAt core k { t with buffer := t.buffer.drop d }).performAll core (t.buffer.take d)

/-- The latest buffered byte for a place, if any (R127 forwarding). -/
def State.forward (s : State) (core : Nat) (l : Loc) : List BufStore → Option Byte
  | [] => none
  | b :: bs =>
    match s.forward core l bs with
    | some v => some v
    | none =>
      match s.bufLoc core b.addr, l with
      | .pool c a, .pool d x => if c = d ∧ a ≤ x ∧ x < a + b.bytes.length then b.bytes[x - a]? else none
      | .hbm a, .hbm x => if a ≤ x ∧ x < a + b.bytes.length then b.bytes[x - a]? else none
      | _, _ => none

/-- n bytes as a strand's load sees them: buffered stores over memory. DESIGN CHOICE, log 90. -/
def State.loadBytes (s : State) (core k : Nat) (l : Loc) : Nat → List Byte
  | 0 => []
  | n + 1 => (match s.forward core l (s.strandAt core k).buffer with
      | some v => v
      | none => s.byteAt l) :: s.loadBytes core k (l.plus 1) n

/-- Does the current strand's buffer hold every one of n bytes at a place? -/
def State.allForwarded (s : State) (l : Loc) (n : Nat) : Bool :=
  (List.range n).all (fun i => (s.forward s.cur.core (l.plus i) s.me.buffer).isSome)

/-- The current strand with a store appended to its buffer. -/
def State.pushStore (s : State) (addr : BufAddr) (bs : List Byte) (policy : Nat) : State :=
  s.setMe { s.me with buffer := s.me.buffer ++ [⟨addr, bs, policy⟩] }

/-- Is the current strand's store buffer full? -/
def State.bufferFull (s : State) : Bool := decide (Config.bufferDepth ≤ s.me.buffer.length)

/-- The current strand held by a withheld access, keeping the time of its first wait (R80, R274). -/
def State.holdWithheld (s : State) (va : Nat) : State :=
  match s.me.hold with
  | .withheld v t => s.setMe { s.me with hold := .withheld va (if v = va then t else s.time) }
  | .freed v t => s.setMe { s.me with hold := .withheld va (if v = va then t else s.time) }
  | _ => s.setMe { s.me with hold := .withheld va s.time }

end Sys2Proof.Machine
end

