-- ==== Sys2Proof/Machine/Fabric.lean ====
section
/-!
DEFINITION. Sending on the Nueth fabric (R267 to R270): flows, retry buffers, routes. The op codes of a class are not
given by the spec; the model names them here (DESIGN CHOICE, log 31).
-/
namespace Sys2Proof.Machine
open Sys2Proof

/-- Packet classes (Table 9.8). -/
def clsRequest : Nat := 0
def clsResponse : Nat := 1
def clsAtomic : Nat := 2
def clsCollective : Nat := 3

/-- The model's operation codes: read, write, ring admission, update, atomic,
pair of endpoints, token, demand, barrier arrival, chunk, answer, instruction fetch, group entry, loss, acknowledgement, parts of a chunk complete, a
packet given up. -/
def opRead : Nat := 0
def opWrite : Nat := 1
def opAdmit : Nat := 2
def opUpdate : Nat := 3
def opAtomic : Nat := 4
def opPair : Nat := 5
def opToken : Nat := 6
def opDemand : Nat := 7
def opJoin : Nat := 8
def opChunk : Nat := 9
def opAnswer : Nat := 10
def opFetch : Nat := 11
def opGroup : Nat := 12
def opLoss : Nat := 13
def opAck : Nat := 14
def opReady : Nat := 15
def opVoid : Nat := 16

/-- What asks in a read or a write and takes its answer: a strand, a stream, an NX command, the CP, a fetch, a stream's token, an NX command's packet; a write
whose refusal nobody takes. It stands in operation field 1 of request and response. -/
def forStrand : Nat := 0
def forStream : Nat := 1
def forJob : Nat := 2
def forCp : Nat := 3
def forFetch : Nat := 4
def forToken : Nat := 5
def forPacket : Nat := 6
def forNobody : Nat := 7

/-- The widths of the operation fields of a class and operation, from bit 0 of the 20 bytes on. -/
def auxWidths (cls op : Nat) : List Nat :=
  if cls = clsResponse then [16, 3, 9, 7, 56, 64]
  else match op with
  | 2 => [13, 2, 32, 64, 3, 9, 7]
  | 3 => [4, 32, 1, 9, 4, 50, 56]
  | 4 => [4, 7, 64, 64, 1, 16, 3]
  | 5 => [1, 32, 32, 32, 32]
  | 6 => [32, 32, 32, 8]
  | 7 => [32, 32, 32, 32]
  | 8 => [32, 16, 48, 48]
  | 9 => [20, 44, 3, 8, 32, 20, 32]
  | 10 => [8, 120]
  | 12 => [16, 16]
  | 13 => [32]
  | 15 => [32, 32]
  | _ => [16, 3, 9, 7, 56, 64]

/-- Fields packed into one number, the first at bit 0; and field i of such a number. -/
def packFields : List Nat → List Nat → Nat
  | w :: ws, v :: vs => v % 2 ^ w + 2 ^ w * packFields ws vs
  | _, _ => 0
def fieldAt (ws : List Nat) (i x : Nat) : Nat := x / 2 ^ (ws.take i).foldl (· + ·) 0 % 2 ^ ws.getD i 0

/-- Operation field i of a packet. -/
def Packet.field (p : Packet) (i : Nat) : Nat := fieldAt (auxWidths p.cls p.op) i p.aux

/-- Does a packet carry an access of a crew to another device's memory? -/
def Packet.isAccess (p : Packet) : Bool :=
  p.cls != clsResponse && (p.op == opRead || p.op == opWrite || p.op == opUpdate || p.op == opAtomic || p.op == opFetch)

/-- The outgoing flow to a device in a class. -/
def State.flow (s : State) (dst cls : Nat) : FlowOut := tget s.fabric.out (4 * dst + cls) emptyFlow
def State.setFlow (s : State) (dst cls : Nat) (f : FlowOut) : State :=
  { s with fabric := { s.fabric with out := tset s.fabric.out (4 * dst + cls) f } }

/-- May another packet enter a flow (R268: at most 1,024 unacknowledged)? -/
def State.flowOpen (s : State) (dst cls : Nat) : Bool := decide ((s.flow dst cls).unacked.length < 1024)

/-- The route in use to a device: its first valid one that has not failed (R270); and its tag. -/
def State.routeInUse (s : State) (dev : Nat) : Option Nat :=
  (List.range 4).find? (fun i => let r := tget s.fabric.routes (4 * dev + i) 0; r.testBit 20 && !(r.testBit 21))
def State.routeTag (s : State) (dev : Nat) : Nat :=
  match s.routeInUse dev with
  | some i => field (tget s.fabric.routes (4 * dev + i) 0) 19 4
  | none => 0

/-- The number of the request that a response which refuses it answers, none for another packet. -/
def Packet.refuses (p : Packet) : Option Nat :=
  if p.op != opAnswer || p.field 0 == 0 then none
  else if p.field 1 = forStrand then some (p.field 4)
  else if p.field 1 = forToken then some (p.field 5 / 2 ^ 32)
  else if p.field 1 = forPacket then some (p.field 5)
  else none

/-- The number that acknowledges what has been accepted up to `seq` of a source's requests: a request that was refused, and those after it, are acknowledged
once the source has acknowledged the refusal, so that the refusal comes first (R268, R269). DEDUCED, log 47. -/
def State.ackLimit (s : State) (src seq : Nat) : Nat :=
  ((s.flow src clsResponse).unacked.filterMap Packet.refuses).foldl (fun n r =>
    if (n + 65536 - r) % 65536 < 32768 then (r + 65535) % 65536 else n) seq

/-- The number of the last packet accepted of a flow from a device, as a header acknowledges it. -/
def State.lastAccepted (s : State) (src cls : Nat) : Nat :=
  let n := (tget s.fabric.expect (4 * src + cls) 0 + 65535) % 65536
  if cls = clsRequest then s.ackLimit src n else n

/-- The header's bytes up to 0x3B, and the CRC-32C over these and the payload (Table 9.8). -/
def Packet.header (p : Packet) : List Byte :=
  bytesOf 2 p.dst ++ bytesOf 2 p.src ++ bytesOf 1 p.cls ++ bytesOf 1 p.op ++ bytesOf 2 p.seq ++ bytesOf 2 p.payload.length ++ bytesOf 2 p.ack ++
    bytesOf 2 p.route ++ bytesOf 2 0 ++ bytesOf 8 p.addr ++ bytesOf 16 p.poison ++ bytesOf 20 p.aux
def Packet.crc (p : Packet) : Nat := crc32c (p.header ++ p.payload)

/-- The core number of a packet that no crew causes. -/
def nobody : Nat := Config.coreCount

/-- Who causes a packet: the crew of a core by its tag plus 1, or 0. -/
def State.issuerOf (s : State) (core : Nat) : Nat := if (s.core core).held then (s.crew core).info.tag + 1 else 0

/-- A packet numbered, kept in the retry buffer and sent (R268). Of a flow's unacknowledged packets the first 1,024 are on
their way and the others wait. -/
def State.send (s : State) (dst cls op addr : Nat) (aux : List Nat) (payload : List Byte) (poison issuer : Nat) : State :=
  let f := s.flow dst cls
  let p : Packet := ⟨dst, s.sys.devid, cls, op, f.next, addr, poison, packFields (auxWidths cls op) aux, payload, s.issuerOf issuer, s.lastAccepted dst cls, s.routeTag dst⟩
  s.setFlow dst cls { f with next := (f.next + 1) % 65536, unacked := f.unacked ++ [p] }

/-- What the device sends back to a source: an acknowledgement or an answer (R268, R269). -/
def State.reply (s : State) (p : Packet) : State := { s with fabric := { s.fabric with sent := p :: s.fabric.sent } }

/-- The answer to an atomic-class packet as the response cache holds it: the value, poison, a status code and its detail. -/
def atomicAnswer (value : Nat) (poison : Bool) (code detail : Nat) : Nat :=
  value % 2 ^ 64 + 2 ^ 64 * b2n poison + 2 ^ 65 * (code % 256) + 2 ^ 73 * detail

/-- The answer sent to a source with its acknowledgement, over a route to it (R268, R269). -/
def State.sendAnswer (s : State) (src seq ans : Nat) : State :=
  if s.routeUp src then
    s.reply ⟨src, s.sys.devid, clsAtomic, opAnswer, seq, 0, field ans 64 64, packFields (auxWidths clsAtomic opAnswer) [field ans 72 65, ans / 2 ^ 73], bytesOf 8 ans, 0,
      s.lastAccepted src clsAtomic, s.routeTag src⟩
  else s

/-- An executed atomic-class packet answered, and its answer cached (R269: the last 1,024 of a source). -/
def State.answerAtomic (s : State) (src seq ans : Nat) : State :=
  let c := ((seq, ans) :: tget s.fabric.cache src []).take 1024
  ({ s with fabric := { s.fabric with cache := tset s.fabric.cache src c } } : State).sendAnswer src seq ans

end Sys2Proof.Machine
end

