-- ==== Sys2Proof/Machine/Access.lean ====
section
/-!
DEFINITION. Scalar loads, stores, ordered and cache forms, atomics, and the agents' steps that finish them (spec 05,
R117 to R134; spec 04, R80).
-/
namespace Sys2Proof.Machine
open Sys2Proof

/-- The rights a load, a store and an atomic of the current strand need (R77). -/
def State.needLoad (s : State) : Need := ⟨true, false, false, s.me.monitor, false⟩
def State.needStore (s : State) : Need := ⟨false, true, false, s.me.monitor, true⟩
def State.needAtomic (s : State) (mark : Bool) : Need := ⟨true, true, false, s.me.monitor, mark⟩

/-! ### The sp space (R117, R118) -/

/-- What an sp address reaches. -/
inductive SpPlace where
  | scratch
  /-- a word of the mapping entries, by its number 0 to 31 -/
  | entry (n : Nat)
  /-- a multicast map -/
  | map (n : Nat)
  | nothing
  deriving DecidableEq, Repr

/-- Table 5.2. -/
def spPlace (size ea : Nat) : SpPlace :=
  if ea < size then .scratch
  else if 0x400000 ≤ ea ∧ ea < 0x400100 then .entry ((ea - 0x400000) / 8)
  else if 0x400100 ≤ ea ∧ ea < 0x400180 then .map ((ea - 0x400100) / 8)
  else .nothing

/-- Is mapping entry j of the crew valid? -/
def Crew.entryValid (w : Crew) (j : Nat) : Bool := (tget w.entries (4 * j) 0).getLsbD 0

/-- The loaded value, or the poison trap, of a local load (R128, R129). -/
def State.finishLoad (s : State) (d : Reg) (ea : Word) (l : Loc) (size : Nat) (sext : Bool) (len : Nat) : State :=
  let c := s.cur.core
  let k := s.cur.strand
  if s.poisonedAt l size && !(s.allForwarded l size) then s.takeTrap causePoisonConsumed ea
  else s.setMe ((s.me.setX d (loadExtend sext size (ofBytes (s.loadBytes c k l size)))).complete len)

/-- A load of `size` bytes from the sp space (R117, R118, R128, R129). -/
def State.loadSp (s : State) (d : Reg) (ea : Word) (size : Nat) (sext : Bool) : State :=
  if ea.toNat % size ≠ 0 then s.takeTrap causeMisaligned ea
  else match spPlace s.mine.spSize ea.toNat with
    | .scratch => s.finishLoad d ea (.pool s.cur.core ea.toNat) size sext 4
    | .entry n =>
      if size = 8 then s.setMe ((s.me.setX d (tget s.mine.entries n 0)).complete 4) else s.takeTrap causeConfig ea
    | .map n =>
      if size = 8 then s.setMe ((s.me.setX d (tget s.mine.maps n 0)).complete 4) else s.takeTrap causeConfig ea
    | .nothing => s.takeTrap causeBounds ea

/-- A store to a word of the mapping entries (R118, R120, R121, R123). Setting or clearing valid holds the strand until
WINDOW_REGISTER or WINDOW_UNREGISTER has finished. -/
def State.storeEntry (s : State) (n : Nat) (ea v : Word) : State :=
  let w := s.mine
  let valid := w.entryValid (n / 4)
  if n % 4 = 0 then
    if field v.toNat 63 3 ≠ 0 then s.takeTrap causeConfig ea
    else if valid && v.getLsbD 0 then s.takeTrap causeConfig ea
    else if valid || v.getLsbD 0 then s.setMe { s.me with hold := .window (n / 4) v none }
    else (s.setMine { w with entries := tset w.entries n v }).complete 4
  else if valid then s.takeTrap causeConfig ea
  else (s.setMine { w with entries := tset w.entries n v }).complete 4

/-- A store to a multicast map (R118, R119). -/
def State.storeMap (s : State) (n : Nat) (ea v : Word) : State :=
  if field v.toNat 63 48 ≠ 0 then s.takeTrap causeConfig ea
  else (s.setMine { s.mine with maps := tset s.mine.maps n v }).complete 4

/-- A store of `size` bytes to the sp space (R117, R118, R127 to R129). -/
def State.storeSp (s : State) (v ea : Word) (size : Nat) : State :=
  if ea.toNat % size ≠ 0 then s.takeTrap causeMisaligned ea
  else match spPlace s.mine.spSize ea.toNat with
    | .scratch =>
      if s.bufferFull then s else (s.pushStore (.sp ea.toNat) (bytesOf size v.toNat) 0).complete 4
    | .entry n => if size = 8 then s.storeEntry n ea v else s.takeTrap causeConfig ea
    | .map n => if size = 8 then s.storeMap n ea v else s.takeTrap causeConfig ea
    | .nothing => s.takeTrap causeBounds ea

/-! ### The global space (R128, R129) -/

/-- The strand held until an access sent to another device answers. -/
def State.holdResponse (s : State) (p : Pending) : State := s.setMe { s.me with hold := .response p }

/-- A load from the global space; len is the instruction's length. -/
def State.loadGl (s : State) (d : Reg) (ea : Word) (size : Nat) (sext : Bool) (len : Nat) : State :=
  if ea.toNat % size ≠ 0 then s.takeTrap causeMisaligned ea
  else
    let r := s.scalarReach ea.toNat size s.needLoad
    let s' := r.2
    match r.1 with
    | .trap c => s'.takeTrap c ea
    | .cut dev => s'.cutTrap dev
    | .wait => s'.holdWithheld ea.toNat
    | .ok pa leaf =>
      match s'.cutOff (s'.locOf pa), s'.locOf pa with
      | some dev, _ => s'.cutTrap dev
      | none, .remote dev a =>
        let seq := (s'.flow dev clsRequest).next
        (s'.send dev clsRequest opRead a [size, forStrand, s.cur.core, s.cur.strand, seq] [] 0 s.cur.core).holdResponse
          ⟨d.toNat, size, sext, false, none, ea.toNat, pa, none, [], len, s.time, seq⟩
      | none, l => (s'.touchLine (clusterOf s.cur.core) pa (leafPolicy leaf) false).finishLoad d ea l size sext len

/-- A store to the global space. Stores to device HBM are posted; stores to the host and fabric windows
hold the strand until acknowledged (R127). With `rel`, earlier buffered stores are performed first. -/
def State.storeGl (s : State) (v ea : Word) (size : Nat) (len : Nat) (rel : Bool) : State :=
  if ea.toNat % size ≠ 0 then s.takeTrap causeMisaligned ea
  else
    let r := s.scalarReach ea.toNat size s.needStore
    let s' := r.2
    let bs := bytesOf size v.toNat
    match r.1 with
    | .trap c => s'.takeTrap c ea
    | .cut dev => s'.cutTrap dev
    | .wait => s'.holdWithheld ea.toNat
    | .ok pa leaf =>
      let drained := if rel then s'.drainStrand s.cur.core s.cur.strand else s'
      match s'.cutOff (s'.locOf pa), s'.locOf pa with
      | some dev, _ => s'.cutTrap dev
      | none, .remote dev a =>
        let seq := (drained.flow dev clsRequest).next
        (drained.send dev clsRequest opWrite a [size, forStrand, s.cur.core, s.cur.strand, seq] bs 0 s.cur.core).holdResponse
          ⟨0, size, false, true, none, ea.toNat, pa, none, bs, len, s.time, seq⟩
      | none, .host a =>
        ((drained.writeLoc (.host a) bs false).touchLine (clusterOf s.cur.core) pa (leafPolicy leaf) true).complete len
      | none, _ =>
        if !(s'.windowWritable s.cur.core pa) then s'.takeTrap causePermission ea
        else if s'.bufferFull then s'
        else (s'.pushStore (.phys pa) bs (leafPolicy leaf)).complete len

/-! ### Meanings: loads and stores -/

/-- R129. -/
def execLdSp (d a : Reg) (z : BitVec 3) (o : BitVec 8) (g : Pred) (s : State) : Out :=
  .next (if s.me.getP g then
      s.loadSp d (scaledAddress (s.me.getX a) o (accessSize z.toNat)) (accessSize z.toNat) (szSigned z.toNat)
    else s.complete 4)

/-- R129. -/
def execStSp (x a : Reg) (z : BitVec 2) (o : BitVec 8) (g : Pred) (s : State) : Out :=
  .next (if s.me.getP g then
      s.storeSp (s.me.getX x) (scaledAddress (s.me.getX a) o (accessSize z.toNat)) (accessSize z.toNat)
    else s.complete 4)

/-- R129. -/
def execLdGl (d a : Reg) (z : BitVec 3) (o : BitVec 8) (g : Pred) (s : State) : Out :=
  .next (if s.me.getP g then
      s.loadGl d (scaledAddress (s.me.getX a) o (accessSize z.toNat)) (accessSize z.toNat) (szSigned z.toNat) 4
    else s.complete 4)

/-- R129. -/
def execStGl (x a : Reg) (z : BitVec 2) (o : BitVec 8) (g : Pred) (s : State) : Out :=
  .next (if s.me.getP g then
      s.storeGl (s.me.getX x) (scaledAddress (s.me.getX a) o (accessSize z.toNat)) (accessSize z.toNat) 4 false
    else s.complete 4)

/-- R130: the load completes before any later access of the strand, so it is an acquire at every scope. -/
def execLdAcq (d a : Reg) (z c : BitVec 3) (g : Pred) (s : State) : Out :=
  .next (if s.me.getP g ∧ c.toNat ≤ 5 then
      s.loadGl d (s.me.getX a) (accessSize z.toNat) (szSigned z.toNat) 4
    else s.complete 4)

/-- R130: the buffer is performed in order, so every earlier store is performed before this one. -/
def execStRel (x a : Reg) (z : BitVec 2) (c : BitVec 3) (g : Pred) (s : State) : Out :=
  .next (if s.me.getP g ∧ c.toNat ≤ 5 then s.storeGl (s.me.getX x) (s.me.getX a) (accessSize z.toNat) 4 true
    else s.complete 4)

/-- R131. -/
def execLdGlL (d a : Reg) (z : BitVec 3) (w2 : Half) (g : Pred) (s : State) : Out :=
  .next (if s.me.getP g then
      s.loadGl d (longAddress (s.me.getX a) w2) (accessSize z.toNat) (szSigned z.toNat) 8
    else s.complete 8)

/-- R131. -/
def execStGlL (x a : Reg) (z : BitVec 2) (w2 : Half) (g : Pred) (s : State) : Out :=
  .next (if s.me.getP g then
      s.storeGl (s.me.getX x) (longAddress (s.me.getX a) w2) (accessSize z.toNat) 8 false
    else s.complete 8)

/-! ### Cache forms (R130) -/

/-- pf: the line fetched into the cluster's slice; any failure drops it, and no page-table entry changes (R130). -/
def State.prefetch (s : State) (ea : Word) : State :=
  let r := s.reach s.cur.core s.cur.strand ea.toNat 1 s.needLoad
  match r.1 with
  | .ok pa leaf =>
    if leafPolicy leaf = 2 ∨ isFabricPa pa ∨ (s.cutOff (s.locOf pa)).isSome then s
    else s.touchLine (clusterOf s.cur.core) pa (leafPolicy leaf) false
  | _ => s

/-- Does a cache form of a scope reach every slice? Scopes .dv and wider do. -/
def wideScope (c : Nat) : Bool := decide (3 ≤ c)

/-- A line of a registered window's region written to its backing frame with its poison marks (R123). -/
def State.writeWindowLine (s : State) (x : Window) (line : Nat) : State :=
  let q := x.spoff + 128 * line
  let pa := (x.frames.getD (line / 512) 0) + 128 * (line % 512)
  let w := s.crew x.core
  let marks := (List.range 4).foldl (fun t i =>
    if smem w.poolPoison (q / 32 + i) then sadd t (pa / 32 + i) else sdel t (pa / 32 + i)) s.hbmPoison
  { s with
    hbm := msetN s.hbm pa (mgetN w.pool q 128)
    hbmPoison := marks
    windows := s.windows.map (fun y =>
      if y.core = x.core ∧ y.entry = x.entry then { y with dirty := sdel y.dirty line } else y) }

/-- The line of a physical address written back: by the issuing cluster's slice, or with a wide scope by every slice
and by the pool of a window holding it (R130). -/
def State.writeBack (s : State) (cluster pa : Nat) (wide : Bool) : State :=
  match (if isHbmPa pa then windowByte s.windows pa else none) with
  | some (x, q) => if wide then s.writeWindowLine x ((q - x.spoff) / 128) else s
  | none =>
    let d := s.line (pa / 128)
    if d.dirty && (wide || d.owner == some cluster) then
      { s with lines := tset s.lines (pa / 128) { d with owner := none, dirty := false } }
    else s

/-- Clean copies of the line removed from the issuing cluster's slice, or with a wide scope from every slice (R130). -/
def State.invalidateLine (s : State) (cluster pa : Nat) (wide : Bool) : State :=
  let d := s.line (pa / 128)
  if d.dirty then s
  else if wide then { s with lines := tdel s.lines (pa / 128) }
  else { s with lines := tset s.lines (pa / 128) { d with sharers := sdel d.sharers cluster } }

/-- A cache form on the line of ea (R130): the read right is needed, traps are those of R128 but for MISALIGNED, and
an uncached or fabric-window line is left alone. The strand's earlier stores are performed first. -/
def State.cacheForm (s : State) (ea : Word) (f : State → Nat → State) : State :=
  let r := s.scalarReach ea.toNat 1 s.needLoad
  match r.1 with
  | .trap c => r.2.takeTrap c ea
  | .cut dev => r.2.cutTrap dev
  | .wait => r.2.holdWithheld ea.toNat
  | .ok pa leaf =>
    let s1 := r.2.drainStrand s.cur.core s.cur.strand
    if leafPolicy leaf = 2 ∨ isFabricPa pa then s1.complete 4
    else match r.2.cutOff (r.2.locOf pa) with
      | some dev => r.2.cutTrap dev
      | none => (f s1 pa).complete 4

/-- R130. -/
def execPf (a : Reg) (_c : BitVec 3) (g : Pred) (s : State) : Out :=
  .next (if s.me.getP g then (s.prefetch (s.me.getX a)).complete 4 else s.complete 4)

/-- R130. -/
def execClWb (a : Reg) (c : BitVec 3) (g : Pred) (s : State) : Out :=
  .next (if s.me.getP g then
      s.cacheForm (s.me.getX a) (fun t pa => t.writeBack (clusterOf s.cur.core) pa (wideScope c.toNat))
    else s.complete 4)

/-- R130. -/
def execClInv (a : Reg) (c : BitVec 3) (g : Pred) (s : State) : Out :=
  .next (if s.me.getP g then
      s.cacheForm (s.me.getX a) (fun t pa => t.invalidateLine (clusterOf s.cur.core) pa (wideScope c.toNat))
    else s.complete 4)

/-- R130. -/
def execClWbinv (a : Reg) (c : BitVec 3) (g : Pred) (s : State) : Out :=
  .next (if s.me.getP g then
      s.cacheForm (s.me.getX a) (fun t pa =>
        (t.writeBack (clusterOf s.cur.core) pa (wideScope c.toNat)).invalidateLine (clusterOf s.cur.core) pa
          (wideScope c.toNat))
    else s.complete 4)

/-! ### Atomics (R132 to R134) -/

/-- One f32 or bf16 addition, rne, subnormals honoured, canonical NaN (R134). -/
def addFloat (code x y : Nat) : Nat := (roundNum code .rne 0 false false (addNum .rne (numOf code x) (numOf code y)).1).1

/-- The new value of an atomic: op, width in bits, old value, operand, compare value (R134). -/
def atomicNew (op n m o cmp : Nat) : Nat :=
  match op with
  | 0 => (m + o) % 2 ^ n
  | 1 => Nat.land m o
  | 2 => Nat.lor m o
  | 3 => m.xor o
  | 4 => if sintOf n m < sintOf n o then m else o
  | 5 => if sintOf n o < sintOf n m then m else o
  | 6 => if m < o then m else o
  | 7 => if o < m then m else o
  | 8 => o
  | 9 => if m = cmp then o else m
  | 10 => addFloat 6 m o
  | _ => addFloat 7 (m % 65536) (o % 65536) + 65536 * addFloat 7 (m / 65536) (o / 65536)

/-- The register value an atomic returns (Table 5.7). -/
def atomicReturn (op n m : Nat) : Word :=
  if 10 ≤ op then BitVec.ofNat 64 m else if n = 32 then loadExtend true 4 m else BitVec.ofNat 64 m

/-- Is a route able to carry the atomic (R133)? The host window uncached takes add, swap and cas; the fabric takes
integer operations, and float ones where aproxy is set. -/
def State.atomicCarried (s : State) (op pa leaf : Nat) : Bool :=
  match s.locOf pa with
  | .remote _ _ => decide (op < 10) || leafAproxy leaf
  | .host _ => leafPolicy leaf != 2 || ((op == 0 || op == 8 || op == 9) && Config.hostAtomics)
  | _ => true

/-- An atomic executed at its point of execution on a local place: writes, returns the old value in d. -/
def State.runAtomic (s : State) (op : Nat) (d : Reg) (ea : Word) (l : Loc) (pa leaf n o cmp len : Nat) : State :=
  if s.poisonedAt l (n / 8) then s.takeTrap causePoisonConsumed ea
  else
    let m := ofBytes (s.bytesAt l (n / 8))
    if op = 9 ∧ m ≠ cmp then s.setMe ((s.me.setX d (atomicReturn op n m)).complete len)
    else
      let r := s.reach s.cur.core s.cur.strand ea.toNat (n / 8) (s.needAtomic true)
      match r.1 with
      | .trap c => r.2.takeTrap c ea
      | .cut dev => r.2.cutTrap dev
      | .wait => r.2.holdWithheld ea.toNat
      | .ok _ _ =>
        let s1 := (r.2.writeLoc l (bytesOf (n / 8) (atomicNew op n m o cmp)) false).touchLine
          (clusterOf s.cur.core) pa (leafPolicy leaf) true
        s1.setMe ((s1.me.setX d (atomicReturn op n m)).complete len)

/-- Does the update unit of a place, the pool's or a stack's, hold an update of a byte of the n at it (R88, R125)? -/
def State.updatePending (s : State) (l : Loc) (n : Nat) : Bool :=
  match l with
  | .pool c _ => (s.crew c).puu.any (fun u => (s.bufLoc c u.addr).overlap (if u.uop = 2 then 2 else 4) l n)
  | .hbm a => (tget s.suu (stackOf a) []).any (fun u => (s.bufLoc u.core u.addr).overlap (if u.uop = 2 then 2 else 4) l n)
  | _ => false

/-- The leaf of an atomic for another device marked dirty before it is sent; that of a cas once its compare has held (R78, R134). -/
def State.markedReach (s : State) (op pa leaf va n : Nat) : Reach × State :=
  if op = 9 then (.ok pa leaf, s) else s.reach s.cur.core s.cur.strand va n (s.needAtomic true)

/-- The atomic of op (Table 5.7) on x[a] with operand x[b], under order r (R134). One that a unit executes reaches it after the updates of its bytes that the unit
holds, and so waits for them (R89, R125). -/
def State.atomic (s : State) (op : Nat) (d a b : Reg) (r : BitVec 2) (wide : Bool) : State :=
  let n := if wide then 64 else 32
  let ea := s.me.getX a
  let o := (s.me.getX b).toNat % 2 ^ n
  let cmp := (s.me.getX d).toNat % 2 ^ n
  if ea.toNat % (n / 8) ≠ 0 then s.takeTrap causeMisaligned ea
  else
    let q := s.scalarReach ea.toNat (n / 8) (s.needAtomic false)
    let s' := q.2
    match q.1 with
    | .trap c => s'.takeTrap c ea
    | .cut dev => s'.cutTrap dev
    | .wait => s'.holdWithheld ea.toNat
    | .ok pa leaf =>
      if !(s'.atomicCarried op pa leaf) then s'.takeTrap causeAtomicPath ea
      else
        let l := s'.locOf pa
        let s1 := if r.getLsbD 1 then s'.drainStrand s.cur.core s.cur.strand
          else s'.drainOverlap s.cur.core s.cur.strand l (n / 8)
        match s1.cutOff l, l with
        | some dev, _ => s1.cutTrap dev
        | none, .remote dev x =>
          let m := s1.markedReach op pa leaf ea.toNat (n / 8)
          (match m.1 with
           | .trap c => m.2.takeTrap c ea
           | .cut dev => m.2.cutTrap dev
           | .wait => m.2.holdWithheld ea.toNat
           | .ok _ _ =>
             let seq := (m.2.flow dev clsAtomic).next
             (m.2.send dev clsAtomic opAtomic x [op, n, o, cmp, 0, s.cur.core, s.cur.strand] [] 0 s.cur.core).holdResponse
               ⟨d.toNat, n / 8, decide (op < 10), false, none, ea.toNat, pa, some (op, s.me.getX b, s.me.getX d), [], 8, s.time, seq⟩)
        | none, .host _ => s1.runAtomic op d ea l pa leaf n o cmp 8
        | none, _ =>
          if !(s1.windowWritable s.cur.core pa) then s1.takeTrap causePermission ea
          else if s1.updatePending l (n / 8) then s1.setMe { s1.me with hold := .unit pa (n / 8) }
          else s1.runAtomic op d ea l pa leaf n o cmp 8

/-- An atomic under its guard. -/
def State.atomicOp (s : State) (op : Nat) (d a b : Reg) (r : BitVec 2) (wide : Bool) (g : Pred) : State :=
  if s.me.getP g then s.atomic op d a b r wide else s.complete 8

/-- R134. -/
def execAmoAdd (d a b : Reg) (_c : BitVec 3) (r : BitVec 2) (wide : Bool) (g : Pred) (s : State) : Out :=
  .next (s.atomicOp 0 d a b r wide g)
/-- R134. -/
def execAmoAnd (d a b : Reg) (_c : BitVec 3) (r : BitVec 2) (wide : Bool) (g : Pred) (s : State) : Out :=
  .next (s.atomicOp 1 d a b r wide g)
/-- R134. -/
def execAmoOr (d a b : Reg) (_c : BitVec 3) (r : BitVec 2) (wide : Bool) (g : Pred) (s : State) : Out :=
  .next (s.atomicOp 2 d a b r wide g)
/-- R134. -/
def execAmoXor (d a b : Reg) (_c : BitVec 3) (r : BitVec 2) (wide : Bool) (g : Pred) (s : State) : Out :=
  .next (s.atomicOp 3 d a b r wide g)
/-- R134. -/
def execAmoMin (d a b : Reg) (_c : BitVec 3) (r : BitVec 2) (wide : Bool) (g : Pred) (s : State) : Out :=
  .next (s.atomicOp 4 d a b r wide g)
/-- R134. -/
def execAmoMax (d a b : Reg) (_c : BitVec 3) (r : BitVec 2) (wide : Bool) (g : Pred) (s : State) : Out :=
  .next (s.atomicOp 5 d a b r wide g)
/-- R134. -/
def execAmoMinn (d a b : Reg) (_c : BitVec 3) (r : BitVec 2) (wide : Bool) (g : Pred) (s : State) : Out :=
  .next (s.atomicOp 6 d a b r wide g)
/-- R134. -/
def execAmoMaxn (d a b : Reg) (_c : BitVec 3) (r : BitVec 2) (wide : Bool) (g : Pred) (s : State) : Out :=
  .next (s.atomicOp 7 d a b r wide g)
/-- R134. -/
def execAmoSwap (d a b : Reg) (_c : BitVec 3) (r : BitVec 2) (wide : Bool) (g : Pred) (s : State) : Out :=
  .next (s.atomicOp 8 d a b r wide g)
/-- R134: the compare value is d before the instruction. -/
def execAmoCas (d a b : Reg) (_c : BitVec 3) (r : BitVec 2) (wide : Bool) (g : Pred) (s : State) : Out :=
  .next (s.atomicOp 9 d a b r wide g)
/-- R134: width w only. -/
def execAmoFaddF32 (d a b : Reg) (_c : BitVec 3) (r : BitVec 2) (g : Pred) (s : State) : Out :=
  .next (s.atomicOp 10 d a b r false g)
/-- R134: width w only. -/
def execAmoFaddBf16x2 (d a b : Reg) (_c : BitVec 3) (r : BitVec 2) (g : Pred) (s : State) : Out :=
  .next (s.atomicOp 11 d a b r false g)

/-! ### The steps that finish scalar accesses -/

/-- Does a posted store wait at the directory for its line (R88)? -/
def State.storeWaits (s : State) (b : BufStore) : Bool :=
  match b.addr with
  | .phys pa => s.suuHolds pa b.bytes.length
  | .sp _ => false

/-- The leaf of a cas that another device has executed marked dirty, where its compare held (R78, R134). -/
def State.casMark (s : State) (core strand : Nat) (p : Pending) (old : Nat) : State :=
  match p.atomic with
  | some (op, _, cmp) =>
    if op = 9 ∧ old % 2 ^ (8 * p.size) = cmp.toNat % 2 ^ (8 * p.size) then
      (s.translate (clusterOf core) (s.crew core).info.ctx p.ea ⟨true, true, false, (s.strandAt core strand).monitor, true⟩).2
    else s
  | none => s

/-- The oldest posted store of a strand leaves its buffer and is performed (R127). -/
def execStoreBufferDrain (core strand : Nat) (s : State) : Out :=
  .next (match (s.strandAt core strand).buffer with
    | [] => s
    | b :: bs =>
      if s.storeWaits b then s else (s.setStrandAt core strand { s.strandAt core strand with buffer := bs }).perform core b)

/-- The answer to an access sent to another device: data written to d, an acknowledgement taken, or a waita
read that is tested again (R127, R128, R294). A strand record read by ctx.rest comes as a packet instead. -/
def State.respond (s : State) (core strand : Nat) (p : Pending) (data : Word) (poisoned : Bool) : State :=
  let t := s.strandAt core strand
  let ea := BitVec.ofNat 64 p.ea
  if p.store then s.setStrandAt core strand (t.complete p.len)
  else if 8 < p.size then s
  else if poisoned then s.takeTrapAt core strand causePoisonConsumed ea t.pc
  else
    let v := match p.atomic with
      | some (op, _, _) => atomicReturn op (8 * p.size) (data.toNat % 2 ^ (8 * p.size))
      | none => loadExtend p.sext p.size data.toNat
    let s := s.casMark core strand p data.toNat
    match p.watch with
    | some q =>
      if watchCond q.cond v (t.getX q.b) then s.setStrandAt core strand ((t.setX q.d v).complete p.len)
      else s.setStrandAt core strand { t with hold := .watch p.pa p.since q }
    | none => s.setStrandAt core strand ((t.setX (BitVec.ofNat 6 p.dest) v).complete p.len)

/-- R127: the data of a load or atomic sent out, or the acknowledgement of an unposted store, returns. -/
def execScalarAccessResponse (core strand : Nat) (data : Word) (poisoned : Bool) (s : State) : Out :=
  .next (match (s.strandAt core strand).hold with
    | .response p => s.respond core strand p data poisoned
    | _ => s)

/-- Would an access of a strand of a core to a virtual address still be withheld (R80), or one before it at the directory go first (R111 step 5)? -/
def State.stillWithheld (s : State) (core strand va : Nat) : Bool :=
  let ctx := (s.crew core).info.ctx
  s.heldUp ctx (clusterOf core) va || (match s.frameAt ctx va with | some f => s.behind core strand (65536 * f) | none => false)

/-- R80: a withheld access goes on once its page is present, its line has arrived or its stack is trained: the strand executes the instruction
again, and until then the access keeps its place before those that wait for the page too (R111 step 5). An atomic held for an update of its bytes goes on
once the update has been applied. -/
def execWithheldAccessProceed (core strand : Nat) (s : State) : Out :=
  let t := s.strandAt core strand
  .next (match t.hold with
    | .withheld va since => if s.stillWithheld core strand va then s else s.setStrandAt core strand { t with hold := .freed va since }
    | .unit pa n => if s.updatePending (s.locOf pa) n then s else s.setStrandAt core strand { t with hold := .none }
    | _ => s)

/-! ### Windows (R121 to R123) -/

/-- The three fields of mapping entry j: spoff, gva, length in 64 KiB units. -/
def Crew.entryField (w : Crew) (j i : Nat) : Nat := (tget w.entries (4 * j + i) 0).toNat

/-- The translation of each 64 KiB of a window (R121 step 2): the frames, or the first failure with its address. -/
def State.windowFrames (s : State) (core gva : Nat) : Nat → (List Nat × Option (Reach × Nat)) × State
  | 0 => (([], none), s)
  | n + 1 =>
    let r := s.windowFrames core gva n
    match r.1.2 with
    | some _ => r
    | none =>
      let va := gva + 65536 * n
      let q := r.2.bindPage core va true false
      match q.1 with
      | .ok pa _ => ((r.1.1 ++ [pa], none), q.2)
      | e => ((r.1.1, some (e, va)), q.2)

/-- Do [a, a + n) and [b, b + m) share a byte? -/
def rangesMeet (a n b m : Nat) : Bool := decide (a < b + m) && decide (b < a + n)

/-- The overlap checks of R121 step 3. -/
def State.windowClash (s : State) (core j spoff gva len : Nat) (frames : List Nat) : Bool :=
  let w := s.crew core
  s.windows.any (fun x => rangesMeet gva (65536 * len) x.gva (65536 * x.frames.length))
    || frames.any (fun f => s.windows.any (fun x => x.frames.contains f))
    || !(frames.eraseDups.length == frames.length)
    || (List.range 8).any (fun i => i != j && w.entryValid i &&
        rangesMeet spoff (65536 * len) (w.entryField i 1) (65536 * w.entryField i 3))

/-- A region's bytes and poison marks taken from its backing frames (R121, fill). -/
def State.fillWindow (s : State) (core spoff : Nat) : Nat → List Nat → State
  | _, [] => s
  | i, f :: fs =>
    let w := s.crew core
    let q := spoff + 65536 * i
    let marks := (s.hbmPoison.filter (fun g => decide (f / 32 ≤ g) && decide (g < f / 32 + 2048))).map
      (fun g => g - f / 32 + q / 32)
    let kept := w.poolPoison.filter (fun g => decide (g < q / 32) || decide (q / 32 + 2048 ≤ g))
    let bytes := s.hbm.filter (fun b => decide (f ≤ b.1) && decide (b.1 < f + 65536))
    let pool := bytes.foldl (fun m b => mset m (b.1 - f + q) b.2) (mclear w.pool q (q + 65536))
    let s1 := s.setCrew core (({ w with pool := pool, poolPoison := marks.foldl sadd kept } : Crew).wrote q 65536)
    s1.fillWindow core spoff (i + 1) fs

/-- What a registration comes to (R121): the state with the window, the trap it fails with and its tval, or a page that it waits for. -/
inductive Registered where
  | done (s : State)
  | trap (cause : Cause) (tval : Nat)
  | wait (s : State) (va : Nat)

/-- Registration of entry j of a core with value v for word 0 (R121). -/
def State.registerWindow (s : State) (core j : Nat) (v : Word) : Registered :=
  let w := s.crew core
  let spoff := w.entryField j 1
  let gva := w.entryField j 2
  let len := w.entryField j 3
  let word0 := 0x400000 + 32 * j
  if len = 0 ∨ 63 < len ∨ spoff % 65536 ≠ 0 ∨ gva % 65536 ≠ 0 ∨ 2 ^ 56 ≤ gva then .trap causeConfig word0
  else if w.spSize < spoff + 65536 * len then .trap causeBounds word0
  else
    let q := s.windowFrames core gva len
    match q.1.2 with
    | some (.trap c, va) => .trap c va
    | some (.cut dev, _) => .trap causeFabricUnreachable (s.cutValue dev)
    | some (_, va) => .wait q.2 va
    | none =>
      if q.2.windowClash core j spoff gva len q.1.1 then .trap causeConfig word0
      else
        let s1 := q.1.1.foldl (fun t f => t.recall f 65536) q.2
        let s2 := if v.getLsbD 1 then s1.fillWindow core spoff 0 q.1.1 else s1
        let w2 := s2.crew core
        let s3 := s2.setCrew core { w2 with entries := tset w2.entries (4 * j) v }
        .done { s3 with windows := s3.windows ++ [⟨core, j, spoff, gva, q.1.1, v.getLsbD 2, []⟩] }

/-- The strand of a core that a window command on entry j holds. -/
def Crew.windowHolder (w : Crew) (j : Nat) : Option (Nat × Word) :=
  (List.range 4).findSome? (fun k => match (w.strand k).hold with
    | .window e v _ => if e = j then some (k, v) else none
    | _ => none)

/-- A strand whose registration waits for a page, keeping the time of its first wait for it (R80). -/
def Strand.waitWindow (t : Strand) (va now : Nat) : Strand :=
  match t.hold with
  | .window e v (some (x, since)) => { t with hold := .window e v (some (va, if x = va then since else now)) }
  | .window e v none => { t with hold := .window e v (some (va, now)) }
  | _ => t

/-- The whole buffers of a core's strands performed. -/
def State.drainCore (s : State) (core : Nat) : State :=
  (List.range 4).foldl (fun t k => t.drainStrand core k) s

/-- R121: the registration of entry j that a held store began ends, or fails with its trap. -/
def execWindowRegister (core entry : Nat) (s : State) : Out :=
  .next (match (s.crew core).windowHolder entry with
    | none => s
    | some (k, v) =>
      if !(v.getLsbD 0) || (s.crew core).stopped then s
      else
        let s0 := s.drainStrand core k
        match s0.registerWindow core entry v with
        | .trap c tv => s0.takeTrapAt core k c (BitVec.ofNat 64 tv) (s0.strandAt core k).pc
        | .wait s1 va => s1.setStrandAt core k ((s1.strandAt core k).waitWindow va s1.time)
        | .done s1 => s1.setStrandAt core k ((s1.strandAt core k).complete 4))

/-- A window dropped after its dirty lines are written to their frames with their poison marks (R123). Lines written in
the region while the window was registered are the dirty ones; every line of the region is written. -/
def State.dropWindow (s : State) (x : Window) : State :=
  let s1 := (List.range (512 * x.frames.length)).foldl (fun t l => t.writeWindowLine x l) s
  { s1 with windows := s1.windows.filter (fun y => !(y.core == x.core && y.entry == x.entry)) }

/-- Entry j of a core unregistered, with word 0 as given (R123). -/
def State.unregister (s : State) (core j : Nat) (v : Word) : State :=
  let s1 := match s.windows.find? (fun x => x.core == core && x.entry == j) with
    | some x => s.dropWindow x
    | none => s
  let w := s1.crew core
  s1.setCrew core { w with entries := tset w.entries (4 * j) v }

/-- Does the pool update unit of a core hold an update to a byte of the region of entry j (R125)? -/
def State.windowBusy (s : State) (core j : Nat) : Bool :=
  s.windows.any (fun x => x.core == core && x.entry == j && s.updatePending (.pool core x.spoff) (65536 * x.frames.length))

/-- R123: the unregistration of entry j that a held store began ends, once the updates of the region that the pool update unit took before it have been
applied. -/
def execWindowUnregister (core entry : Nat) (s : State) : Out :=
  .next (match (s.crew core).windowHolder entry with
    | none => s
    | some (k, v) =>
      if v.getLsbD 0 || (s.crew core).stopped || s.windowBusy core entry then s
      else
        let s1 := (s.drainStrand core k).unregister core entry v
        s1.setStrandAt core k ((s1.strandAt core k).complete 4))

/-- R123: a dirty line of a registered window is written back at a moment the device chooses. -/
def execLazyWriteback (core entry line : Nat) (s : State) : Out :=
  .next (match s.windows.find? (fun x => x.core == core && x.entry == entry) with
    | some x => if smem x.dirty line then s.writeWindowLine x line else s
    | none => s)

end Sys2Proof.Machine
end

