-- ==== Sys2Proof/Machine/Sync.lean ====
section
/-!
DEFINITION. Synchronisation: fences, semaphore waits and signals, waita, barriers and supersteps (spec 10,
R292 to R296; spec 11, R303 to R305).
-/
namespace Sys2Proof.Machine
open Sys2Proof

/-! ### Fences (R292) -/

/-- The current strand with its buffer performed. -/
def State.drainMe (s : State) : State := s.drainStrand s.cur.core s.cur.strand

/-- Is every SM command that a strand dispatched complete? -/
def Crew.smIdle (w : Crew) (strand : Nat) : Bool := tget w.streams.open_ strand 0 == 0

/-- R292: held until the store buffer has drained; each access of the strand completes before its next instruction, so
nothing else is awaited. -/
def execFence (_c : BitVec 3) (g : Pred) (s : State) : Out :=
  .next (if s.me.getP g ∧ s.me.buffer ≠ [] then s else s.complete 4)

/-- R292: every earlier load of the strand has completed when a later instruction issues. -/
def execFenceAcq (_c : BitVec 3) (_g : Pred) (s : State) : Out := .next (s.complete 4)

/-- R292: the buffered stores are performed before any later store or engine command. -/
def execFenceRel (_c : BitVec 3) (g : Pred) (s : State) : Out :=
  .next (if s.me.getP g then s.drainMe.complete 4 else s.complete 4)

/-- R292: held until the strand's SM commands have completed and its buffer has drained. -/
def execFenceSm (_c : BitVec 3) (g : Pred) (s : State) : Out :=
  .next (if s.me.getP g ∧ (s.mine.smIdle s.cur.strand = false ∨ s.me.buffer ≠ []) then s else s.complete 4)

/-! ### Semaphores (R277, R278, R293) -/

/-- R293. The fields cannot name f63 (Table 3.5). -/
def execWait (f : Reg) (i : BitVec 16) (g : Pred) (s : State) : Out :=
  .next (if s.me.getP g ∧ s.mine.sem f.toNat < i.toNat then s else s.complete 4)

/-- R293: the decrement is applied at issue. -/
def execWaitDec (f : Reg) (i : BitVec 16) (g : Pred) (s : State) : Out :=
  .next
    (if s.me.getP g then
      (if s.mine.sem f.toNat < i.toNat then s
       else (s.setMine (s.mine.takeSem f.toNat i.toNat)).complete 4)
     else s.complete 4)

/-- R293: a release of every earlier scalar access (R278), then the addition. -/
def execSig (f : Reg) (i : BitVec 16) (g : Pred) (s : State) : Out :=
  .next (if s.me.getP g then
      (let t := s.drainMe
       (t.setMine (t.mine.addSem f.toNat i.toNat)).complete 4)
    else s.complete 4)

/-- R293. -/
def execSigSet (f : Reg) (i : BitVec 16) (g : Pred) (s : State) : Out :=
  .next (if s.me.getP g then
      (let t := s.drainMe
       (t.setMine (t.mine.putSem f.toNat i.toNat)).complete 4)
    else s.complete 4)

/-! ### waita (R294) -/

/-- The strand held at a waita whose condition failed, keeping the time it began to wait. -/
def State.holdWatch (s : State) (pa : Nat) (q : Watched) : State :=
  match s.me.hold with
  | .watch _ t _ => s.setMe { s.me with hold := .watch pa t q }
  | _ => s.setMe { s.me with hold := .watch pa s.time q }

/-- One read of waita with condition code `cond`: completes, holds, or takes a trap of R128. -/
def State.waita (s : State) (cond : Nat) (d a b : Reg) : State :=
  let ea := s.me.getX a
  if ea.toNat % 8 ≠ 0 then s.takeTrap causeMisaligned ea
  else
    let r := s.scalarReach ea.toNat 8 s.needLoad
    let s' := r.2
    match r.1 with
    | .trap c => s'.takeTrap c ea
    | .cut dev => s'.cutTrap dev
    | .wait => s'.holdWithheld ea.toNat
    | .ok pa leaf =>
      let l := s'.locOf pa
      match s'.cutOff l, l with
      | some dev, _ => s'.cutTrap dev
      | none, .remote dev x =>
        let seq := (s'.flow dev clsRequest).next
        (s'.send dev clsRequest opRead x [8, forStrand, s.cur.core, s.cur.strand, seq] [] 0 s.cur.core).holdResponse
          ⟨d.toNat, 8, false, false, some ⟨cond, d, a, b⟩, ea.toNat, pa, none, [], 4,
            match s.me.hold with | .watch _ t _ => t | _ => s.time, seq⟩
      | none, _ =>
        if s'.poisonedAt l 8 && !(s'.allForwarded l 8) then s'.takeTrap causePoisonConsumed ea
        else
          let m := BitVec.ofNat 64 (ofBytes (s'.loadBytes s.cur.core s.cur.strand l 8))
          let s1 := s'.touchLine (clusterOf s.cur.core) pa (leafPolicy leaf) false
          if watchCond cond m (s.me.getX b) then s1.setMe ((s1.me.setX d m).complete 4) else s1.holdWatch pa ⟨cond, d, a, b⟩

/-- waita under its guard. -/
def State.waitaOp (s : State) (cond : Nat) (d a b : Reg) (g : Pred) : State :=
  if s.me.getP g then s.waita cond d a b else s.complete 4

/-- R294. -/
def execWaitaEq (d a b : Reg) (g : Pred) (s : State) : Out := .next (s.waitaOp 0 d a b g)
/-- R294. -/
def execWaitaNe (d a b : Reg) (g : Pred) (s : State) : Out := .next (s.waitaOp 1 d a b g)
/-- R294. -/
def execWaitaGe (d a b : Reg) (g : Pred) (s : State) : Out := .next (s.waitaOp 2 d a b g)
/-- R294. -/
def execWaitaLt (d a b : Reg) (g : Pred) (s : State) : Out := .next (s.waitaOp 3 d a b g)
/-- R294. -/
def execWaitaGen (d a b : Reg) (g : Pred) (s : State) : Out := .next (s.waitaOp 4 d a b g)

/-- The instruction word at a virtual address as the strand's cluster holds it, if it holds it. -/
def State.cachedWord (s : State) (core va : Nat) : Option Half :=
  match (s.cluster (clusterOf core)).tlb.find? (fun e => e.hits (s.crew core).info.ctx va) with
  | some e => tfind (s.cluster (clusterOf core)).icache (s.leafPlace e.level e.leaf va / 4)
  | none => none

/-- The state with the cursor on a strand of a core. -/
def State.at (s : State) (core strand : Nat) : State :=
  { s with cur := { s.cur with core := core, strand := strand } }

/-- R294: the word watched by a held strand is read again, and the instruction completes when the condition holds. -/
def execWaitaReread (core strand : Nat) (s : State) : Out :=
  .next (match (s.strandAt core strand).hold with
    | .watch _ _ q => if (s.crew core).stopped then s else (s.at core strand).waita q.cond q.d q.a q.b
    | _ => s)

/-! ### Barriers and supersteps (R295, R296, R332) -/

/-- What a barrier of a level belongs to within a launch: the tile, the gang, or the whole launch. -/
def CrewInfo.barrierScope (i : CrewInfo) (level : Nat) : Nat :=
  if level = 1 then i.tile else if level = 2 then i.gang else 0

/-- Is the barrier the one a crew means by a level and an id? -/
def Barrier.isFor (b : Barrier) (i : CrewInfo) (level id : Nat) : Bool :=
  b.launch == i.launch && b.level == level && b.id == id && b.scope == i.barrierScope level

/-- The barrier a crew means by a level and an id (R295); a fresh one counts from generation 0. -/
def State.barrier (s : State) (i : CrewInfo) (level id : Nat) : Barrier :=
  match s.cp.barriers.find? (fun b => b.isFor i level id) with
  | some b => b
  | none => ⟨i.launch, i.barrierScope level, level, id, 0, []⟩

/-- The state with a barrier replaced. -/
def State.setBarrier (s : State) (b : Barrier) : State :=
  let same := fun (x : Barrier) => x.launch == b.launch && x.scope == b.scope && x.level == b.level && x.id == b.id
  { s with cp := { s.cp with barriers := b :: s.cp.barriers.filter (fun x => !(same x)) } }

/-- Is a crew a participant of a barrier (R295)? -/
def Barrier.hasCrew (b : Barrier) (i : CrewInfo) : Bool := i.launch == b.launch && b.scope == i.barrierScope b.level

/-- Has every strand of a crew arrived, a halted one counting as arrived? -/
def Barrier.crewArrived (b : Barrier) (w : Crew) : Bool :=
  (List.range 4).all (fun k => !(w.strand k).present || (w.strand k).halted || b.arrived.contains (w.info.tile, k))

/-- Are tiles of a launch still undispatched? -/
def Launch.undispatched (l : Launch) : Bool := l.ranges.any (fun r => decide (r.2.1 < r.2.2))

/-- Has every local participant arrived? Every strand of a retired crew counts as arrived, and a crew not yet
dispatched has not arrived. -/
def State.localArrived (s : State) (b : Barrier) : Bool :=
  (s.liveCrews.filter (fun w => b.hasCrew w.info)).all (fun w => b.crewArrived w)
    && (decide (b.level < 3) || match tfind s.cp.launches b.launch with
      | some l => !l.undispatched
      | none => true)

/-- The barrier numbers of a device's word that its launch of a tag has begun, and that all of it has halted or retired. -/
def domainBegan : Nat := 0xFFFE
def domainOver : Nat := 0xFFFF

/-- The other devices that the ephemeris has a valid route to, failed or not. -/
def State.knownDevices (s : State) : List Nat :=
  (List.range 2048).filter (fun d => d != s.sys.devid && (List.range 4).any (fun i => (tget s.fabric.routes (4 * d + i) 0).testBit 20))

/-- Is a device a member of a launch on ndev devices of a domain tag: has it been heard of for it, or has the launch as many members as there are devices
with routes? Whether another one would have been is not known (free). DESIGN CHOICE, log 49. -/
def State.domainMember (s : State) (tag run ndev dev : Nat) : Bool :=
  s.cp.domain.any (fun d => d.tag == tag && d.run == run && d.dev == dev)
    || (decide (s.knownDevices.length + 1 = ndev) && s.knownDevices.contains dev)
    || Config.freeNat 0 (2 ^ 32 + 2048 * tag + dev) % 2 == 1

/-- Has a device routes, all of them lost? -/
def State.deviceLost (s : State) (dev : Nat) : Bool :=
  (List.range 4).any (fun i => (tget s.fabric.routes (4 * dev + i) 0).testBit 20) && !(s.routeUp dev)

/-- The members of a launch of a domain tag that every route has lost. -/
def State.lostMembers (s : State) (tag run ndev : Nat) : List Nat :=
  (List.range 2048).filter (fun d => s.deviceLost d && s.domainMember tag run ndev d)

/-- Have the other devices of a domain launch arrived (R332)? A member that every route has lost counts. -/
def State.domainArrived (s : State) (b : Barrier) : Bool :=
  match tfind s.cp.launches b.launch with
  | none => true
  | some l =>
    if b.level = 4 ∧ l.dtag ≠ 0 then
      let heard := (s.cp.domain.filter (fun d => d.tag == l.dtag && d.run == l.run
        && (d.id == domainOver || (d.id == b.id && decide (b.gen < d.gen))))).map Heard.dev
      let lost := (s.lostMembers l.dtag l.run l.ndev).filter (fun d => !(heard.contains d))
      decide (l.ndev ≤ heard.eraseDups.length + lost.length + 1)
    else true

/-- The devices a valid route leads to. -/
def State.routedDevices (s : State) : List Nat :=
  (List.range 2048).filter (fun d => s.routeUp d && d != s.sys.devid)

/-- A device told of an arrival of a launch of a domain tag. The packets that carry arrivals are the model's own (DESIGN CHOICE, log 31). -/
def State.tellDevice (s : State) (dev tag run id gen : Nat) : State :=
  s.send dev clsCollective opJoin 0 [tag, id, gen, run] [] 0 nobody

/-- Every device told of it. -/
def State.tellDomain (s : State) (tag run id gen : Nat) : State :=
  if tag = 0 then s else s.routedDevices.foldl (fun t d => t.tellDevice d tag run id gen) s

/-- The other devices of a domain launch told that this device has arrived at a generation of a barrier. -/
def State.announce (s : State) (b : Barrier) : State :=
  match tfind s.cp.launches b.launch with
  | none => s
  | some l => if b.level = 4 then s.tellDomain l.dtag l.run b.id b.gen else s

/-- Has everything of a launch on this device arrived for good: is no tile undispatched, and has every strand halted or retired (R295)? -/
def State.launchOver (s : State) (launch : Nat) (l : Launch) : Bool :=
  !l.undispatched && (s.liveCrews.filter (fun w => w.info.launch == launch)).all (fun w =>
    (List.range 4).all (fun k => !(w.strand k).present || (w.strand k).halted))

/-- Is this device's launch of a tag of that number over, or past? -/
def State.domainPast (s : State) (tag run : Nat) : Bool :=
  match s.cp.launches.find? (fun l => l.2.dtag == tag && l.2.run == run) with
  | some l => s.launchOver l.1 l.2
  | none => decide (run < tget s.cp.domainRuns tag 0)

/-- A halted strand counts as arrived at every later generation (R295): the other devices of its domain launch hear of it once all of the launch here has
halted or retired. -/
def State.tellOver (s : State) (launch : Nat) : State :=
  match tfind s.cp.launches launch with
  | none => s
  | some l => if s.launchOver launch l then s.tellDomain l.dtag l.run domainOver 0 else s

/-- The arrival of the current strand at a barrier (R295 step 2), and the strand held. An arrival already counted (R276) is
not counted again; if its generation has ended meanwhile, the instruction completes. -/
def State.arrive (s : State) (level id : Nat) (held : Nat → Hold) : State :=
  let i := s.mine.info
  let b := s.barrier i level id
  let t := s.me
  match t.arrivals.find? (fun a => a.1 == level && a.2.1 == id) with
  | some a =>
    let rest := t.arrivals.filter (fun x => !(x.1 == level && x.2.1 == id))
    if a.2.2 < b.gen then (s.setMe { t with arrivals := rest }).complete 4
    else s.setMe { t with hold := held a.2.2 }
  | none =>
    let b' := { b with arrived := b.arrived ++ [(i.tile, s.cur.strand)] }
    (s.setBarrier b').setMe { t with arrivals := (level, id, b.gen) :: t.arrivals, hold := held b.gen }

/-- R295: a release, then the arrival. BARRIER_GENERATION_END releases the strand. -/
def execBar (i : BitVec 8) (l : BitVec 3) (g : Pred) (s : State) : Out :=
  .next (if s.me.getP g then
      s.drainMe.arrive l.toNat i.toNat (fun n => .barrier l.toNat i.toNat n s.time)
    else s.complete 4)

/-- Does sync.step wait for an NX command (R296)? -/
def NxOp.stepWaits : NxOp → Bool
  | .put | .get | .send | .route | .grp | .red | .bc | .flt | .ar => true
  | _ => false

/-- Has every NX command that sync.step waits for completed? -/
def Crew.nxStepIdle (w : Crew) (strand : Nat) : Bool :=
  !(w.nxq.any (fun c => c.strand == strand && c.op.stepWaits))
    && !(w.nx.any (fun j => j.2.cmd.strand == strand && j.2.cmd.op.stepWaits))

/-- R296. The superstep counter of a level is kept as barrier 256. -/
def execSyncStep (l : BitVec 3) (g : Pred) (s : State) : Out :=
  .next
    (if s.me.getP g then
      (if s.me.buffer ≠ [] ∨ s.mine.nxStepIdle s.cur.strand = false then s
       else s.arrive l.toNat 256 (fun n => .superstep l.toNat n s.time))
     else s.complete 4)

/-- The level, id and generation a held strand waits on. -/
def Hold.generation : Hold → Option (Nat × Nat × Nat)
  | .barrier l i n _ => some (l, i, n)
  | .superstep l n _ => some (l, 256, n)
  | _ => Option.none

/-- A strand released from a generation that has ended. -/
def Strand.releaseFrom (t : Strand) (level id gen : Nat) : Strand :=
  if t.hold.generation = some (level, id, gen) then
    { t with arrivals := t.arrivals.filter (fun x => !(x.1 == level && x.2.1 == id)) }.complete 4
  else t

/-- Every strand of a crew released from a generation that has ended. -/
def Crew.releaseFrom (w : Crew) (b : Barrier) : Crew :=
  { w with strands := w.strands.map (fun k => (k.1, k.2.releaseFrom b.level b.id b.gen)) }

/-- A generation ended: the next one begins with no arrivals, and every participant on a core that is held at it
goes on (R295 step 3). -/
def State.endGeneration (s : State) (b : Barrier) : State :=
  let s1 := s.setBarrier { b with gen := b.gen + 1, arrived := [] }
  { s1 with cores := s1.cores.map (fun k =>
      (k.1, if k.2.held && b.hasCrew k.2.crew.info then { k.2 with crew := k.2.crew.releaseFrom b } else k.2)) }

/-- R295, R296: the generation that a strand waits on ends when every participant has arrived. While other devices of a
domain launch have not, they are told that this device has; of a strand that has halted they hear when all of the launch here has. -/
def execBarrierGenerationEnd (core strand : Nat) (s : State) : Out :=
  .next (match (s.strandAt core strand).hold.generation with
    | none => if (s.strandAt core strand).halted then s.tellOver (s.crew core).info.launch else s
    | some (level, id, gen) =>
      let b := s.barrier (s.crew core).info level id
      if b.gen = gen ∧ s.localArrived b = true then
        (if s.domainArrived b then (s.announce b).endGeneration b else s.announce b)
      else s)

end Sys2Proof.Machine
end

