-- ==== Sys2Proof/Machine/System.lean ====
section
/-!
DEFINITION. System instructions and strand records (spec 13, R365 to R369), what the monitor does when a strand
enters it (R343, R344), and the delivery of asynchronous traps (R341, R342).
-/
namespace Sys2Proof.Machine
open Sys2Proof

/-! ### Streams and NX commands held by a trap of their own (R7, R80) -/

/-- Is a cause one that holds the stream or NX command that raised it: LATENCY_BROKEN (R80), or CONFIG for an access that software must not make (R7)? -/
def holdsEngine (c : Nat) : Bool := c == causeLatencyBroken.toNat || c == causeConfig.toNat

/-- A hold marked as taken by a strand that takes such a trap. -/
def markBroken (k : Nat) (b : Option (Nat × Bool)) : Option (Nat × Bool) :=
  match b with
  | some (j, t) => if j = k then some (j, true) else some (j, t)
  | none => none

/-- A hold ended where the strand returns from the trap it took. -/
def endBroken (k : Nat) (b : Option (Nat × Bool)) : Option (Nat × Bool) :=
  if b = some (k, true) then none else b

/-- Every such hold of a crew changed. -/
def Crew.mapBroken (w : Crew) (f : Option (Nat × Bool) → Option (Nat × Bool)) : Crew :=
  { w with
    streams := { w.streams with slots := w.streams.slots.map (fun a => (a.1, { a.2 with broken := f a.2.broken })) }
    nx := w.nx.map (fun j => (j.1, { j.2 with broken := f j.2.broken })) }

/-- The return of a strand from such a trap: its streams translate their elements afresh (R80). -/
def State.latencyReturn (s : State) (core k : Nat) : State := s.modCrew core (fun w => w.mapBroken (endBroken k))

/-! ### Asynchronous traps (R341, R342) -/

/-- The lowest pending cause of a strand with its tval. -/
def lowestPending : Tab Word → Option (Nat × Word)
  | [] => none
  | (c, v) :: _ => some (c, v)

/-- May a strand take an asynchronous trap now: present, running, ie set, something pending, and no access of its own
already sent (R341)? -/
def Strand.takesAsync (t : Strand) : Bool :=
  t.present && !t.halted && t.ie && !t.pending.isEmpty && (match t.hold with | .response _ => false | _ => true)

/-- The lowest pending asynchronous trap of a strand taken at its boundary; a held instruction is abandoned, and
the epc names it, so that it is executed again after return. -/
def State.takeAsync (s : State) (core k : Nat) : State :=
  let t := s.strandAt core k
  match lowestPending t.pending with
  | none => s
  | some (c, v) =>
    let s1 := s.setStrandAt core k { t with pending := tdel t.pending c }
    let s2 := if holdsEngine c then s1.modCrew core (fun w => w.mapBroken (markBroken k)) else s1
    s2.takeTrapAt core k (BitVec.ofNat 8 c) v t.pc

/-- R341. -/
def execAsyncTrapTake (core strand : Nat) (s : State) : Out :=
  .next (if (s.strandAt core strand).takesAsync && !(s.crew core).stopped then s.takeAsync core strand else s)

/-! ### Blocks of bytes in the global space -/

/-- Bytes within one page written for a crew at a virtual address by a party of the device, or none where the access has
any failure of Table 4.5 or R128. -/
def State.storeBlock (s : State) (core va : Nat) (bs : List Byte) (monitor : Bool) : Option State :=
  let r := s.reach core whoMonitor va bs.length ⟨false, true, false, monitor, true⟩
  match r.1 with
  | .ok pa leaf =>
    (match r.2.locOf pa with
     | .remote dev a => if r.2.routeUp dev then some (r.2.send dev clsRequest opWrite a [bs.length, forNobody] bs 0 core) else none
     | .host a => if r.2.hostUp then some ((r.2.writeLoc (.host a) bs false).touchLine (clusterOf core) pa (leafPolicy leaf) true) else none
     | l => if r.2.windowWritable core pa then
         some ((r.2.writeLoc l bs false).touchLine (clusterOf core) pa (leafPolicy leaf) true) else none)
  | _ => none

/-! ### Strand records (Table 13.2) -/

/-- The three words of a loop level, or zeros. -/
def levelWords : Option LoopLevel → List Byte
  | some l => bytesOf 8 l.start.toNat ++ bytesOf 8 l.stop.toNat ++ bytesOf 8 l.remaining.toNat
  | none => bytesOf 24 0

/-- A strand record. -/
def Strand.record (t : Strand) (epc cause tval : Word) : List Byte :=
  bytesOf 8 epc.toNat ++ bytesOf 8 cause.toNat ++ bytesOf 8 tval.toNat ++ bytesOf 8 (t.p.toNat / 2 * 2)
    ++ (List.range 63).flatMap (fun i => bytesOf 8 (t.getX (BitVec.ofNat 6 (i + 1))).toNat)
    ++ bytesOf 8 t.loops.length ++ levelWords (t.loops.reverse[0]?) ++ levelWords (t.loops.reverse[1]?)
    ++ bytesOf 432 0

/-- The n64 at offset o of a record. -/
def recWord (b : List Byte) (o : Nat) : Word := BitVec.ofNat 64 (ofBytes ((b.drop o).take 8))

/-- A loop level of a record. -/
def recLevel (b : List Byte) (o : Nat) : LoopLevel := ⟨recWord b o, recWord b (o + 8), recWord b (o + 16)⟩

/-- The loop stack of a record, innermost first. -/
def recLoops (b : List Byte) : List LoopLevel :=
  let d := (recWord b 0x218).toNat
  if d = 0 then [] else if d = 1 then [recLevel b 0x220] else [recLevel b 0x238, recLevel b 0x220]

/-- Is a level of a record acceptable (R368)? -/
def levelOk (l : LoopLevel) : Bool := decide (l.start.toNat ≤ l.stop.toNat) && l.remaining != 0

/-- A level of a record as the loop stack takes it: B and E become program counters, which are multiples of 4 (R45), so their two low bits are dropped. DEDUCED,
log 88. -/
def LoopLevel.aligned (l : LoopLevel) : LoopLevel := { l with start := l.start &&& ~~~3, stop := l.stop &&& ~~~3 }

/-- The checks of R368 on a record's depth, levels and reserved bits. -/
def recordOk (b : List Byte) : Bool :=
  decide ((recWord b 0x218).toNat ≤ 2) && (recLoops b).all levelOk
    && (recWord b 0x018).toNat % 2 == 0 && decide ((recWord b 0x018).toNat < 256)
    && (b.drop 0x250).all (fun x => x == 0)

/-- A strand with registers, predicates, loop stack and pc from a record (R368). -/
def Strand.restore (t : Strand) (b : List Byte) : Strand :=
  let t1 := (List.range 63).foldl (fun u i => u.setX (BitVec.ofNat 6 (i + 1)) (recWord b (0x020 + 8 * i))) t
  { t1 with
    p := BitVec.ofNat 8 (recWord b 0x018).toNat
    loops := (recLoops b).map LoopLevel.aligned
    pc := recWord b 0
    hold := .none }

/-- Addresses in a crew's save area (R344, R368, Table 13.3). -/
def CrewInfo.frameAddress (i : CrewInfo) (k : Nat) : Word := i.saveBase + 0x402000 + BitVec.ofNat 64 (0x400 * k)
def CrewInfo.recordAddress (i : CrewInfo) (k : Nat) : Word := i.saveBase + 0x401000 + BitVec.ofNat 64 (0x400 * k)

/-! ### The monitor (R343, R344) -/

/-- What Table 13.1 does with a cause by default. -/
inductive Disposition where
  /-- H: the kernel handler where there is one -/
  | handler
  /-- E -/
  | ends
  /-- Q -/
  | returns
  deriving DecidableEq, Repr

/-- The default disposition of a cause (Table 13.1). -/
def disposition (c : Nat) : Disposition := if c = 0x0D then .ends else if c = 0x12 then .returns else .handler

/-- The crew of a core to be ended, with the first cause decided (R345). -/
def State.decideEnd (s : State) (core : Nat) (cause : Cause) : State :=
  s.modCrew core (fun w => { w with ending := match w.ending with | some e => some e | none => some cause })

/-- The trap of a strand delivered to the kernel handler (R344): the frame written, then registers 5 to 7, the handler's
address and kernel mode with ie 1 through the trap stack, and the eret. None where the frame's write fails. -/
def State.deliver (s : State) (core k : Nat) : Option State :=
  let i := (s.crew core).info
  let t := s.strandAt core k
  let top := t.topLevel
  let at_ := i.frameAddress k
  match (s.drainStrand core k).storeBlock core at_.toNat (t.record top.epc top.cause top.tval) true with
  | none => none
  | some s1 =>
    let u := (s1.strandAt core k).setTop (fun l =>
      { l with save0 := at_, save1 := l.cause, save2 := l.tval, epc := i.handler, status := statusWith l.status false true })
    some ((s1.setStrandAt core k { u.popTrap with inHandler := true }).modCrew core (fun w => { w with framed := true }))

/-- What the monitor does for a strand that has entered it (R343, R344). With both levels in use the trap being
delivered ends the crew. -/
def State.monitorStep (s : State) (core k : Nat) : State :=
  let t := s.strandAt core k
  let i := (s.crew core).info
  match t.traps with
  | [] => s
  | [l] =>
    let c := l.cause.toNat % 256
    (match disposition c with
     | .returns => s.setStrandAt core k t.popTrap
     | .ends => s.decideEnd core (BitVec.ofNat 8 c)
     | .handler =>
       if i.handler = 0 ∨ t.inHandler = true then s.decideEnd core (BitVec.ofNat 8 c)
       else match s.deliver core k with
         | some s1 => s1
         | none => s.decideEnd core (BitVec.ofNat 8 c))
  | _ :: l :: _ => s.decideEnd core (BitVec.ofNat 8 (l.cause.toNat % 256))

/-! ### Meanings -/

/-- R365. -/
def execNop (_g : Pred) (s : State) : Out := .next (s.complete 4)

/-- R366. -/
def execTrap (a : Reg) (g : Pred) (s : State) : Out :=
  .next (if s.me.getP g then s.takeTrap causeSoftwareTrap (s.me.getX a) else s.complete 4)

/-- R366. -/
def execBrk (g : Pred) (s : State) : Out :=
  .next (if s.me.getP g then s.takeTrap causeBreak 0 else s.complete 4)

/-- The return from a trap (R367); a return from a trap of an engine lets the streams it held go on (R80). -/
def State.trapReturn (s : State) (core k : Nat) : State :=
  let t := s.strandAt core k
  let s1 := s.setStrandAt core k t.popTrap
  if holdsEngine t.topLevel.cause.toNat ∧ t.traps ≠ [] then s1.latencyReturn core k else s1

/-- R367. -/
def execEret (g : Pred) (s : State) : Out :=
  .next (if s.me.monitor then
      (if s.me.getP g then s.trapReturn s.cur.core s.cur.strand else s.complete 4)
    else illegal (.eret g) s)

/-- R365: the strand goes to the end of its priority's order, and issues in the next cc only if no other is ready. -/
def execYield (g : Pred) (s : State) : Out :=
  .next (if s.me.getP g then
      (s.setMine { s.mine with
        lastIssued := tset s.mine.lastIssued s.me.prio s.cur.strand
        yielded := some s.cur.strand }).complete 4
    else s.complete 4)

/-- R365: pending asynchronous traps are taken first; then the buffer is performed and the strand stops for good. A pending trap that ie keeps
from it goes to another strand (R342). -/
def execHalt (g : Pred) (s : State) : Out :=
  .next
    (if s.me.getP g then
      (if s.me.ie ∧ s.me.pending ≠ [] then s.takeAsync s.cur.core s.cur.strand
       else
         let t := s.drainMe
         (t.setMe { t.me with halted := true, haltedAt := s.time, hold := .none, readySince := none, pending := [] }).modCrew s.cur.core (fun w =>
           t.me.pending.foldl (fun u p => u.postTrap s.cur.strand (BitVec.ofNat 8 p.1) p.2) w))
     else s.complete 4)

/-- The stores of a record appended to the current strand's buffer, the oldest being performed when it is full. -/
def State.postStores (s : State) (policy pa : Nat) (bs : List Byte) : Nat → Nat → State
  | 0, _ => s
  | n + 1, i =>
    let s1 := if s.bufferFull then (execStoreBufferDrainState s) else s
    (s1.pushStore (.phys (pa + 8 * i)) ((bs.drop (8 * i)).take 8) policy).postStores policy pa bs n (i + 1)
where
  /-- the oldest store of the current strand performed -/
  execStoreBufferDrainState (s : State) : State :=
    match s.me.buffer with
    | [] => s
    | b :: r => (s.setMe { s.me with buffer := r }).perform s.cur.core b

/-- ctx.save after its checks: the record written, then the strand past the instruction or, with bit 0 of its address,
held for the suspension (R368). -/
def State.saveRecord (s : State) (f : Word) (hold : Bool) : State :=
  let t := s.me
  let bs := t.record (t.pc + 4) t.topLevel.cause t.topLevel.tval
  let r := if hold then s.reach s.cur.core s.cur.strand f.toNat 1024 s.needStore else s.scalarReach f.toNat 1024 s.needStore
  let s' := r.2
  let finish := fun (u : State) => if hold then (u.drainMe.setMe { u.drainMe.me with hold := .suspend }) else u.complete 4
  match r.1 with
  | .trap c => s'.takeTrap c f
  | .cut dev => s'.cutTrap dev
  | .wait => s'.holdWithheld f.toNat
  | .ok pa leaf =>
    match s'.cutOff (s'.locOf pa), s'.locOf pa with
    | some dev, _ => s'.cutTrap dev
    | none, .remote dev a =>
      let seq := (s'.flow dev clsRequest).next
      let t := s'.send dev clsRequest opWrite a [1024, forStrand, s.cur.core, s.cur.strand, seq] bs 0 s.cur.core
      if hold then finish t else t.holdResponse ⟨0, 1024, false, true, none, f.toNat, pa, none, bs, 4, s.time, seq⟩
    | none, .host a => finish ((s'.writeLoc (.host a) bs false).touchLine (clusterOf s.cur.core) pa (leafPolicy leaf) true)
    | none, _ =>
      if !(s'.windowWritable s.cur.core pa) then s'.takeTrap causePermission f
      else finish (s'.postStores (leafPolicy leaf) pa bs 128 0)

/-- R368. The tval of its CONFIG is not stated (DESIGN CHOICE, log 30). -/
def execCtxSave (a : Reg) (g : Pred) (s : State) : Out :=
  .next
    (if s.me.getP g then
      (let v := s.me.getX a
       let hold := v.getLsbD 0
       let f := v &&& ~~~1
       if field v.toNat 9 1 ≠ 0 then s.takeTrap causeMisaligned v
       else if hold ∧ (s.mine.info.saveSize = 0 ∨ f ≠ s.mine.info.recordAddress s.cur.strand) then s.takeTrap causeConfig (BitVec.ofNat 64 (s.freeNat 31))
       else s.saveRecord f hold)
     else s.complete 4)

/-- The checks of R368 on a record read at an address, then the strand restored from it; restoring from the strand's own
trap frame ends its handler (R344). -/
def State.restoreRecord (s : State) (core k : Nat) (f : Word) (b : List Byte) (poisoned : Option Nat) : State :=
  let t := s.strandAt core k
  if (recWord b 0).toNat % 4 ≠ 0 then s.takeTrapAt core k causeMisaligned (recWord b 0) t.pc
  else if !(recordOk b) then s.takeTrapAt core k causeConfig f t.pc
  else match poisoned with
    | some g => s.takeTrapAt core k causePoisonConsumed (BitVec.ofNat 64 g) t.pc
    | none =>
      if f = (s.crew core).info.frameAddress k ∧ t.inHandler = true then
        (s.setStrandAt core k { t.restore b with inHandler := false }).latencyReturn core k
      else s.setStrandAt core k (t.restore b)

/-- The address of the first poisoned granule of 1,024 bytes, leaving out granules whose bytes all come from the
strand's buffer. -/
def State.recordPoison (s : State) (core k : Nat) (l : Loc) (f : Word) : Option Nat :=
  ((List.range 32).find? (fun i => s.poisonedAt (l.plus (32 * i)) 32 &&
    !((List.range 32).all (fun j => (s.forward core (l.plus (32 * i + j)) (s.strandAt core k).buffer).isSome)))).map
    (fun i => f.toNat + 32 * i)

/-- R368. -/
def execCtxRest (a : Reg) (g : Pred) (s : State) : Out :=
  .next
    (if s.me.getP g then
      (let f := s.me.getX a
       if field f.toNat 9 0 ≠ 0 then s.takeTrap causeMisaligned f
       else
         let c := s.cur.core
         let k := s.cur.strand
         let r := s.scalarReach f.toNat 1024 s.needLoad
         let s' := r.2
         match r.1 with
         | .trap e => s'.takeTrap e f
         | .cut dev => s'.cutTrap dev
         | .wait => s'.holdWithheld f.toNat
         | .ok pa leaf =>
           match s'.cutOff (s'.locOf pa), s'.locOf pa with
           | some dev, _ => s'.cutTrap dev
           | none, .remote dev x =>
             let seq := (s'.flow dev clsRequest).next
             (s'.send dev clsRequest opRead x [1024, forStrand, c, s.cur.strand, seq] [] 0 c).holdResponse
               ⟨0, 1024, false, false, none, f.toNat, pa, none, [], 4, s.time, seq⟩
           | none, l => (s'.touchLine (clusterOf c) pa (leafPolicy leaf) false).restoreRecord c k f
               (s'.loadBytes c k l 1024) (s'.recordPoison c k l f))
     else s.complete 4)

/-- Every store buffer of a cluster's cores performed: the accesses translated by its cache (R83 step 2). -/
def State.drainCluster (s : State) (cl : Nat) : State :=
  (List.range 8).foldl (fun t i => t.drainCore (8 * cl + i)) s

/-- The entries of a translation cache that a flush of a context leaves (R369). -/
def keepTlb (ctx : Nat) (all : Bool) (t : List TlbEntry) : List TlbEntry :=
  if all then [] else t.filter (fun e => e.ctx != some ctx)

/-- Does a cached translation map a physical address? -/
def State.covers (s : State) (e : TlbEntry) (pa : Nat) : Bool :=
  let f := s.ownHbm (leafFrame e.leaf)
  decide (f ≤ pa) && decide (pa < f + pageSize e.level)

/-- Is an update of the pool unit of a core, or of a stack's, to a physical byte that a test accepts? A byte of a window's region stands for the HBM byte it
serves (R122). -/
def State.updateTo (s : State) (core : Nat) (f : Nat → Bool) (u : Update) : Bool :=
  match u.addr with
  | .phys pa => f pa
  | .sp a => match s.backing core a with | some pa => f pa | none => false

/-- The core that a packet serves. -/
def Packet.core (p : Packet) : Nat := if p.op = opAtomic ∨ p.op = opAdmit then p.field 5 else if p.op = opUpdate then p.field 3 else p.field 2

/-- Is an access of some cores to a physical byte that a test accepts not yet performed: an update on its way, or a packet neither acknowledged nor
answered, whether or not its crew is still there? Stores in buffers are counted elsewhere: they are performed. -/
def State.unperformed (s : State) (f : Nat → Bool) (mine : Nat → Bool) : Bool :=
  s.suu.any (fun q => q.2.any (fun u => u.remote.isNone && mine u.core && s.updateTo 0 f u))
    || s.cores.any (fun k => k.2.crew.puu.any (fun u => u.remote.isNone && mine u.core && s.updateTo k.1 f u))
    || s.fabric.out.any (fun q => q.2.unacked.any (fun p => p.isAccess && !(q.2.answered.contains p.seq) && mine p.core
        && f (2 ^ 51 + p.dst * 2 ^ 40 + p.addr)))

/-- Is an access of some cores that one of some translations served not yet performed (R83 step 2)? -/
def State.inFlight (s : State) (dead : List TlbEntry) (mine : Nat → Bool) : Bool :=
  s.unperformed (fun pa => dead.any (fun e => s.covers e pa)) mine

/-- R369. The tval of its CONFIG is not stated (DESIGN CHOICE, log 30). -/
def execXltFlush (a : Reg) (g : Pred) (s : State) : Out :=
  .next
    (if s.me.monitor then
      (if s.me.getP g then
        (let v := (s.me.getX a).toNat
         if field v 63 13 ≠ 0 then s.takeTrap causeConfig (BitVec.ofNat 64 (s.freeNat 32))
         else
           let cl := clusterOf s.cur.core
           let s1 := s.drainCluster cl
           let k := s1.cluster cl
           let kept := keepTlb (field v 11 0) (v.testBit 12) k.tlb
           if s1.inFlight (k.tlb.filter (fun e => !(kept.contains e))) (fun c => clusterOf c == cl) then s1
           else (s1.setCluster cl { k with tlb := kept }).complete 4)
       else s.complete 4)
     else illegal (.xltFlush a g) s)

end Sys2Proof.Machine
end

