-- ==== Sys2Proof/Machine/Fetch.lean ====
section
/-!
DEFINITION. Instruction fetch through a cluster's instruction cache (spec 03, R45 to R47), and which strand a sequencer
picks (spec 10, R273, R274).
-/
namespace Sys2Proof.Machine
open Sys2Proof

/-! ### Fetch (R45, R47) -/

/-- What fetching one word gives: the word, a trap with its csr_tval, or a wait. -/
inductive WordFetch where
  | word (w : Half)
  | trap (cause : Cause) (tval : Nat)
  | wait
  deriving DecidableEq, Repr

/-- A word put into a cluster's instruction cache. -/
def State.fillIcache (s : State) (cl n : Nat) (w : Half) : State :=
  let k := s.cluster cl
  s.setCluster cl { k with icache := tset k.icache n w }

/-- A word leaves a cluster's instruction cache, to be fetched again from memory (R47). The spec does not say when: the schedule does
(DESIGN CHOICE, log 81). -/
def State.evictCode (s : State) (cl n : Nat) : State :=
  let k := s.cluster cl
  s.setCluster cl { k with icache := tdel k.icache n }

/-- One word fetched for a strand of a core: from the cluster's cache, or from memory into the cache. A word of another
device is asked for over the fabric. A page that is not present traps, as R45 and R287 say of a fetch, where Table 4.5 has it withheld (DEDUCED, log 82). -/
def State.fetchWord (s : State) (core k : Nat) (va : Nat) : WordFetch × State :=
  let cl := clusterOf core
  let t := s.strandAt core k
  let r := s.reach core k va 4 ⟨false, false, true, t.monitor, false⟩
  match r.1 with
  | .trap c => (.trap c va, r.2)
  | .cut dev => (.trap causeFabricUnreachable (r.2.cutValue dev), r.2)
  | .wait => (if s.walk (s.crew core).info.ctx va = .notPresent then .trap causePageNotPresent va else .wait, r.2)
  | .ok pa _ =>
    let s' := r.2
    match tfind (s'.cluster cl).icache (pa / 4) with
    | some w => (.word w, s')
    | none =>
      match s'.cutOff (s'.locOf pa), s'.locOf pa with
      | some dev, _ => (.trap causeFabricUnreachable (s'.cutValue dev), s')
      | none, .remote dev a => (.wait, s'.send dev clsRequest opFetch a [4, forFetch, core, 0, pa / 4] [] 0 core)
      | none, l =>
        if s'.poisonedAt l 4 then (.trap causePoisonConsumed va, s')
        else
          let w := BitVec.ofNat 32 (ofBytes (s'.bytesAt l 4))
          (.word w, s'.fillIcache cl (pa / 4) w)

/-- What fetching an instruction gives: its words (the second 0 where there is none), a trap with its csr_tval, or a
wait for the word whose fetch is held. -/
inductive Fetched where
  | words (w v : Half)
  | trap (cause : Cause) (tval : Nat)
  | wait (va : Nat)
  deriving DecidableEq, Repr

/-- The instruction at the pc of a strand. -/
def State.fetch (s : State) (core k : Nat) : Fetched × State :=
  let pc := (s.strandAt core k).pc
  let r := s.fetchWord core k pc.toNat
  match r.1 with
  | .trap c v => (.trap c v, r.2)
  | .wait => (.wait pc.toNat, r.2)
  | .word w =>
    if isLong w then
      let q := r.2.fetchWord core k (pc + 4).toNat
      match q.1 with
      | .trap c v => (.trap c v, q.2)
      | .wait => (.wait (pc + 4).toNat, q.2)
      | .word v => (.words w v, q.2)
    else (.words w 0, r.2)

/-- The strand held by a fetch, keeping the time of its first wait. -/
def State.holdFetch (s : State) (core k va : Nat) : State :=
  let t := s.strandAt core k
  let since := match t.hold with | .fetch v n => if v = va then n else s.time | _ => s.time
  s.setStrandAt core k { t with hold := .fetch va since }

/-- A fetch for a strand settled: the words are in the cache and the strand may go on, or it traps, or it is held. -/
def State.settleFetch (s : State) (core k : Nat) : State :=
  let r := s.fetch core k
  let t := r.2.strandAt core k
  match r.1 with
  | .words _ _ => r.2.setStrandAt core k { t with hold := match t.hold with | .freed va n => .freed va n | _ => .none }
  | .trap c va => r.2.takeTrapAt core k c (BitVec.ofNat 64 va) t.pc
  | .wait va => r.2.holdFetch core k va

/-- Has the monitor been entered by a strand and not yet acted (R343)? -/
def State.atMonitor (s : State) (core k : Nat) : Bool :=
  let t := s.strandAt core k
  t.monitor && t.pc == s.monitorEntry core && !t.traps.isEmpty

/-- R45: a fetch miss of a strand that no other condition holds completes with the word, or traps. -/
def execInstructionFetch (core strand : Nat) (s : State) : Out :=
  let t := s.strandAt core strand
  .next (if t.present && !t.halted && !(s.crew core).stopped && !(s.atMonitor core strand) then
      (match t.hold with
       | .none => s.settleFetch core strand
       | .fetch _ _ => s.settleFetch core strand
       | .freed _ _ => s.settleFetch core strand
       | _ => s)
    else s)

/-- The words of the next instruction of a strand where its cluster's caches hold them: the second 0 where there is none. -/
def State.cachedWords (s : State) (core k : Nat) : Option (Half × Half) :=
  let pc := (s.strandAt core k).pc
  (s.cachedWord core pc.toNat).bind (fun w =>
    if isLong w then (s.cachedWord core (pc + 4).toNat).map (fun v => (w, v)) else some (w, 0))

/-- That instruction, where the words are one. -/
def State.cachedInstr (s : State) (core k : Nat) : Option Instr :=
  (s.cachedWords core k).bind (fun p => match decode p.1 p.2 with | .ok i => some i | .error _ => none)

/-! ### The depths of the engine queues (Table 10.2) -/

def smDepth : Nat := 32
def acDepth : Nat := 16
def afDepth : Nat := 32
def adDepth : Nat := 16
def veDepth : Nat := 16
def nxDepth : Nat := 32

end Sys2Proof.Machine
end

