-- ==== Sys2Proof/Machine/Channels.lean ====
section
/-!
DEFINITION. Tokens, channels and their bindings (spec 06, R135 to R147, R153 to R159), and what the dispatch of an engine
command reads and refuses (spec 04, R93; spec 06, R161).
-/
namespace Sys2Proof.Machine
open Sys2Proof

/-! ### Tokens (R136) -/

def kindData : Nat := 0
def kindStop : Nat := 1
def kindCount : Nat := 2
def kindError : Nat := 3

/-- Lane i of a token. -/
def Token.lane (t : Token) (i : Nat) : Nat := t.data / 2 ^ (32 * i) % 2 ^ 32
/-- A stop of a rank (Table 6.1). -/
def stopToken (rank bank : Nat) : Token := ⟨rank % 8, bank, kindStop, false⟩
/-- An error token with a code and lanes 1 and 2 (Table 6.1, R100). -/
def errorToken (code lane1 lane2 bank : Nat) : Token :=
  ⟨code % 256 + lane1 % 2 ^ 32 * 2 ^ 32 + lane2 % 2 ^ 32 * 2 ^ 64, bank, kindError, false⟩
/-- An error token of a memory stream: lanes 1 and 2 hold the element's address (R100). -/
def memoryError (code addr bank : Nat) : Token := errorToken code (addr % 2 ^ 32) (addr / 2 ^ 32) bank
def Token.isStop (t : Token) : Bool := t.kind == kindStop
/-- The rank of a stop. -/
def Token.rank (t : Token) : Nat := t.data % 8
/-- The code of an error token. -/
def Token.code (t : Token) : Nat := t.data % 256

/-! ### Channels (R135, R142, R143, R155) -/

def Crew.chan (w : Crew) (c : Nat) : Chan := tget w.chans c emptyChan
def Crew.setChan (w : Crew) (c : Nat) (x : Chan) : Crew := { w with chans := tset w.chans c x }

/-- Does an item take a slot? Markers do not (R155). -/
def Item.takesSlot : Item → Bool
  | .tok _ => true
  | _ => false

/-- Tokens in the FIFO, and in the ring. -/
def Chan.count (x : Chan) : Nat := (x.fifo.filter Item.takesSlot).length
def ringTokens (l : List RingItem) : Nat := (l.filter (fun r => match r with | .slot _ => true | .staged _ _ => true | _ => false)).length
def Chan.ringCount (x : Chan) : Nat := ringTokens x.ring
/-- Does nothing stand in the ring, or in the one that follows it? -/
def Chan.noRing (x : Chan) : Bool := x.ring.isEmpty && x.later.isEmpty

/-- The capacity of a spill ring in tokens (Table 6.13). -/
def SpillEntry.capacity (e : SpillEntry) : Nat := 16 * 2 ^ e.cap

/-- Has a channel a free slot (R142, R143)? -/
def Chan.free (x : Chan) : Bool :=
  (x.noRing && decide (x.count < Config.chanDepth)) ||
    (match x.turned with
     | some want => (match want with | some e => decide (ringTokens x.later < e.capacity) | none => false)
     | none => (match x.spill with | some e => decide (x.ringCount < e.capacity) | none => false))

/-- A marker as it stands in a ring. -/
def Item.inRing : Item → RingItem
  | .tok t => .staged 0 t
  | .marker => .marker
  | .snap b => .snap b

/-- An item enqueued: behind a ring in use, into the ring where the FIFO is full, or into the FIFO. -/
def Chan.push (x : Chan) (i : Item) : Chan :=
  let full := decide (Config.chanDepth ≤ x.count)
  match i with
  | .tok t =>
    if x.noRing && !full then { x with fifo := x.fifo ++ [.tok t] }
    else if x.turned.isSome then { x with later := x.later ++ [.staged (ringTokens x.later) t] }
    else
      let cap := match x.spill with | some e => e.capacity | none => 1
      { x with ring := x.ring ++ [.staged x.wpos t], wpos := (x.wpos + 1) % cap }
  | _ =>
    if x.noRing then { x with fifo := x.fifo ++ [i] }
    else if x.turned.isSome then { x with later := x.later ++ [i.inRing] }
    else { x with ring := x.ring ++ [i.inRing] }

/-- Does the next token go to the ring? -/
def Chan.spilling (x : Chan) : Bool := !x.noRing || decide (Config.chanDepth ≤ x.count)

/-- The channel without its head item. -/
def Chan.pop (x : Chan) : Chan := { x with fifo := x.fifo.tail }

/-- What a consumer sees at the head of a channel: nothing, a terminator marker, an aligned stop of rank 0 (placed by the
context-save engine or not) or 7, or another token. -/
inductive View where
  | empty
  | marker
  | zero (t : Token) (placed : Bool)
  | seven (t : Token)
  | tok (t : Token)
  deriving DecidableEq, Repr

/-- The view of an item. -/
def Item.view : Item → View
  | .marker => .marker
  | .snap b => .zero (stopToken 0 b) true
  | .tok t => if t.isStop then (if t.rank = 0 then .zero t false else if t.rank = 7 then .seven t else .tok t)
      else .tok t

def View.isSeven : View → Bool
  | .seven _ => true
  | _ => false

/-- The view of a channel's head. -/
def Chan.view (x : Chan) : View :=
  match x.fifo with
  | [] => .empty
  | i :: _ => i.view

/-- The token at a channel's head as an element or a stream sees it. A snapshot marker that the context-save engine placed is
never delivered: CREW_SAVE removes it there (R350). -/
def Chan.head (x : Chan) : Option Token :=
  match x.fifo with
  | .tok t :: _ => some t
  | _ => none

/-- Is a terminator marker anywhere in the channel? -/
def Chan.hasMarker (x : Chan) : Bool :=
  x.fifo.any (fun i => i == .marker) || (x.ring ++ x.later).any (fun r => r == .marker)

/-- Is the channel empty of tokens? -/
def Chan.drained (x : Chan) : Bool := x.count == 0 && x.ringCount == 0 && ringTokens x.later == 0

/-! ### Bindings (R138, Tables 6.8 to 6.12) -/

/-- The channels a node or gate consumes, control input last, by key: 0 to 7 link, 8 to 11 repeat, 12 to 15 steer,
16 to 19 merge, 20 to 27 gates. -/
def nodeIns (key w : Nat) : List Nat :=
  if key < 8 then [field w 5 1]
  else if key < 12 then [field w 5 1, field w 10 6]
  else if key < 16 then [field w 5 1, field w 10 6]
  else if key < 20 then
    (List.range (field w 32 31 + 1)).map (fun i => field w (5 * i + 5) (5 * i + 1)) ++ (if w.testBit 33 then [] else [field w 25 21])
  else [field w 10 6]

/-- The channels a node produces into. -/
def nodeOuts (key w : Nat) (map : List Nat) : List Nat :=
  if key < 8 then (if w.testBit 11 then map else [field w 10 6])
  else if key < 12 then [field w 15 11]
  else if key < 16 then (List.range (field w 32 31 + 1)).map (fun i => field w (5 * i + 15) (5 * i + 11))
  else if key < 20 then [field w 30 26]
  else []

/-- Port i of a port word: a channel with an enable bit above it (R191, R226). -/
def portOf (w i : Nat) : Option Nat := if w.testBit (6 * i + 5) then some (field w (6 * i + 4) (6 * i)) else none

/-- The channels of an element's input ports 0 to 3 and output ports 4 and 5 (R226). -/
def portIns (w : Nat) : List Nat := (List.range 4).filterMap (portOf w)
def portOuts (w : Nat) : List Nat := [4, 5].filterMap (portOf w)

/-- The key of the array among the engines, and of element e: 32 + e. -/
def keyArray : Nat := 28
def keyElement (e : Nat) : Nat := 32 + e

/-- The channels that an engine consumes (prod false) or produces into under a set of planes. -/
def Shadow.uses (h : Shadow) (prod : Bool) (key : Nat) : List Nat :=
  if key < 28 then
    (match tfind h.nodes key with
     | some w => if prod then nodeOuts key w (tget h.maps key []) else nodeIns key w
     | none => [])
  else if key = 28 then
    (if prod then (List.range 4).filterMap (portOf h.array.drains) else maskBits 32 h.array.feeds)
  else
    let p := (tget h.planes (key - 32) emptyPlane).ports
    if prod then portOuts p else portIns p

/-- The engines of a core by key. -/
def engineKeys : List Nat := List.range 29 ++ (List.range 8).map (· + 32)

/-- The engine other than `skip` that consumes or produces into a channel. -/
def Shadow.party (h : Shadow) (prod : Bool) (ch skip : Nat) : Option Nat :=
  engineKeys.find? (fun k => k != skip && (h.uses prod k).contains ch)

/-- An nx.chan block: en, the key of its endpoint (its local channel, plus 32 on the consumer side), identifier (R254). -/
def NxCmd.chanEn (c : NxCmd) : Bool := c.blk.testBit 0
def NxCmd.chanKey (c : NxCmd) : Nat := field c.blk 6 2 + 32 * field c.blk 1 1

/-- Does an elastic endpoint, or an nx.chan dispatched to declare one, hold the channel in the role (R138)? -/
def Crew.endpointHolds (w : Crew) (prod : Bool) (ch : Nat) : Bool :=
  let key := if prod then ch + 32 else ch
  (tfind w.endpoints key).isSome || w.nxq.any (fun c => c.op == .chan && c.chanEn && c.chanKey == key)

/-- Is the role of a channel held under a set of planes by an engine other than `skip`, or by an elastic endpoint? -/
def Crew.roleTaken (w : Crew) (h : Shadow) (prod : Bool) (ch skip : Nat) : Bool :=
  (h.party prod ch skip).isSome || w.endpointHolds prod ch

/-- The planes that are active now. -/
def Crew.active (w : Crew) : Shadow where
  nodes := w.graph.active.nodes
  maps := w.graph.active.maps
  array := w.array.active
  planes := w.elems.map (fun e => (e.1, e.2.active))

/-! ### The wave in progress (R155 to R159) -/

/-- The wave whose terminator is moving, if any. -/
def Crew.moving (w : Crew) : Option Wave :=
  match w.graph.waves with
  | v :: _ => if v.begun then some v else none
  | [] => none

/-- Does a wave name an engine? -/
def Wave.names (v : Wave) (key : Nat) : Bool :=
  if key = 28 then v.mask.testBit 1 else if 32 ≤ key then v.mask.testBit (2 + (key - 32)) else v.mask.testBit 0

/-- Has an engine passed the moving terminator, so that it is in its new plane? -/
def Crew.passed (w : Crew) (key : Nat) : Bool :=
  match w.moving with
  | some v => v.names key && smem v.passed key
  | none => false

/-- Is an engine still to pass the moving terminator? -/
def Crew.unpassed (w : Crew) (key : Nat) : Bool :=
  match w.moving with
  | some v => v.names key && !(smem v.passed key)
  | none => false

/-- The period that the moving wave ends. -/
def Crew.oldPeriod (w : Crew) : Nat := w.graph.period - w.graph.waves.length

/-- Does a command of a period come after the terminator that is moving? -/
def Crew.isNew (w : Crew) (period : Nat) : Bool := w.moving.isSome && decide (w.oldPeriod < period)

/-- The channels that a stream command sends to, and those it takes tokens from. -/
def SmCmd.outs (c : SmCmd) : List Nat :=
  let cha := field c.b 8 4
  let chb := field c.b 13 9
  let chc := field c.b 18 14
  match c.op with
  | .aff => if c.b.testBit 19 then c.dests else [cha]
  | .isx => [cha]
  | .ind => if c.b.testBit 19 then c.dests else [chb]
  | .upd => if (field c.blk 159 128).testBit 25 then [chc] else []
  | _ => []
def SmCmd.ins (c : SmCmd) : List Nat :=
  let cha := field c.b 8 4
  let chb := field c.b 13 9
  match c.op with
  | .afw => [cha]
  | .ind => [cha]
  | .sct => [cha, chb]
  | .upd => [cha, chb]
  | _ => []

/-- The channels of an nx.xget: the index channel and the output channel (R246). -/
def NxCmd.index (c : NxCmd) : Nat := field c.chans 4 0
def NxCmd.output (c : NxCmd) : Nat := field c.chans 9 5

/-- The nx.xget commands of a crew not yet completed. -/
def Crew.xgets (w : Crew) : List NxCmd := (w.nxq ++ w.nx.map (fun j => j.2.cmd)).filter (fun c => c.op == .xget)

/-- Do a stream command or an nx.xget, dispatched and not completed, hold a channel in a role or come to hold it (R138)? -/
def Crew.streamHolds (w : Crew) (prod : Bool) (ch : Nat) : Bool :=
  (w.streams.queue ++ w.streams.slots.map (fun a => a.2.cmd)).any (fun c => (if prod then c.outs else c.ins).contains ch)
    || w.xgets.any (fun c => (if prod then c.output else c.index) == ch)

/-- Does an active stream or an nx.xget of the old period send to a channel? -/
def Crew.oldStreamTo (w : Crew) (ch : Nat) : Bool :=
  match w.moving with
  | some v => v.slots.any (fun n => match tfind w.streams.slots n with | some a => a.cmd.outs.contains ch | none => false)
      || w.xgets.any (fun c => decide (c.period ≤ w.oldPeriod) && c.output == ch)
  | none => false

/-- Does an active stream or an nx.xget of the old period take tokens from a channel? -/
def Crew.oldStreamFrom (w : Crew) (ch : Nat) : Bool :=
  match w.moving with
  | some v => v.slots.any (fun n => match tfind w.streams.slots n with | some a => a.cmd.ins.contains ch | none => false)
      || w.xgets.any (fun c => decide (c.period ≤ w.oldPeriod) && c.index == ch)
  | none => false

/-- May a party of the new period take tokens from a channel: has every old consumer of it gone? -/
def Crew.mayRead (w : Crew) (isNew : Bool) (self ch : Nat) : Bool :=
  !isNew || (match w.moving with
    | none => true
    | some v => !(v.slotIns.contains ch) &&
        engineKeys.all (fun k => k == self || !(w.unpassed k) || !((w.active.uses false k).contains ch)))

/-- May a party of the new period send to a channel: has every old producer of it gone? -/
def Crew.mayWrite (w : Crew) (isNew : Bool) (self ch : Nat) : Bool :=
  !isNew || (w.moving.isNone || (!(w.oldStreamTo ch) &&
    engineKeys.all (fun k => k == self || !(w.unpassed k) || !((w.active.uses true k).contains ch))))

/-- Has a channel a consumer in the old period of the moving wave (R158)? -/
def Crew.oldConsumer (w : Crew) (v : Wave) (ch : Nat) : Bool :=
  v.slotIns.contains ch || (tfind w.endpoints ch).isSome
    || engineKeys.any (fun k => !(w.passed k) && (w.active.uses false k).contains ch)

/-- Has a channel a producer in the old period of the moving wave that has not passed? -/
def Crew.oldFed (w : Crew) (ch : Nat) : Bool :=
  w.oldStreamTo ch || (match w.moving with
    | some v => engineKeys.any (fun k => v.names k && !(smem v.passed k) && (w.active.uses true k).contains ch)
    | none => false)

/-- The channel's ring changed to the one of the active plane, once the terminator has passed the channel and the old ring is empty; until then what follows
the terminator waits for the new one (R144, R156). -/
def Crew.settleSpill (w : Crew) (ch : Nat) : Crew :=
  let x := w.chan ch
  let want := tfind w.graph.active.spills ch
  if x.spill == want || w.oldFed ch then w
  else if x.ring.isEmpty && !(x.fifo.any (fun i => i == .marker)) then
    w.setChan ch { x with spill := want, wpos := (match want with | some e => ringTokens x.later % e.capacity | none => 0), ring := x.later, turned := none, later := [], opened := false }
  else w.setChan ch { x with turned := some want }

/-- Every channel's ring so changed. -/
def Crew.settleSpills (w : Crew) : Crew := (List.range 32).foldl (fun u ch => u.settleSpill ch) w

/-- The crew with markers placed on those of the channels that have a consumer in the old period. -/
def Crew.placeMarkers (w : Crew) (v : Wave) (chs : List Nat) : Crew :=
  chs.foldl (fun u ch => (if w.oldConsumer v ch then u.setChan ch ((u.chan ch).push .marker) else u)) w

/-! ### Enqueueing and dequeueing (R142, R146) -/

/-- The gate of the active plane that governs a channel. -/
def Crew.gateOf (w : Crew) (ch : Nat) : Option Nat :=
  (List.range 8).find? (fun i => match tfind w.graph.active.nodes (20 + i) with
    | some g => field g 5 1 == ch
    | none => false) |>.map (· + 20)

/-- Is there credit for a token on a channel (R146, R147)? Stops need none. -/
def Crew.creditFor (w : Crew) (ch : Nat) : Bool :=
  (match w.gateOf ch with | some k => tget w.graph.credits k 0 != 0 | none => true)
    && (match tfind w.endpoints ch with | some e => e.credit != 0 | none => true)

/-- Does the credit of a channel cover a token beyond n others (R146)? -/
def Crew.creditOver (w : Crew) (ch n : Nat) : Bool :=
  (match w.gateOf ch with | some k => decide (n < tget w.graph.credits k 0) | none => true)
    && (match tfind w.endpoints ch with | some e => decide (n < e.credit) | none => true)

/-- Can a token be enqueued on a channel now? -/
def Crew.canSend (w : Crew) (t : Token) (ch : Nat) : Bool :=
  ((w.settleSpill ch).chan ch).free && (t.isStop || w.creditFor ch)

/-- One credit spent on a channel. -/
def Crew.spend (w : Crew) (ch : Nat) : Crew :=
  let w1 := match w.gateOf ch with
    | some k => { w with graph := { w.graph with credits := tset w.graph.credits k (tget w.graph.credits k 0 - 1) } }
    | none => w
  match tfind w1.endpoints ch with
  | some e => { w1 with endpoints := tset w1.endpoints ch { e with credit := e.credit - 1 } }
  | none => w1

/-- A token enqueued on a channel: its credit spent, and csr_spill's sticky bit set where it goes to the ring. -/
def Crew.enqueue (w : Crew) (t : Token) (ch : Nat) : Crew :=
  let w0 := w.settleSpill ch
  let x := w0.chan ch
  let w1 := if t.isStop then w0 else w0.spend ch
  let w2 := w1.setChan ch (x.push (.tok t))
  if x.spilling then { w2 with spilled := w2.spilled ||| BitVec.ofNat 32 (2 ^ ch) } else w2

/-- A token enqueued on every channel of a list. -/
def Crew.enqueueAll (w : Crew) (t : Token) (chs : List Nat) : Crew := chs.foldl (fun u c => u.enqueue t c) w

/-- A stop of rank 0 enqueued: as a marker of the context-save engine it takes no slot. -/
def Crew.enqueueZero (w : Crew) (t : Token) (placed : Bool) (chs : List Nat) : Crew :=
  if placed then chs.foldl (fun u c => u.setChan c ((u.chan c).push (.snap t.bank))) w
  else w.enqueueAll t chs

/-- Can a stop of rank 0 be enqueued on every channel of a list? -/
def Crew.canZero (w : Crew) (placed : Bool) (chs : List Nat) : Bool := placed || chs.all (fun c => ((w.settleSpill c).chan c).free)

/-- The crew with the head item of a channel taken. -/
def Crew.dequeue (w : Crew) (ch : Nat) : Crew := w.setChan ch (w.chan ch).pop

/-! ### Dispatch (R50, R55, R93, R275) -/

/-- Bytes of the scratchpad as the current strand's dispatch sees them: its own earlier stores observed (R93). -/
def State.dispatchBytes (s : State) (a n : Nat) : List Byte :=
  s.loadBytes s.cur.core s.cur.strand (.pool s.cur.core a) n

/-- The first poisoned byte address of n scratchpad bytes, leaving out granules whose bytes all come from the strand's
own buffer. -/
def State.dispatchPoison (s : State) (a n : Nat) : Option Nat :=
  (granules a n).find? (fun g => smem s.mine.poolPoison g &&
    !((List.range 32).all (fun j => (s.forward s.cur.core (.pool s.cur.core (32 * g + j)) s.me.buffer).isSome))) |>.map
      (fun g => Nat.max a (32 * g))

/-- A dispatch refused: a cause and csr_tval. -/
abbrev Refused := Cause × Nat

/-- CONFIG of majors 0x24 and 0x25 for operand a or b (R93). -/
def configA : Refused := (causeConfig, 0x40)
def configB : Refused := (causeConfig, 0x48)

/-- The first refusal of a list of checks, each a condition that must hold. -/
def firstRefusal : List (Bool × Refused) → Option Refused
  | [] => none
  | (ok, r) :: rest => if ok then firstRefusal rest else some r

/-- The trap of a refused dispatch. -/
def State.refuse (s : State) (r : Refused) : State := s.takeTrap r.1 (BitVec.ofNat 64 r.2)

/-- A multicast map as it stands: its enabled channels, or none where it is empty or names a channel twice (R119). -/
def Crew.mapChannels (w : Crew) (m : Nat) : Option (List Nat) :=
  let v := (tget w.maps m 0).toNat
  let chs := (maskBits 8 (field v 47 40)).map (fun i => field v (5 * i + 4) (5 * i))
  if chs.isEmpty || chs.eraseDups.length != chs.length then none else some chs

/-- One more SM command of a strand not yet completed (R292). -/
def Crew.opened (w : Crew) (strand : Nat) : Crew :=
  { w with streams := { w.streams with open_ := tset w.streams.open_ strand (tget w.streams.open_ strand 0 + 1) } }

/-- One SM command of a strand completed, with or without its signal. -/
def Crew.closed (w : Crew) (strand : Nat) : Crew :=
  { w with streams := { w.streams with open_ := tset w.streams.open_ strand (tget w.streams.open_ strand 0 - 1) } }

/-- An SM command completed and signalled. -/
def Crew.smDone (w : Crew) (strand sem : Nat) : Crew := (w.closed strand).signal sem

/-- A command put into the SM queue by the current strand. -/
def State.pushSm (s : State) (c : SmCmd) : State :=
  let w := (s.mine.opened s.cur.strand)
  (s.setMine { w with streams := { w.streams with queue := w.streams.queue ++ [c] } }).complete 4

/-- Is the SM queue full? -/
def Crew.smFull (w : Crew) : Bool := decide (smDepth ≤ w.streams.queue.length)

/-! ### Spilling (R143, R144) -/

/-- The place of entry n of a spill ring: a scratchpad byte of the core, or a byte of HBM through its bound frames. -/
def State.ringLoc (s : State) (core : Nat) (e : SpillEntry) (n : Nat) : Loc :=
  let a := e.base + 64 * n
  if e.space = 1 then .pool core a else s.locOf (tget e.frames (a / 65536) 0 + a % 65536)

/-- A spill ring entry (Table 6.2). -/
def spillBytes (t : Token) : List Byte :=
  bytesOf 32 t.data ++ bytesOf 1 (t.bank % 4 + 4 * (t.kind % 4) + 16 * b2n t.poison) ++ bytesOf 31 0

/-- The token of a spill ring entry. -/
def spillToken (b : List Byte) : Token :=
  let tag := ofBytes ((b.drop 32).take 1)
  ⟨ofBytes (b.take 32), tag % 4, tag / 4 % 4, tag.testBit 4⟩

/-- The first token of a ring that is still on its way to memory. -/
def firstStaged : List RingItem → Option (Nat × Token)
  | [] => none
  | .staged n t :: _ => some (n, t)
  | _ :: r => firstStaged r

/-- The ring with that token in memory. -/
def settleStaged : List RingItem → List RingItem
  | [] => []
  | .staged n _ :: r => .slot n :: r
  | i :: r => i :: settleStaged r

/-- R143: a token that went to the ring is written there. -/
def execSpillWrite (core channel : Nat) (s : State) : Out :=
  let x := (s.crew core).chan channel
  .next (match x.spill, firstStaged x.ring with
    | some e, some (n, t) =>
      let s1 := s.modCrew core (fun w => w.setChan channel { x with ring := settleStaged x.ring })
      s1.writeLoc (s1.ringLoc core e n) (spillBytes t) false
    | _, _ => s)

/-- R143: the oldest item of the ring goes to the FIFO where the FIFO has a slot for it. -/
def execSpillRefill (core channel : Nat) (s : State) : Out :=
  let x := (s.crew core).chan channel
  let put := fun (i : Item) (r : List RingItem) =>
    s.modCrew core (fun w => (w.setChan channel { x with fifo := x.fifo ++ [i], ring := r }).settleSpill channel)
  let room := decide (x.count < Config.chanDepth)
  .next (match x.ring with
    | .marker :: r => put .marker r
    | .snap b :: r => put (.snap b) r
    | .staged _ t :: r => if room then put (.tok t) r else s
    | .slot n :: r =>
      if room then
        (match x.spill with
         | some e => put (.tok (spillToken (s.rawBytes (s.ringLoc core e n) 64))) r
         | none => s)
      else s
    | [] => s.modCrew core (fun w => w.settleSpill channel))

end Sys2Proof.Machine
end

