-- ==== Sys2Proof/Machine/Graph.lean ====
section
/-!
DEFINITION. The operand graph (spec 06): what the nodes and gates do with their tokens (R139 to R152), and the commands
that write its idle plane, inject tokens, and drain channels (R161 to R163).
-/
namespace Sys2Proof.Machine
open Sys2Proof

/-! ### A step of an engine -/

/-- A step of an engine of a core: its effect on the crew, or nothing where it has no work; nothing on a core that no
crew holds. -/
def State.engine (s : State) (core : Nat) (f : Crew → Option Crew) : State :=
  if (s.core core).held then
    (match f (s.crew core) with
     | some w => s.setCrew core w
     | none => s)
  else s

/-- A node's own state. -/
def Crew.nodeState (w : Crew) (key : Nat) : NodeState := tget w.graph.states key emptyNode
def Crew.setNode (w : Crew) (key : Nat) (n : NodeState) : Crew :=
  { w with graph := { w.graph with states := tset w.graph.states key n } }

/-- What a node or gate sees at the head of a channel it consumes. -/
def Crew.see (w : Crew) (key ch : Nat) : View :=
  if w.mayRead (w.passed key) key ch then (w.chan ch).view else .empty

/-- Can an engine send a token on every channel of a list? -/
def Crew.canAll (w : Crew) (key : Nat) (t : Token) (chs : List Nat) : Bool :=
  chs.all (fun c => w.mayWrite (w.passed key) key c && w.canSend t c)

/-- A token moved from a channel's head to every channel of a list, if each has room (R142). -/
def Crew.forwardTo (w : Crew) (key src : Nat) (t : Token) (dst : List Nat) : Option Crew :=
  if w.canAll key t dst then some ((w.dequeue src).enqueueAll t dst) else none

/-- A stop of rank 0 sent on every channel of a list, if each has room. -/
def Crew.sendZero (w : Crew) (key : Nat) (t : Token) (placed : Bool) (dst : List Nat) : Option Crew :=
  if dst.all (fun c => w.mayWrite (w.passed key) key c) && w.canZero placed dst then some (w.enqueueZero t placed dst) else none

/-! ### Link nodes (R149) -/

/-- A token under a link's rebank field. -/
def rebank (wd : Nat) (t : Token) : Token := if wd.testBit 16 then { t with bank := field wd 18 17 } else t

/-- One token through a link node. -/
def Crew.linkMove (w : Crew) (key : Nat) : Option Crew :=
  match tfind w.graph.active.nodes key with
  | none => none
  | some wd =>
    let ci := field wd 5 1
    let outs := nodeOuts key wd (tget w.graph.active.maps key [])
    match w.see key ci with
    | .tok t => w.forwardTo key ci (rebank wd t) outs
    | .seven t => w.forwardTo key ci (rebank wd t) outs
    | .zero t placed => (w.sendZero key (rebank wd t) placed outs).map (fun u => u.dequeue ci)
    | _ => none

/-! ### Segments (R140) -/

/-- Does a token, not a stop of rank 0 or 7, end a segment of a level? -/
def segmentEnds (lvl : Nat) (t : Token) : Bool := if lvl = 0 then !t.isStop else t.isStop && decide (lvl ≤ t.rank)

/-- The kind and index of a node in its error tokens (R152). -/
def nodeTag (key : Nat) : Nat :=
  if key < 8 then 16 + key else if key < 12 then 32 + (key - 8) else if key < 16 then 48 + (key - 12) else 64 + (key - 16)

/-- An error token made by a node (R152). -/
def nodeError (key code bank : Nat) : Token := errorToken code (nodeTag key) 0 bank

/-- The level field of a repeat, steer or merge word. -/
def nodeLevel (key wd : Nat) : Nat :=
  if key < 12 then field wd 18 16 else if key < 16 then field wd 35 33 else field wd 36 34

/-- A stop of rank 0 inside a buffered segment; a bank of 4 to 7 marks one that the context-save engine placed. -/
def bufferedZero (t : Token) (placed : Bool) : Token := { t with bank := t.bank % 4 + if placed then 4 else 0 }
def Token.isZero (t : Token) : Bool := t.isStop && t.rank == 0

/-- A buffered stop of rank 0 sent. -/
def Crew.sendBuffered (w : Crew) (key : Nat) (t : Token) (dst : List Nat) : Option Crew :=
  w.sendZero key { t with bank := t.bank % 4 } (decide (4 ≤ t.bank)) dst

/-- A segment being discarded (R149, R151): buffered stops of rank 0 leave first; at the segment's end one error token
stands in its place. Code 0 sends nothing. Stops outside a segment of level 0 go on every channel of `outs`. -/
def Crew.discardStep (w : Crew) (key ci lvl code bank : Nat) (co : Nat) (outs : List Nat) : Option Crew :=
  let st := w.nodeState key
  let finish := fun (u : Crew) =>
    let done := u.setNode key emptyNode
    if code = 0 then some done
    else if u.canAll key (nodeError key code bank) [co] then some (done.enqueue (nodeError key code bank) co) else none
  match st.buf with
  | z :: r => (w.sendBuffered key z [co]).map (fun u => u.setNode key { st with buf := r })
  | [] =>
    match w.see key ci with
    | .tok t =>
      if lvl = 0 ∧ t.isStop = true then w.forwardTo key ci t outs
      else if segmentEnds lvl t then (finish w).map (fun u => u.dequeue ci)
      else some (w.dequeue ci)
    | .seven _ => finish w
    | .marker => finish w
    | _ => none

/-! ### Repeat nodes (R149) -/

/-- The state of a repeat node once its segment is collected: n repetitions to emit, or with n = 0 its stops of rank 0. -/
def collected (n : Nat) (poison : Bool) (buf : List Token) : NodeState :=
  let b := if n = 0 then buf.filter Token.isZero
    else buf.map (fun t => if poison then { t with poison := true } else t)
  if b.isEmpty then emptyNode else ⟨.emit (if n = 0 then 1 else n) 0 true, b, 0, none⟩

/-- The state of a repeat node whose segment t carries beyond 256 tokens (R149, R152). -/
def overlong (st : NodeState) (n : Nat) (t : Token) : NodeState :=
  { st with phase := .discard (if n = 0 then 0 else 0x20) ((st.buf.headD t).bank % 4) 0, buf := st.buf.filter Token.isZero }

/-- The state after position pos of a repetition has been emitted. -/
def emitted (st : NodeState) (left pos : Nat) (first : Bool) : NodeState :=
  if pos + 1 < st.buf.length then { st with phase := .emit left (pos + 1) first }
  else if left ≤ 1 then emptyNode
  else { st with phase := .emit (left - 1) 0 false }

/-- One token of a repetition emitted: stops of rank 0 in the first repetition only. -/
def Crew.repeatEmit (w : Crew) (key co left pos : Nat) (first : Bool) : Option Crew :=
  let st := w.nodeState key
  match st.buf[pos]? with
  | none => some (w.setNode key emptyNode)
  | some t =>
    if t.isZero then
      (if first then (w.sendBuffered key t [co]).map (fun u => u.setNode key (emitted st left pos first))
       else some (w.setNode key (emitted st left pos first)))
    else if w.canAll key t [co] then some ((w.enqueue t co).setNode key (emitted st left pos first))
    else none

/-- One token of a segment collected (R149): beyond 256 tokens the segment is discarded to its end. -/
def Crew.repeatCollect (w : Crew) (key ci co lvl n : Nat) (poison : Bool) : Option Crew :=
  let st := w.nodeState key
  match w.see key ci with
  | .tok t =>
    if lvl = 0 ∧ t.isStop = true then w.forwardTo key ci t [co]
    else
      let u := w.dequeue ci
      if 256 ≤ st.seen then
        if segmentEnds lvl t then
          (if n = 0 then some (u.setNode key (collected 0 false st.buf)) else some (w.setNode key (overlong st n t)))
        else some (u.setNode key (overlong st n t))
      else if segmentEnds lvl t then some (u.setNode key (collected n poison (st.buf ++ [t])))
      else some (u.setNode key { st with buf := st.buf ++ [t], seen := st.seen + 1 })
  | .seven _ => some (w.setNode key (collected n poison st.buf))
  | .marker => some (w.setNode key (collected n poison st.buf))
  | _ => none

/-- A count token taken for the segment that follows (R149, R151). Where the data input has reached the terminator, the
count governs an empty segment. -/
def Crew.repeatBegin (w : Crew) (key ci cc co lvl : Nat) : Option Crew :=
  let data := w.see key ci
  match data with
  | .tok t =>
    if lvl = 0 ∧ t.isStop = true then (if (w.see key cc).isSeven then none else w.forwardTo key ci t [co]) else takeCount data
  | _ => takeCount data
where
  /-- the head of the count channel consumed -/
  takeCount (data : View) : Option Crew :=
    match w.see key cc with
    | .tok c =>
      if c.isStop then some (w.dequeue cc)
      else
        let begun : NodeState :=
          if c.kind = kindCount then ⟨.collect (if c.poison then 1 else c.lane 0) c.poison, [], 0, none⟩
          else ⟨.discard 0x22 c.bank 0, [], 0, none⟩
        (match data with
         | .tok _ => some ((w.dequeue cc).setNode key begun)
         | .zero _ _ => some ((w.dequeue cc).setNode key begun)
         | .marker => some (if c.kind = kindCount then w.dequeue cc else (w.dequeue cc).setNode key begun)
         | _ => none)
    | _ => none

/-- One token's work of a repeat node. -/
def Crew.repeatMove (w : Crew) (key : Nat) : Option Crew :=
  match tfind w.graph.active.nodes key with
  | none => none
  | some wd =>
    let ci := field wd 5 1
    let cc := field wd 10 6
    let co := field wd 15 11
    let lvl := nodeLevel key wd
    match (w.nodeState key).phase with
    | .emit left pos first => w.repeatEmit key co left pos first
    | .collect n p => w.repeatCollect key ci co lvl n p
    | .discard code bank _ => w.discardStep key ci lvl code bank co [co]
    | _ => w.repeatBegin key ci cc co lvl

/-! ### Steer nodes (R149) -/

/-- One token of a segment moved from channel ci to `dst`; the segment's end leaves the node idle. A stop outside a segment
of level 0 goes on every channel of `outs`; where `alone` it counts as a segment. -/
def Crew.segmentMove (w : Crew) (key ci lvl : Nat) (poison alone : Bool) (dst outs : List Nat) : Option Crew :=
  let st := w.nodeState key
  match w.see key ci with
  | .tok t =>
    let t1 := if poison then { t with poison := true } else t
    if lvl = 0 ∧ t.isStop = true then
      (w.forwardTo key ci t outs).map (fun u => if alone then u.setNode key emptyNode else u)
    else (w.forwardTo key ci t1 dst).map (fun u =>
      u.setNode key (if segmentEnds lvl t then emptyNode else { st with seen := st.seen + 1 }))
  | .seven _ => some (w.setNode key emptyNode)
  | .marker => some (w.setNode key emptyNode)
  | _ => none

/-- A selector token taken for the segment that follows on ci (R149, R151). -/
def selected (c : Token) (limit : Nat) : NodePhase :=
  if c.kind ≠ kindData then .discard 0x22 c.bank 0
  else if c.poison then .moving 0 true
  else if c.lane 0 < limit then .moving (c.lane 0) false
  else .discard 0x23 c.bank 0

/-- Does a node in a phase discard its segment? -/
def NodePhase.discards : NodePhase → Bool
  | .discard _ _ _ => true
  | _ => false

/-- One token's work of a steer node. -/
def Crew.steerMove (w : Crew) (key : Nat) : Option Crew :=
  match tfind w.graph.active.nodes key with
  | none => none
  | some wd =>
    let ci := field wd 5 1
    let cs := field wd 10 6
    let outs := nodeOuts key wd []
    let lvl := nodeLevel key wd
    match (w.nodeState key).phase with
    | .moving k p => w.segmentMove key ci lvl p false [outs.getD k 0] outs
    | .discard code bank _ => w.discardStep key ci lvl code bank (outs.getD 0 0) outs
    | _ =>
      let data := w.see key ci
      let outside := match data with | .tok t => decide (lvl = 0) && t.isStop | _ => false
      if outside then (match data with | .tok t => if (w.see key cs).isSeven then none else w.forwardTo key ci t outs | _ => none)
      else match w.see key cs with
        | .tok c =>
          if c.isStop then some (w.dequeue cs)
          else
            let begun : NodeState := ⟨selected c outs.length, [], 0, none⟩
            (match data with
             | .tok _ => some ((w.dequeue cs).setNode key begun)
             | .zero _ _ => some ((w.dequeue cs).setNode key begun)
             | .marker => some (if begun.phase.discards then (w.dequeue cs).setNode key begun else w.dequeue cs)
             | _ => none)
        | _ => none

/-! ### Merge nodes (R149) -/

/-- A selector of a merge node taken: a value beyond the inputs or a token of the wrong kind sends its error token at
once, since it names no segment. -/
def Crew.mergeSelect (w : Crew) (key cs co : Nat) (ins : List Nat) (c : Token) : Option Crew :=
  if c.isStop then some (w.dequeue cs)
  else match selected c ins.length with
    | .moving k p =>
      (match w.see key (ins.getD k 0) with
       | .empty => none
       | _ => some ((w.dequeue cs).setNode key ⟨.moving k p, [], 0, none⟩))
    | .discard code bank _ =>
      let e := nodeError key code bank
      if w.canAll key e [co] then some ((w.dequeue cs).enqueue e co) else none
    | _ => none

/-- One token's work of a merge node. -/
def Crew.mergeMove (w : Crew) (key : Nat) : Option Crew :=
  match tfind w.graph.active.nodes key with
  | none => none
  | some wd =>
    let fc := wd.testBit 33
    let all := nodeIns key wd
    let ins := if fc then all else all.dropLast
    let co := field wd 30 26
    let lvl := nodeLevel key wd
    let st := w.nodeState key
    match st.phase with
    | .moving k p =>
      (match fc, st.seen, w.see key (ins.getD k 0) with
       | false, 0, .seven _ => none
       | _, _, _ => w.segmentMove key (ins.getD k 0) lvl p fc [co] [co])
    | _ =>
      if fc then
        if ins.any (fun c => (w.see key c).isSeven) then none else
        (match (List.range ins.length).find? (fun i => match w.see key (ins.getD i 0) with | .tok _ => true | _ => false) with
         | some i => (w.setNode key ⟨.moving i false, [], 0, none⟩).segmentMove key (ins.getD i 0) lvl false true [co] [co]
         | none => none)
      else match w.see key (field wd 25 21) with
        | .tok c => w.mergeSelect key (field wd 25 21) co ins c
        | _ => none

/-! ### Joins (R150) -/

/-- The channels that govern a join: every input of a repeat or steer node and of a merge in first-come mode; for a merge in
selector mode the selector, or, while a segment that it has selected has yet to begin, the input selected. DEDUCED, log 67. -/
def governing (key wd : Nat) (st : NodeState) : List Nat :=
  if key < 16 ∨ wd.testBit 33 then nodeIns key wd
  else
    let cs := field wd 25 21
    match st.phase with
    | .moving k _ => [(nodeIns key wd).getD k 0]
    | _ => [cs]

/-- Is the node at a point where it aligns stops of rank 7: between segments, or at a merge's input found at rank 7 when it was selected? -/
def atBoundary (key wd : Nat) (st : NodeState) : Bool :=
  match st.phase with
  | .idle => true
  | .moving _ _ => decide (16 ≤ key) && !(wd.testBit 33) && st.seen == 0
  | _ => false

def View.isZero : View → Bool
  | .zero _ _ => true
  | _ => false
def View.placed : View → Bool
  | .zero _ p => p
  | _ => false
def View.bank : View → Nat
  | .zero t _ => t.bank
  | .seven t => t.bank
  | .tok t => t.bank
  | _ => 0
def View.poison : View → Bool
  | .zero t _ => t.poison
  | .seven t => t.poison
  | .tok t => t.poison
  | _ => false

/-- Does a segment moved in a phase leave with poison set (R151)? -/
def NodePhase.poisons : NodePhase → Bool
  | .moving _ p => p
  | _ => false

/-- The stops of rank 0 at the heads of every input of a join consumed, and one passed on; one within a segment belongs to it (R140). -/
def Crew.joinZero (w : Crew) (key wd : Nat) (ins : List Nat) (vs : List View) : Option Crew :=
  let st := w.nodeState key
  let placed := vs.all View.placed
  let inside := nodeLevel key wd != 0 && st.phase.poisons
  let t : Token := { stopToken 0 (vs.headD .empty).bank with poison := vs.any View.poison || inside }
  let taken := ins.foldl (fun u c => u.dequeue c) w
  let buffered := { st with buf := st.buf ++ [bufferedZero t placed] }
  match st.phase with
  | .emit _ _ _ => none
  | .collect n _ =>
    if nodeLevel key wd = 0 then taken.sendZero key t placed (nodeOuts key wd [])
    else some (taken.setNode key (if 256 ≤ st.seen then overlong buffered n t else { buffered with seen := st.seen + 1 }))
  | .discard _ _ _ => if key < 12 then some (taken.setNode key buffered) else taken.sendZero key t placed (nodeOuts key wd [])
  | _ => taken.sendZero key t placed (nodeOuts key wd [])

/-- One token of an input discarded while a governing input of bank b stands at rank 7; a stop on a control input is
ignored there and does not count (R151), nor does a stop the context-save engine placed. DEDUCED, log 35. -/
def Crew.joinDiscard (w : Crew) (key b ch : Nat) (control : Bool) (v : View) : Crew :=
  let st := w.nodeState key
  let ignored := v.placed || (control && (match v with | .tok t => t.isStop | _ => false))
  let old := match st.surplus with | some x => x | none => (b, [])
  let s1 := if ignored then st.surplus else some (old.1, tset old.2 ch v.bank)
  (w.dequeue ch).setNode key { st with surplus := s1 }

/-- The end of an invocation at a join: the error token where tokens were discarded, then one stop of rank 7. -/
def Crew.joinSeven (w : Crew) (key wd : Nat) (ins : List Nat) (vs : List View) : Option Crew :=
  let st := w.nodeState key
  let outs := nodeOuts key wd []
  match st.surplus with
  | some n =>
    let ended := ins.find? (fun c => w.see key c == .marker && (tfind n.2 c).isSome)
    let e := nodeError key 0x21 (match ended with | some c => tget n.2 c n.1 | none => n.1)
    let co := outs.getD 0 0
    if w.canAll key e [co] then some ((w.enqueue e co).setNode key { st with surplus := none }) else none
  | none =>
    let bank := match vs.find? View.isSeven with | some v => v.bank | none => 0
    let t : Token := { stopToken 7 bank with poison := vs.any (fun v => v.isSeven && v.poison) }
    if w.canAll key t outs then
      let taken := ins.foldl (fun u c => if (w.see key c).isSeven then u.dequeue c else u) w
      some ((taken.enqueueAll t outs).setNode key emptyNode)
    else none

/-- One step of a join (R150). -/
def Crew.joinAlign (w : Crew) (key : Nat) : Option Crew :=
  match tfind w.graph.active.nodes key with
  | none => none
  | some wd =>
    let ins := nodeIns key wd
    let vs := ins.map (w.see key)
    let st := w.nodeState key
    if vs.all View.isZero then w.joinZero key wd ins vs
    else if !(atBoundary key wd st) then none
    else
      match (governing key wd st).find? (fun c => (w.see key c).isSeven) with
      | none => none
      | some g =>
        let others := ins.filter (fun c => !((w.see key c).isSeven))
        match others.find? (fun c => match w.see key c with | .tok _ => true | .zero _ _ => true | _ => false) with
        | some c =>
          let control := (decide (key < 16) || !(wd.testBit 33)) && ins.getLast? == some c
          some (w.joinDiscard key (w.see key g).bank c control (w.see key c))
        | none =>
          if others.all (fun c => w.see key c == .marker) then w.joinSeven key wd ins vs else none

/-! ### Demand gates (R146) -/

/-- A token of a gate's demand channel consumed. -/
def Crew.demandMove (w : Crew) (key free : Nat) : Option Crew :=
  match tfind w.graph.active.nodes key with
  | none => none
  | some wd =>
    let ce := field wd 10 6
    let credit := tget w.graph.credits key 0
    match w.see key ce with
    | .tok t =>
      let u := w.dequeue ce
      if t.isStop then some u
      else if t.kind = kindCount then
        some { u with graph := { u.graph with credits := tset u.graph.credits key (bump32 credit (t.lane 0)) } }
      else some (u.countError (if t.kind = kindError then t.code else free))
    | .zero _ _ => some (w.dequeue ce)
    | .seven _ => some (w.dequeue ce)
    | _ => none

/-! ### A save of the crew (R348, R350) -/

def isSnap : Item → Bool
  | .snap _ => true
  | _ => false
def isRingSnap : RingItem → Bool
  | .snap _ => true
  | _ => false

/-- A buffered stop of rank 0 that the context-save engine placed. -/
def placedZero (t : Token) : Bool := t.isZero && decide (4 ≤ t.bank)

/-- Is a snapshot marker left anywhere? -/
def Crew.snapsLeft (w : Crew) : Bool :=
  w.chans.any (fun c => c.2.fifo.any isSnap || (c.2.ring ++ c.2.later).any isRingSnap) || w.graph.states.any (fun n => n.2.buf.any placedZero)

/-- Is the snapshot of a save over: is every marker of it consumed, or has the fallback ended it (R350)? -/
def Crew.snapOver (w : Crew) : Bool :=
  match w.saving with
  | some v => v.placed && (!(w.snapsLeft) || v.fallback)
  | none => false

/-- Does a command run on to a multiple of 4,096 (R348 step 3)? -/
def SmOp.tiled : SmOp → Bool
  | .ind => true
  | .sct => true
  | .upd => true
  | .isx => true
  | _ => false

/-- Does a command that runs on to a multiple of 4,096 stand at one, the snapshot being over, and stop there (R348 step 3)? -/
def Crew.tileHeld (w : Crew) (a : Active) : Bool := a.pos % 4096 == 0 && w.snapOver

/-- Can no node, gate or join of the graph do anything now? -/
def Crew.graphStill (w : Crew) : Bool :=
  (List.range 8).all (fun i => (w.linkMove i).isNone && (w.demandMove (20 + i) 0).isNone)
    && (List.range 4).all (fun i => (w.repeatMove (8 + i)).isNone && (w.steerMove (12 + i)).isNone && (w.mergeMove (16 + i)).isNone)
    && (List.range 12).all (fun i => (w.joinAlign (8 + i)).isNone)

/-! ### Meanings: the steps of the nodes -/

/-- R149. -/
def execLinkMove (core node : Nat) (s : State) : Out :=
  .next (if node < 8 then s.engine core (fun w => w.linkMove node) else s)

/-- R149: one token's work of a repeat node: a count taken, a token collected, or a token of a repetition emitted. -/
def execRepeatRound (core node : Nat) (s : State) : Out :=
  .next (if node < 4 then s.engine core (fun w => w.repeatMove (8 + node)) else s)

/-- R149: one token's work of a steer node. -/
def execSteerSegment (core node : Nat) (s : State) : Out :=
  .next (if node < 4 then s.engine core (fun w => w.steerMove (12 + node)) else s)

/-- R149: one token's work of a merge node. -/
def execMergeSegment (core node : Nat) (s : State) : Out :=
  .next (if node < 4 then s.engine core (fun w => w.mergeMove (16 + node)) else s)

/-- R150: `node` is the key of a repeat, steer or merge node, 8 to 19. -/
def execJoinAlign (core node : Nat) (s : State) : Out :=
  .next (if 8 ≤ node ∧ node < 20 then s.engine core (fun w => w.joinAlign node) else s)

/-- R146. The code that csr_errtok keeps for a discarded data token is not stated. -/
def execDemandCredit (core gate : Nat) (s : State) : Out :=
  .next (if gate < 8 then s.engine core (fun w => w.demandMove (20 + gate) (s.freeNat 1)) else s)

/-! ### Plane-writing commands (R161) -/

/-- The checks of R161 step 1 on a node or gate word. -/
def nodeWordOk (key wd : Nat) : Bool :=
  if wd % 2 = 0 then wd == 0
  else if key < 8 then decide (wd < 2 ^ 19) && (!(wd.testBit 11) || field wd 10 6 == 0)
  else if key < 12 then decide (wd < 2 ^ 19) && field wd 18 16 != 7
  else if key < 16 then
    decide (wd < 2 ^ 36) && field wd 35 33 != 7
      && (List.range 4).all (fun i => decide (i ≤ field wd 32 31) || field wd (5 * i + 15) (5 * i + 11) == 0)
  else if key < 20 then
    decide (wd < 2 ^ 37) && field wd 36 34 != 7 && field wd 32 31 != 0 && (!(wd.testBit 33) || field wd 25 21 == 0)
      && (List.range 4).all (fun i => decide (i ≤ field wd 32 31) || field wd (5 * i + 5) (5 * i + 1) == 0)
  else decide (wd < 2 ^ 27)

/-- The first channel of a list that repeats an earlier one or whose role another party holds (R138). -/
def Crew.firstConflict (w : Crew) (h : Shadow) (prod : Bool) (skip : Nat) : List Nat → List Nat → Option Nat
  | _, [] => none
  | seen, c :: cs =>
    if seen.contains c || w.roleTaken h prod c skip then some c else w.firstConflict h prod skip (c :: seen) cs

/-- Does another gate of the idle plane govern the channel? -/
def Shadow.gateNamed (h : Shadow) (key wd : Nat) : Bool :=
  decide (20 ≤ key) && (List.range 8).any (fun i => 20 + i != key && (match tfind h.nodes (20 + i) with
    | some g => field g 5 1 == field wd 5 1
    | none => false))

/-- The checks of R161 on a node or gate entry; the captured map where the entry is accepted. -/
def Crew.checkNode (w : Crew) (base count a wd : Nat) : Except Refused (List Nat) :=
  if count ≤ a then .error configA
  else
    let key := base + a
    if !(nodeWordOk key wd) then .error configB
    else if wd % 2 = 0 then .ok []
    else if w.coming.gateNamed key wd then .error configB
    else
      let map := if key < 8 && wd.testBit 11 then w.mapChannels (field wd 15 12) else some []
      match map with
      | none => .error configB
      | some m =>
        match w.firstConflict w.coming false key [] (nodeIns key wd), w.firstConflict w.coming true key [] (nodeOuts key wd m) with
        | some c, _ => .error (causeChannel, c)
        | none, some c => .error (causeChannel, c)
        | none, none => .ok m

/-- A table with an entry set, or removed where it is disabled. -/
def putEntry {α : Type} (t : Tab α) (key : Nat) (on : Bool) (v : α) : Tab α := if on then tset t key v else tdel t key

/-- The dispatch of a node or gate entry: its capture, and the idle plane as it will leave it. -/
def State.dispatchNode (s : State) (base count : Nat) (a b f : Reg) (g : Pred) : State :=
  if !(s.me.getP g) then s.complete 4
  else if s.mine.smFull then s
  else
    let idx := (s.me.getX a).toNat
    let wd := (s.me.getX b).toNat
    match s.mine.checkNode base count idx wd with
    | .error r => s.refuse r
    | .ok m =>
      let w := s.mine
      let key := base + idx
      let on := wd % 2 == 1
      let h : Shadow := { w.coming with nodes := putEntry w.coming.nodes key on wd, maps := putEntry w.coming.maps key on m }
      (s.setMine { w with coming := h }).pushSm ⟨.plane, idx, wd, 0, s.cur.strand, f.toNat, m, key, none, w.graph.graphPeriod⟩

/-- R161. -/
def execSmLink (a b f : Reg) (g : Pred) (s : State) : Out := .next (s.dispatchNode 0 8 a b f g)
/-- R161. -/
def execSmRep (a b f : Reg) (g : Pred) (s : State) : Out := .next (s.dispatchNode 8 4 a b f g)
/-- R161. -/
def execSmSteer (a b f : Reg) (g : Pred) (s : State) : Out := .next (s.dispatchNode 12 4 a b f g)
/-- R161. -/
def execSmMerge (a b f : Reg) (g : Pred) (s : State) : Out := .next (s.dispatchNode 16 4 a b f g)
/-- R161. -/
def execSmDem (a b f : Reg) (g : Pred) (s : State) : Out := .next (s.dispatchNode 20 8 a b f g)

/-- What translating the pages of a range gives (R161 step 2, R250): their frames by page number, or the first failure. -/
inductive Pages where
  | ok (frames : Tab Nat)
  | trap (cause : Cause) (va : Nat)
  | class2 (va : Nat)
  | wait (va : Nat)
  deriving DecidableEq, Repr

/-- n pages from page p translated for reads and writes of user memory, under the context of a core's launch. -/
def State.pinPages (s : State) (core base : Nat) : Nat → Nat → Tab Nat → Pages × State
  | 0, _, acc => (.ok acc, s)
  | n + 1, p, acc =>
    let va := Nat.max base (p * 65536)
    let r := s.bindPage core va false true
    match r.1 with
    | .trap c => (if c = causeConfig then .class2 va else .trap c va, r.2)
    | .cut dev => (.trap causeFabricUnreachable (s.cutValue dev), r.2)
    | .wait => (.wait va, r.2)
    | .ok pa _ => r.2.pinPages core base n (p + 1) (acc ++ [(p, pa / 65536 * 65536)])

/-- The frames of a range of bytes. -/
def State.pinRange (s : State) (core base n : Nat) : Pages × State :=
  s.pinPages core base ((base + n - 1) / 65536 + 1 - base / 65536) (base / 65536) []

/-- The checks of R161 step 1 on a spill word and base. -/
def checkSpill (a wd : Nat) : Option Refused :=
  if wd % 2 = 0 then firstRefusal [(a == 0, configA), (field wd 63 6 == 0, configB)]
  else firstRefusal [(a % 64 == 0, configA), (decide (wd < 2 ^ 11) && decide (field wd 10 7 ≤ 11), configB)]

/-- R161: a spill entry; its ring's frames stay bound to it. -/
def execSmSpill (a b f : Reg) (g : Pred) (s : State) : Out :=
  .next
    (if !(s.me.getP g) then s.complete 4
     else if s.mine.smFull then s
     else
       let base := (s.me.getX a).toNat
       let wd := (s.me.getX b).toNat
       let put := fun (t : State) (e : Option SpillEntry) =>
         t.pushSm ⟨.plane, base, wd, 0, s.cur.strand, f.toNat, [], 64 + field wd 5 1, e, s.mine.graph.graphPeriod⟩
       let bytes := 1024 * 2 ^ field wd 10 7
       match checkSpill base wd with
       | some r => s.refuse r
       | none =>
         if wd % 2 = 0 then put s none
         else if wd.testBit 6 then
           (if s.mine.spSize < base + bytes then s.refuse (causeBounds, Nat.max base s.mine.spSize)
            else put s (some ⟨field wd 10 7, 1, base, []⟩))
         else
           let r := s.pinRange s.cur.core base bytes
           match r.1 with
           | .ok frames => put r.2 (some ⟨field wd 10 7, 0, base, frames⟩)
           | .trap c va => r.2.refuse (c, va)
           | .class2 _ => r.2.refuse configA
           | .wait va => r.2.holdWithheld va)

/-! ### Injecting tokens, draining channels (R162, R163) -/

/-- The refusal of a channel that has a second producer beside the SM queue: a stream counts until it completes (R138). DEDUCED, log 70. -/
def Crew.smOutRefused (w : Crew) (ch : Nat) : Bool := w.roleTaken w.now true ch 99 || w.streamHolds true ch

/-- A token captured for the SM queue: its data as the block, its kind and poison in operand b's form. -/
def State.pushToken (s : State) (op : SmOp) (ch data kind : Nat) (poison : Bool) (f : Reg) : State :=
  let w := s.mine
  let w1 := { w with graph := { w.graph with smOuts := sadd w.graph.smOuts ch } }
  (s.setMine w1).pushSm ⟨op, kind, ch, data, s.cur.strand, f.toNat, [], b2n poison, none, w.graph.period⟩

/-- R162. -/
def execSmStop (a b f : Reg) (g : Pred) (s : State) : Out :=
  .next
    (if !(s.me.getP g) then s.complete 4
     else if s.mine.smFull then s
     else
       let x := (s.me.getX a).toNat
       let y := (s.me.getX b).toNat
       match firstRefusal [(decide (x < 8), configA), (decide (y < 32), configB),
           (!(s.mine.smOutRefused y), (causeChannel, y))] with
       | some r => s.refuse r
       | none => s.pushToken .stop y x kindStop false f)

/-- R162: the token's lane 0 as an immediate, or 32 bytes of the scratchpad read at dispatch. -/
def execSmTok (a b f : Reg) (g : Pred) (s : State) : Out :=
  .next
    (if !(s.me.getP g) then s.complete 4
     else if s.mine.smFull then s
     else
       let x := (s.me.getX a).toNat
       let y := (s.me.getX b).toNat
       let imm := y.testBit 7
       let ch := field y 4 0
       let bad := if imm then none else s.dispatchPoison x 32
       match firstRefusal [(!imm || decide (x < 2 ^ 32), configA), (decide (y < 2 ^ 9) && field y 6 5 != 1, configB),
           (imm || x % 32 == 0, (causeMisaligned, x)), (imm || decide (x + 32 ≤ s.mine.spSize), (causeBounds, Nat.max x s.mine.spSize)),
           (bad.isNone, (causePoisonConsumed, bad.getD 0)), (!(s.mine.smOutRefused ch), (causeChannel, ch))] with
       | some r => s.refuse r
       | none =>
         let kind := if field y 6 5 = 0 then kindData else field y 6 5
         s.pushToken .tok ch (if imm then x else ofBytes (s.dispatchBytes x 32)) kind (y.testBit 8) f)

/-- R163. -/
def execSmDrain (a b f : Reg) (g : Pred) (s : State) : Out :=
  .next
    (if !(s.me.getP g) then s.complete 4
     else if s.mine.smFull then s
     else
       let x := (s.me.getX a).toNat
       let y := (s.me.getX b).toNat
       match firstRefusal [(decide (x < 2 ^ 32), configA), (decide (y < 2), configB)] with
       | some r => s.refuse r
       | none => s.pushSm ⟨.drain, x, y, x, s.cur.strand, f.toNat, [], 0, none, s.mine.graph.period⟩)

/-! ### The SM queue's own commands at its head -/

/-- The crew without the head of its SM queue. -/
def Crew.popSm (w : Crew) : Crew := { w with streams := { w.streams with queue := w.streams.queue.tail } }

/-- The head replaced. -/
def Crew.setSmHead (w : Crew) (c : SmCmd) : Crew := { w with streams := { w.streams with queue := c :: w.streams.queue.tail } }

/-- A plane write at the head: it waits until the graph engine has passed the terminators before it (R153). -/
def Crew.smPlane (w : Crew) (c : SmCmd) : Option Crew :=
  if w.graph.graphPassed < c.period then none
  else
    let on := c.b % 2 == 1
    let p := w.graph.idle
    let p' : GraphPlane :=
      if 64 ≤ c.key then
        { p with spills := match c.spill with | some e => tset p.spills (c.key - 64) e | none => tdel p.spills (c.key - 64) }
      else { p with nodes := putEntry p.nodes c.key on c.b, maps := putEntry p.maps c.key on c.dests }
    some ((({ w with graph := { w.graph with idle := p' } } : Crew).popSm).smDone c.strand c.sem)

/-- The token that sm.tok or sm.stop makes (R162). -/
def SmCmd.token (c : SmCmd) : Token :=
  if c.op = .stop then stopToken c.blk c.strand else ⟨c.blk, c.strand, c.a, c.key == 1⟩

/-- sm.tok or sm.stop at the head (R162). -/
def Crew.smToken (w : Crew) (c : SmCmd) : Option Crew :=
  if w.canSend c.token c.b && w.mayWrite (w.isNew c.period) 99 c.b then
    some (((w.enqueue c.token c.b).popSm).smDone c.strand c.sem)
  else none

/-- A channel emptied of tokens; markers stay (R163). -/
def Chan.discard (x : Chan) : Chan :=
  let n := (x.fifo.filter (fun i => i == .marker)).length + ((x.ring ++ x.later).filter (fun r => r == .marker)).length
  { x with fifo := List.replicate n .marker, ring := [], wpos := 0, later := [] }

/-- The channels of a mask with the loads of their rings as R163 leaves them. -/
def Crew.openRings (w : Crew) (mask : Nat) : Crew :=
  (maskBits 32 mask).foldl (fun u ch => u.setChan ch { u.chan ch with opened := (u.chan ch).spill.isSome }) w

/-- sm.drain at the head (R163); its block keeps the whole mask. -/
def Crew.smDrain (w : Crew) (c : SmCmd) : Crew :=
  if c.b = 1 then
    let u := (maskBits 32 c.a).foldl (fun t ch => (t.setChan ch (w.chan ch).discard).settleSpill ch) w
    (u.popSm).smDone c.strand c.sem
  else
    let left := (maskBits 32 c.a).foldl (fun m ch => if (w.chan ch).drained then setBit m ch false else m) c.a
    if left = 0 then ((w.openRings c.blk).popSm).smDone c.strand c.sem else w.setSmHead { c with a := left }

/-- sm.bar at the head: every earlier command of its slots has left the queue, so their slots need only be idle (R108). -/
def Crew.smBarrier (w : Crew) (c : SmCmd) : Option Crew :=
  if (maskBits 16 c.a).all (fun n => (tfind w.streams.slots n).isNone) then some ((w.popSm).smDone c.strand c.sem) else none

end Sys2Proof.Machine
end

