-- ==== Sys2Proof/Machine/VecOps.lean ====
section
/-!
DEFINITION. The lane arithmetic of the triggered vector elements (spec 08, R231 to R237): what each
operation makes of 32-bit lane values, element by element, with the flags it raises.
-/
namespace Sys2Proof.Machine
open Sys2Proof

/-- The element width an IW code names: i32, i16x2, i8x4 (R60). -/
def iwWidth (iw : Nat) : Nat := if iw = 0 then 32 else if iw = 1 then 16 else 8

/-- The format code an FT code names: f32, bf16x2, f16x2 (R60). -/
def ftCode (ft : Nat) : Nat := if ft = 0 then 6 else if ft = 1 then 7 else 8

/-- Element j of width w of a lane (R18). -/
def elemAt (w x j : Nat) : Nat := x / 2 ^ (w * j) % 2 ^ w

/-- The elements of a lane from j on, n of them, packed from the least significant end (R18). -/
def packFrom (w : Nat) (f : Nat → Nat) : Nat → Nat → Nat
  | 0, _ => 0
  | n + 1, j => (f j % 2 ^ w) * 2 ^ (w * j) + packFrom w f n (j + 1)

/-- A lane whose elements of width w are given. -/
def packLane (w : Nat) (f : Nat → Nat) : Nat := packFrom w f (32 / w) 0

/-- The union of the flags of elements 0 to n-1. -/
def orFlags (f : Nat → FlagSet) : Nat → FlagSet
  | 0 => 0
  | n + 1 => orFlags f n ||| f n

/-- An element read signed, or unsigned where `uns` is set. -/
def elemInt (uns : Bool) (w x : Nat) : Int := if uns then ((x % 2 ^ w : Nat) : Int) else sintOf w x

/-- An exact result wrapped, or clamped to the signed range with S (R231). -/
def satWrap (sat : Bool) (w : Nat) (v : Int) : Nat :=
  if sat then wrapInt w (clampInt (sintMin w) (sintMax w) v) else wrapInt w v

/-- A binary integer operation over the elements of a lane. -/
def intBin (w : Nat) (f : Nat → Nat → Nat) (x y : Nat) : Nat :=
  packLane w (fun j => f (elemAt w x j) (elemAt w y j))

/-- A unary integer operation over the elements of a lane. -/
def intUn (w : Nat) (f : Nat → Nat) (x : Nat) : Nat := packLane w (fun j => f (elemAt w x j))

def elAdd (sat : Bool) (w x y : Nat) : Nat := satWrap sat w (sintOf w x + sintOf w y)
def elSub (sat : Bool) (w x y : Nat) : Nat := satWrap sat w (sintOf w x - sintOf w y)
def elMul (sat : Bool) (w x y : Nat) : Nat := satWrap sat w (sintOf w x * sintOf w y)
def elMulh (uns : Bool) (w x y : Nat) : Nat := wrapInt w (elemInt uns w x * elemInt uns w y / ((2 ^ w : Nat) : Int))
def elMin (uns : Bool) (w x y : Nat) : Nat := if elemInt uns w y < elemInt uns w x then y else x
def elMax (uns : Bool) (w x y : Nat) : Nat := if elemInt uns w x < elemInt uns w y then y else x
def elShl (w x y : Nat) : Nat := x * 2 ^ (y % w) % 2 ^ w
def elShr (w x y : Nat) : Nat := x / 2 ^ (y % w)
def elSra (w x y : Nat) : Nat := wrapInt w (sintOf w x / ((2 ^ (y % w) : Nat) : Int))
def elAbs (sat : Bool) (w x : Nat) : Nat := satWrap sat w ((sintOf w x).natAbs : Int)

/-- The sum of the absolute differences of the elements j to j + n - 1 (vsad, R231). -/
def sadFrom (uns : Bool) (w x y : Nat) : Nat → Nat → Nat
  | 0, _ => 0
  | n + 1, j => (elemInt uns w (elemAt w x j) - elemInt uns w (elemAt w y j)).natAbs + sadFrom uns w x y n (j + 1)

/-! ### Floating point (R232) -/

/-- How an element rounds: the mode, flush-to-zero and the non-saturating bit. -/
structure FpMode where
  rm : Rm
  ftz : Bool
  nosat : Bool
  deriving DecidableEq, Repr

/-- A value rounded into a lane element with the draw of its place. -/
def fpRound (c : Nat) (m : FpMode) (u : Nat) (v : Num × FlagSet) : Nat × FlagSet :=
  let r := roundNum c m.rm u m.nosat m.ftz v.1
  (r.1, v.2 ||| r.2)

/-- One element of fadd. -/
def elFadd (c : Nat) (m : FpMode) (u x y : Nat) : Nat × FlagSet :=
  fpRound c m u (addNum m.rm (operand m.ftz c x) (operand m.ftz c y))

/-- One element of fsub. -/
def elFsub (c : Nat) (m : FpMode) (u x y : Nat) : Nat × FlagSet :=
  fpRound c m u (addNum m.rm (operand m.ftz c x) (negNum (operand m.ftz c y)))

/-- One element of fmul. -/
def elFmul (c : Nat) (m : FpMode) (u x y : Nat) : Nat × FlagSet :=
  fpRound c m u (mulNum (operand m.ftz c x) (operand m.ftz c y))

/-- One element of ffma, rounded once. -/
def elFfma (c : Nat) (m : FpMode) (u x y z : Nat) : Nat × FlagSet :=
  let p := mulNum (operand m.ftz c x) (operand m.ftz c y)
  let s := addNum m.rm p.1 (operand m.ftz c z)
  fpRound c m u (s.1, p.2 ||| s.2)

/-- Is x below y for fmin and fmax, with -0 below +0 (R232)? -/
def fpBelow (c x y : Nat) (ftz : Bool) : Bool :=
  let a := operand ftz c x
  let b := operand ftz c y
  ltNum a b || (eqNum a b && negOf a && !(negOf b))

/-- A non-NaN operand as a pattern: a flushed subnormal is the zero of its sign. -/
def fpPattern (ftz : Bool) (c x : Nat) : Nat :=
  match operand ftz c x with
  | .fin neg m _ => if m = 0 then signBit c neg else x
  | _ => x

/-- One element of fmin (isMax false) or fmax. -/
def elFminmax (isMax : Bool) (c : Nat) (ftz : Bool) (x y : Nat) : Nat :=
  if isNaN (numOf c x) && isNaN (numOf c y) then canonNaN c
  else if isNaN (numOf c x) then fpPattern ftz c y
  else if isNaN (numOf c y) then fpPattern ftz c x
  else if fpBelow c x y ftz == isMax then fpPattern ftz c y else fpPattern ftz c x

/-- An element as a reduction reads it: a subnormal flushed under ftz (R29), a NaN canonical (R20). -/
def fpRead (ftz : Bool) (c x : Nat) : Nat := if isNaN (numOf c x) then canonNaN c else fpPattern ftz c x

/-- One element of fclass: one bit of nine, read from the bits as they stand (R232). -/
def elFclass (c x : Nat) : Nat :=
  let n := x.testBit (expBits c + fracBits c)
  match numOf c x with
  | .nan => 2 ^ 8
  | .inf neg => if neg then 2 ^ 0 else 2 ^ 7
  | .fin _ m _ =>
    if m = 0 then (if n then 2 ^ 3 else 2 ^ 4)
    else if isSubnormal c x then (if n then 2 ^ 2 else 2 ^ 5)
    else (if n then 2 ^ 1 else 2 ^ 6)

/-- One element of round: rounded to an integral value in its format (R232). -/
def elRound (c : Nat) (m : FpMode) (u x : Nat) : Nat × FlagSet :=
  match operand m.ftz c x with
  | .nan => (canonNaN c, 0)
  | .inf neg => (infBits c neg, 0)
  | .fin neg mm e =>
    let r := roundAt m.rm u neg mm e 0
    let o := roundFin c m.rm u m.nosat m.ftz neg r.1 0
    (if 0 ≤ e then (if mm = 0 then signBit c neg else x) else o.1, if r.2 then flagNX else 0)

/-- fcmp of two f32 values: the predicate and the flags (R233). -/
def fcmpBit (cond : Nat) (ftz : Bool) (x y : Nat) : Bool × FlagSet :=
  let a := operand ftz 6 x
  let b := operand ftz 6 y
  let un := isNaN a || isNaN b
  let fl : FlagSet := if un && (cond == 2 || cond == 3 || cond == 4 || cond == 5) then flagNV else 0
  (match cond with
    | 0 => eqNum a b
    | 1 => !(eqNum a b)
    | 2 => ltNum a b
    | 3 => !un && !(ltNum b a)
    | 4 => ltNum b a
    | 5 => !un && !(ltNum a b)
    | 6 => un
    | _ => !un, fl)

/-- vcmp of two i32 values (R233). -/
def vcmpBit (cond x y : Nat) : Bool :=
  match cond with
  | 0 => x == y
  | 1 => x != y
  | 2 => decide (sintOf 32 x < sintOf 32 y)
  | 3 => decide (sintOf 32 x ≤ sintOf 32 y)
  | 4 => decide (x < y)
  | 5 => decide (x ≤ y)
  | _ => (Nat.land x y) != 0

/-! ### Conversions (R234) -/

/-- A lane converted element by element between two formats (R234). -/
def cvtLane (src tgt : Nat) (m : FpMode) (word x : Nat) : Nat × FlagSet :=
  let ws := fmtWidth src
  let wt := fmtWidth tgt
  let n := 32 / (if ws < wt then wt else ws)
  let r := fun j => convert src tgt m.rm (laneDraw word n j) m.nosat m.ftz (elemAt ws x j)
  (packFrom wt (fun j => (r j).1) n 0, orFlags (fun j => (r j).2) n)

/-- emax of an MX format code for mxq (R234). -/
def mxEmax (code : Nat) : Int := if code = 13 then 8 else if code = 14 then 15 else if code = 15 then 2 else 0

/-- mxq of an f32 amax (R234). -/
def mxqLane (code : Nat) (ftz : Bool) (x : Nat) : Nat × FlagSet :=
  match operand ftz 6 x with
  | .nan => (0xFF, flagNV)
  | .inf _ => (0xFF, flagNV)
  | .fin _ m e =>
    if m = 0 then (0, 0)
    else
      let k : Int := (m.log2 : Int) + e - mxEmax code + 127
      if k < 0 then (0, flagNX) else if 254 < k then (254, flagNX) else (k.toNat, 0)

/-- mxs: an f32 times 2^(127 - E) (R234). -/
def mxsLane (m : FpMode) (x y : Nat) : Nat × FlagSet :=
  let ex := y % 256
  if ex = 255 then (canonNaN 6, 0)
  else match operand m.ftz 6 x with
    | .fin neg mm e => roundFin 6 .rne 0 false m.ftz neg mm (e + 127 - (ex : Int))
    | v => roundNum 6 .rne 0 false m.ftz v

/-! ### Special functions (R235, Table 8.10) -/

/-- The exact value of a special function, or a special case, with its flags. Codes are ops 0x28 to 0x2F. -/
def specialNum (op : Nat) (v : Num) : Num × FlagSet :=
  match op, v with
  | _, .nan => (.nan, 0)
  | 0x28, .inf neg => (if neg then .fin false 0 0 else .inf false, 0)
  | 0x28, .fin neg m e => (exp2Num neg m e, 0)
  | 0x29, .inf neg => if neg then (.nan, flagNV) else (.inf false, 0)
  | 0x29, .fin neg m e =>
    if m = 0 then (.inf true, flagDZ) else if neg then (.nan, flagNV) else (log2Num m e, 0)
  | 0x2A, .inf neg => (.fin neg 0 0, 0)
  | 0x2A, .fin neg m e => if m = 0 then (.inf neg, flagDZ) else (rcpMag neg m e, 0)
  | 0x2B, .inf neg => if neg then (.nan, flagNV) else (.fin false 0 0, 0)
  | 0x2B, .fin neg m e =>
    if m = 0 then (.inf neg, flagDZ) else if neg then (.nan, flagNV) else (rsqrtMag m e, 0)
  | 0x2C, .inf _ => (.nan, flagNV)
  | 0x2C, .fin neg m e => if m != 0 && 16 ≤ (m.log2 : Int) + e then (.nan, flagRG) else (trigNum false neg m e, 0)
  | 0x2D, .inf _ => (.nan, flagNV)
  | 0x2D, .fin neg m e => if m != 0 && 16 ≤ (m.log2 : Int) + e then (.nan, flagRG) else (trigNum true neg m e, 0)
  | 0x2E, .inf neg => (.fin neg 1 0, 0)
  | 0x2E, .fin neg m e => (tanhNum neg m e, 0)
  | _, .inf neg => if neg then (.nan, flagNV) else (.inf false, 0)
  | _, .fin neg m e =>
    if m = 0 then (.fin neg 0 0, 0) else if neg then (.nan, flagNV) else (sqrtMag m e, 0)

/-- One element of a special function. -/
def elSpecial (op c : Nat) (m : FpMode) (u x : Nat) : Nat × FlagSet :=
  fpRound c m u (specialNum op (operand m.ftz c x))

/-! ### Cross-lane and bit operations (R236) -/

/-- The carry-less product of x and the n low bits of y. -/
def clmulN : Nat → Nat → Nat → Nat
  | 0, _, _ => 0
  | n + 1, x, y => (if y.testBit n then x * 2 ^ n else 0).xor (clmulN n x y)

/-- clmul of two lanes: the low half, or bits [62:32]. -/
def clmulLane (hi : Bool) (x y : Nat) : Nat :=
  if hi then clmulN 32 x y / 2 ^ 32 else clmulN 32 x y % 2 ^ 32

/-- An element narrowed from width w to w/2 by truncation or signed saturation. -/
def narrow (sat : Bool) (w x : Nat) : Nat := if sat then satWrap true (w / 2) (sintOf w x) else x % 2 ^ (w / 2)

/-- pack of two lanes (R236); w is the source element width, 32 or 16. -/
def packTwo (sat : Bool) (w a b : Nat) : Nat :=
  let h := w / 2
  let n := 32 / w
  packFrom h (fun j => narrow sat w (if j < n then elemAt w a j else elemAt w b (j - n))) (2 * n) 0

/-- unpack of one half of a lane (R236); w is the source element width, 16 or 8. -/
def unpackHalf (uns : Bool) (w half a : Nat) : Nat :=
  let n := 16 / w
  packFrom (2 * w) (fun j => wrapInt (2 * w) (elemInt uns w (elemAt w a (n * half + j)))) n 0

/-- The combining step of pfx (R236). -/
def pfxOp (mod x y : Nat) : Nat :=
  if mod = 0 then (x + y) % 2 ^ 32 else if mod = 1 then x.xor y else elMax false 32 x y

/-- A list folded by a combining step, none for an empty list. -/
def fold1 (f : Nat → Nat → Nat) : List Nat → Option Nat
  | [] => none
  | x :: xs => some (xs.foldl f x)

/-- The balanced tree of lred fadd over 2^k lanes from lo; none is NONE (R236). -/
def fsumTree (c : Nat) (m : FpMode) (val : Nat → Option Nat) : Nat → Nat → Option Nat × FlagSet
  | 0, lo => (val lo, 0)
  | k + 1, lo =>
    match fsumTree c m val k lo, fsumTree c m val k (lo + 2 ^ k) with
    | (none, f), (r, g) => (r, f ||| g)
    | (l, f), (none, g) => (l, f ||| g)
    | (some a, f), (some b, g) =>
      let r := elFadd c { m with rm := .rne } 0 a b
      (some r.1, f ||| g ||| r.2)

end Sys2Proof.Machine
end

