-- ==== Sys2Proof/Machine/Streams.lean ====
section
/-!
DEFINITION. Stream commands (spec 04, R92 to R109): the pattern block and its checks, the dispatch of each command, and
starting commands from the SM queue.
-/
namespace Sys2Proof.Machine
open Sys2Proof

/-! ### The pattern block (Tables 4.8 to 4.10) -/

/-- The n-byte number at an offset of a captured block. -/
def blkAt (blk o n : Nat) : Nat := blk / 2 ^ (8 * o) % 2 ^ (8 * n)
/-- The s32 at an offset. -/
def blkInt (blk o : Nat) : Int := sintOf 32 (blkAt blk o 4)

namespace Pattern
def base (b : Nat) : Nat := blkAt b 0 8
def sbase (b : Nat) : Nat := blkAt b 8 8
def ctl (b : Nat) : Nat := blkAt b 0x10 4
def wlo (b : Nat) : Int := blkInt b 0x14
def count (b j : Nat) : Nat := blkAt b (0x18 + 8 * j) 4
def stride (b j : Nat) : Int := blkInt b (0x1C + 8 * j)
def wlen (b : Nat) : Nat := blkAt b 0x38 8
def mfmt (b : Nat) : Nat := field (ctl b) 4 0
def tfmt (b : Nat) : Nat := field (ctl b) 9 5
def space (b : Nat) : Nat := field (ctl b) 11 10
def rm (b : Nat) : Nat := field (ctl b) 14 12
def dimstop (b : Nat) : Bool := (ctl b).testBit 15
def endstop (b : Nat) : Bool := (ctl b).testBit 16
def dims (b : Nat) : Nat := field (ctl b) 18 17
def ixfmt (b : Nat) : Nat := field (ctl b) 20 19
def uop (b : Nat) : Nat := field (ctl b) 24 21
def ret (b : Nat) : Bool := (ctl b).testBit 25
def ord (b : Nat) : Bool := (ctl b).testBit 26
end Pattern

/-- Is the code an MX format, and the bytes of one of its blocks (R97, R141)? -/
def isMx (c : Nat) : Bool := decide (13 ≤ c) && decide (c ≤ 16)
def mxBytes (c : Nat) : Nat := if c = 15 then 16 else 32
/-- A code that Table 2.1 marks S. -/
def isStreamFmt (c : Nat) : Bool := decide (c ≤ 16)
/-- The byte size of an element in memory; a 4-bit format takes its elements two to a byte. -/
def memSize (c : Nat) : Nat := Nat.max 1 (fmtWidth c / 8)
/-- The element format of an update operation (R95). -/
def uopFormat (u : Nat) : Nat :=
  if u = 0 ∨ u = 3 ∨ u = 4 then 4 else if u = 1 ∨ u = 7 ∨ u = 8 ∨ u = 12 then 6 else if u = 2 then 7 else 5

/-- The number of an affine pattern's elements along dimension j; 1 where it is unused (R97). -/
def affCount (b j : Nat) : Nat := if j ≤ Pattern.dims b then Pattern.count b j else 1
/-- N of R97. -/
def affTotal (b : Nat) : Nat := affCount b 0 * affCount b 1 * affCount b 2 * affCount b 3
/-- The coordinates of element k. -/
def affIndex (b k j : Nat) : Nat :=
  if j = 0 then k % affCount b 0
  else if j = 1 then k / affCount b 0 % affCount b 1
  else if j = 2 then k / (affCount b 0 * affCount b 1) % affCount b 2
  else k / (affCount b 0 * affCount b 1 * affCount b 2)
/-- The byte address of element k (R97). -/
def affAddress (b k : Nat) : Int :=
  let first : Int := if fmtWidth (Pattern.mfmt b) = 4 then ((affIndex b k 0 / 2 : Nat) : Int)
    else (affIndex b k 0 : Int) * Pattern.stride b 0
  (Pattern.base b : Int) + first + (affIndex b k 1 : Int) * Pattern.stride b 1
    + (affIndex b k 2 : Int) * Pattern.stride b 2 + (affIndex b k 3 : Int) * Pattern.stride b 3
/-- How many dimensions end with element k. -/
def affEnds (b k : Nat) : Nat :=
  let at_ := fun j => affIndex b k j + 1 == affCount b j
  let d := Pattern.dims b
  if !(at_ 0) then 0
  else if d = 0 ∨ !(at_ 1) then 1
  else if d = 1 ∨ !(at_ 2) then 2
  else if d = 2 ∨ !(at_ 3) then 3 else 4
/-- Does an MX frame end with element k (R141)? -/
def frameEnds (b k : Nat) : Bool :=
  affIndex b k 0 % 1024 == 1023 || affIndex b k 0 + 1 == affCount b 0
/-- Blocks of the frame that begins at element k. -/
def frameBlocks (b k : Nat) : Nat := Nat.min 32 ((affCount b 0 - affIndex b k 0) / 32)
/-- The address of the scale of the block whose first byte is at A (R97). -/
def scaleAddress (b : Nat) (a : Int) : Int :=
  (Pattern.sbase b : Int) + (a - (Pattern.base b : Int)) / (mxBytes (Pattern.mfmt b) : Int)

/-- The window of a pattern (R99). -/
def windowLo (b : Nat) : Int := (Pattern.base b : Int) + Pattern.wlo b
def windowHi (b : Nat) : Int := windowLo b + (Pattern.wlen b : Int)

/-- The part of a pattern's reach along dimension j: the negative or the positive one. -/
def reachDim (neg : Bool) (b j : Nat) : Int :=
  let v := ((affCount b j : Int) - 1) * Pattern.stride b j
  if neg then (if v < 0 then v else 0) else (if 0 < v then v else 0)
/-- The lowest and the highest byte of an affine pattern (R99). -/
def affLow (b : Nat) : Int :=
  (Pattern.base b : Int) + reachDim true b 0 + reachDim true b 1 + reachDim true b 2 + reachDim true b 3
def affHigh (b : Nat) : Int :=
  let inner : Int := if fmtWidth (Pattern.mfmt b) = 4 then (((affCount b 0 - 1) / 2 : Nat) : Int)
    else reachDim false b 0 + (memSize (Pattern.mfmt b) : Int) - 1
  (Pattern.base b : Int) + inner + reachDim false b 1 + reachDim false b 2 + reachDim false b 3

/-! ### Dispatch checks (R93) -/

/-- Is the command an affine one? -/
def SmOp.affine : SmOp → Bool
  | .aff => true
  | .afw => true
  | _ => false

/-- The fields of a pattern block with their limits, lowest offset first (R94, R95, R97, R104 to R106, R126). -/
def blockFields (op : SmOp) (b : Nat) : List (Bool × Nat) :=
  let c := Pattern.ctl b
  let m := Pattern.mfmt b
  let t := Pattern.tfmt b
  let mx := isMx m || isMx t
  let hash := op == .upd && Pattern.uop b == 12
  let four := fmtWidth m == 4
  let n := Pattern.wlen b / 8
  let common := field c 31 27 == 0 && isStreamFmt m && isStreamFmt t && (!mx || m == t)
    && decide (Pattern.rm b ≤ 3) && decide (Pattern.space b ≤ 1)
  let plain := Pattern.uop b == 0 && !(Pattern.ret b) && !(Pattern.ord b)
  let indexed := Pattern.ixfmt b != 3 && Pattern.dims b == 0 && !(Pattern.dimstop b) && fmtWidth m != 4 && fmtWidth t != 4
  let ofUop := decide (Pattern.uop b ≤ 12) && m == uopFormat (Pattern.uop b) && t == m
    && (!hash || (Pattern.space b == 1 && Pattern.ixfmt b == 1 && Pattern.ret b))
  let ctlOk := common && (match op with
    | .aff => plain && Pattern.ixfmt b == 0
    | .afw => plain && Pattern.ixfmt b == 0
    | .upd => indexed && ofUop
    | _ => indexed && plain)
  let blockMultiple := fun (v : Int) => !mx || v % (mxBytes m : Int) == 0
  let counts := fun (j : Nat) =>
    if op.affine then (if j ≤ Pattern.dims b then Pattern.count b j != 0 else Pattern.count b j == 0)
      && (j != 0 || ((!four || Pattern.count b 0 % 2 == 0) && (!mx || Pattern.count b 0 % 32 == 0)))
    else j == 0 || Pattern.count b j == 0
  let strides := fun (j : Nat) =>
    if op.affine then j != 0 || ((!four || Pattern.stride b 0 == 0) && (!mx || four || Pattern.stride b 0 == 1))
    else Pattern.stride b j == 0
  [(!hash || Pattern.base b % 8 == 0, 0), (mx || Pattern.sbase b == 0, 8), (ctlOk, 0x10),
   ((!(op.affine) || blockMultiple (Pattern.wlo b)) && (!hash || Pattern.wlo b == 0), 0x14),
   (counts 0, 0x18), (strides 0, 0x1C), (counts 1, 0x20), (strides 1, 0x24),
   (counts 2, 0x28), (strides 2, 0x2C), (counts 3, 0x30), (strides 3, 0x34),
   (Pattern.wlen b != 0 && (!(op.affine) || blockMultiple (Pattern.wlen b : Int))
     && (!hash || (Pattern.wlen b % 8 == 0 && isPow2 n && decide (32 ≤ n) && decide (n ≤ 65536))), 0x38)]

/-- The first field that fails, as CONFIG with its offset. -/
def firstField (l : List (Bool × Nat)) : Option Refused := firstRefusal (l.map (fun p => (p.1, (causeConfig, p.2))))

/-- The limits of a port word (R96). -/
def portWordOk (op : SmOp) (blk p : Nat) : Bool :=
  let mcast := p.testBit 19
  decide (p < 2 ^ 24) && (mcast || field p 23 20 == 0)
    && (!mcast || ((op == .aff || op == .ind) && Pattern.space blk == 1))
    && (op == .ind || op == .sct || op == .upd || field p 13 9 == 0)
    && ((op == .upd && Pattern.ret blk) || field p 18 14 == 0)

/-- The addresses and strides with the alignment they need: the first misaligned value (R93 check 4). -/
def misaligned (op : SmOp) (b : Nat) : Option Int :=
  let size : Int := (memSize (Pattern.mfmt b) : Int)
  let mx := isMx (Pattern.mfmt b)
  let wide := fmtWidth (Pattern.mfmt b) ≠ 4
  let vs := (Pattern.base b : Int) :: (List.range 4).map (Pattern.stride b)
  match if wide then vs.find? (fun v => v % size != 0) else none with
  | some v => some v
  | none =>
    if mx && op.affine then ([1, 2, 3].map (Pattern.stride b)).find? (fun v => v % (mxBytes (Pattern.mfmt b) : Int) != 0)
    else none

/-- The top of a pattern's space. -/
def spaceTop (spSize space : Nat) : Int := if space = 1 then (spSize : Int) else ((2 ^ 56 : Nat) : Int)

/-- The lowest byte of [lo, hi] outside [a, b), if any. -/
def outside (lo hi a b : Int) : Option Int := if lo < a then some lo else if b ≤ hi then some (if lo < b then b else lo) else none

/-- The lowest out-of-range byte of a pattern (R93 check 5, R99). -/
def patternBounds (op : SmOp) (spSize b : Nat) : Option Int :=
  let top := spaceTop spSize (Pattern.space b)
  match outside (windowLo b) (windowHi b - 1) 0 top with
  | some v => some v
  | none =>
    if !(op.affine) then none
    else match outside (affLow b) (affHigh b) (windowLo b) (windowHi b) with
      | some v => some v
      | none =>
        if isMx (Pattern.mfmt b) then
          (match outside (scaleAddress b (affLow b)) (scaleAddress b (affHigh b)) (scaleAddress b (windowLo b)) (scaleAddress b (windowHi b)) with
           | some v => some v
           | none => outside (scaleAddress b (affLow b)) (scaleAddress b (affHigh b)) 0 top)
        else none

/-- A two's complement number of 64 bits as csr_tval holds it. -/
def tvalOf (v : Int) : Nat := wrapInt 64 v

/-- The first channel of a command whose role is held by a port, a node or an elastic endpoint, or, for an output, that
the SM queue produces into (R93 check 6, R138). -/
def Crew.streamConflict (w : Crew) (c : SmCmd) : Option Nat :=
  match c.ins.find? (fun ch => w.roleTaken w.now false ch 99) with
  | some ch => some ch
  | none => c.outs.find? (fun ch => w.roleTaken w.now true ch 99 || smem w.graph.smOuts ch)

/-- The limits of an ISE block (Table 4.6). -/
def iseFields (b : Nat) : List (Bool × Nat) :=
  let c := blkAt b 0x18 4
  [(blkAt b 0x10 4 != 0, 0x10),
   (field c 1 0 != 3 && field c 4 2 != 7 && field c 31 6 == 0, 0x18), (blkAt b 0x1C 4 == 0, 0x1C),
   (blkAt b 0x20 8 != 0, 0x20), (blkAt b 0x28 8 == 0, 0x28), (blkAt b 0x30 8 == 0, 0x30), (blkAt b 0x38 8 == 0, 0x38)]

/-- Sizes of an ISE request's indices and elements. -/
def iseIndexSize (b : Nat) : Nat := if field (blkAt b 0x18 4) 1 0 = 0 then 2 else 4
def iseElemSize (b : Nat) : Nat := 2 ^ (field (blkAt b 0x18 4) 4 2 + 2)

/-- The alignment of an ISE block. -/
def iseMisaligned (b : Nat) : Option Int :=
  if blkAt b 0 8 % iseIndexSize b ≠ 0 then some (blkAt b 0 8 : Int)
  else if blkAt b 8 8 % iseElemSize b ≠ 0 then some (blkAt b 8 8 : Int)
  else if blkInt b 0x14 % (iseIndexSize b : Int) ≠ 0 then some (blkInt b 0x14) else none

/-- Checks 3 to 6 of R93 on a captured command. -/
def Crew.checkStream (w : Crew) (c : SmCmd) : Option Refused :=
  let isx := c.op == .isx
  match firstField (if isx then iseFields c.blk else blockFields c.op c.blk) with
  | some r => some r
  | none =>
    if !(if isx then decide (c.b < 2 ^ 9) else portWordOk c.op c.blk c.b) then some configB
    else if c.b.testBit 19 && c.dests.isEmpty then some configB
    else match if isx then iseMisaligned c.blk else misaligned c.op c.blk with
      | some v => some (causeMisaligned, tvalOf v)
      | none =>
        let low := if isx then outside (blkAt c.blk 8 8 : Int) ((blkAt c.blk 8 8 : Int) + (blkAt c.blk 0x20 8 : Int) - 1) 0 ((2 ^ 56 : Nat) : Int)
          else patternBounds c.op w.spSize c.blk
        match low with
        | some v => some (causeBounds, tvalOf v)
        | none => (w.streamConflict c).map (fun ch => (causeChannel, ch))

/-- A 64-byte block at an address that a command names: checks 1 and 2 of R93 and its poison (Table 11.4). -/
def State.blockRefusal (s : State) (a align n : Nat) : Option Refused :=
  if a % align ≠ 0 then some (causeMisaligned, a)
  else if s.mine.spSize < a + n then some (causeBounds, Nat.max a s.mine.spSize)
  else (s.dispatchPoison a n).map (fun p => (causePoisonConsumed, p))

/-- The channels of a command noted for the period (R158). -/
def Crew.noteStream (w : Crew) (c : SmCmd) : Crew :=
  { w with graph := { w.graph with slotIns := c.ins.foldl sadd w.graph.slotIns } }

/-- The dispatch of a stream command (R93). -/
def State.dispatchStream (s : State) (op : SmOp) (a b f : Reg) (g : Pred) : State :=
  if !(s.me.getP g) then s.complete 4
  else if s.mine.smFull then s
  else
    let x := (s.me.getX a).toNat
    let p := (s.me.getX b).toNat
    match s.blockRefusal x 64 64 with
    | some r => s.refuse r
    | none =>
      let dests := if p.testBit 19 then (s.mine.mapChannels (field p 23 20)).getD [] else []
      let c : SmCmd := ⟨op, x, p, ofBytes (s.dispatchBytes x 64), s.cur.strand, f.toNat, dests, 0, none, s.mine.graph.period⟩
      match s.mine.checkStream c with
      | some r => s.refuse r
      | none => (s.setMine (s.mine.noteStream c)).pushSm c

/-- R104. -/
def execSmAff (a b f : Reg) (g : Pred) (s : State) : Out := .next (s.dispatchStream .aff a b f g)
/-- R104. -/
def execSmAfw (a b f : Reg) (g : Pred) (s : State) : Out := .next (s.dispatchStream .afw a b f g)
/-- R105. -/
def execSmInd (a b f : Reg) (g : Pred) (s : State) : Out := .next (s.dispatchStream .ind a b f g)
/-- R105. -/
def execSmSct (a b f : Reg) (g : Pred) (s : State) : Out := .next (s.dispatchStream .sct a b f g)
/-- R106. -/
def execSmUpd (a b f : Reg) (g : Pred) (s : State) : Out := .next (s.dispatchStream .upd a b f g)
/-- R107. -/
def execSmIsx (a b f : Reg) (g : Pred) (s : State) : Out := .next (s.dispatchStream .isx a b f g)

/-- R108. -/
def execSmBar (a f : Reg) (g : Pred) (s : State) : Out :=
  .next
    (if !(s.me.getP g) then s.complete 4
     else if s.mine.smFull then s
     else
       let x := (s.me.getX a).toNat
       if 2 ^ 16 ≤ x then s.refuse configA
       else s.pushSm ⟨.bar, x, 0, 0, s.cur.strand, f.toNat, [], 0, none, s.mine.graph.period⟩)

/-! ### Kills (R109) -/

/-- Does a queued command stand on a slot of a mask? -/
def SmCmd.onSlots (c : SmCmd) (mask : Nat) : Bool :=
  (match c.op with | .aff => true | .afw => true | .ind => true | .sct => true | .upd => true | .isx => true | _ => false)
    && mask.testBit (field c.b 3 0)

/-- Does the command read into a channel, and end with a stop of rank 7? -/
def SmCmd.closes (c : SmCmd) : Bool :=
  match c.op with
  | .aff => Pattern.endstop c.blk
  | .ind => Pattern.endstop c.blk
  | .isx => (blkAt c.blk 0x18 4).testBit 5
  | _ => false

/-- Has a stream command nothing left to do? -/
def Active.finished (a : Active) : Bool :=
  a.ended && !a.closing && a.send.isEmpty && a.returns.isEmpty && a.staged.isEmpty && a.sent.isEmpty && a.outstanding == 0

/-- An active command killed: it makes no further addresses, what it has not enqueued is dropped, and a read stream with
endstop owes its stop of rank 7. One with nothing left to do completes as it would (R102). -/
def Active.kill (a : Active) : Active :=
  if a.killed || a.finished then a
  else
    { a with
      killed := true
      ended := true
      closing := false
      staged := []
      returns := []
      asked := []
      broken := none
      withheld := none
      outN := 0
      send := if a.cmd.closes then [stopToken 7 a.cmd.strand] else [] }

/-- The kill of the slots of a mask at dispatch. -/
def Crew.killSlots (w : Crew) (mask strand sem : Nat) : Crew :=
  let gone := w.streams.queue.filter (fun c => c.onSlots mask)
  let w1 := gone.foldl (fun u c => u.closed c.strand) w
  let slots := w1.streams.slots.map (fun p => (p.1, if mask.testBit p.1 then p.2.kill else p.2))
  let busy := slots.foldl (fun m p => if mask.testBit p.1 then setBit m p.1 true else m) 0
  let w2 : Crew := { w1 with streams := { w1.streams with
    queue := w1.streams.queue.filter (fun c => !(c.onSlots mask)), slots := slots } }
  if busy = 0 then w2.signal sem
  else { w2 with streams := { w2.streams with
    kills := w2.streams.kills ++ [(busy, sem, strand)], open_ := tset w2.streams.open_ strand (tget w2.streams.open_ strand 0 + 1) } }

/-- The requests that the kill takes from the indirect-stream engines. -/
def State.dropRequests (s : State) (core mask : Nat) : State :=
  { s with ise := s.ise.map (fun q => (q.1, q.2.filter (fun r => !(r.1 == core && mask.testBit r.2)))) }

/-- R109. -/
def execSmKill (a f : Reg) (g : Pred) (s : State) : Out :=
  .next
    (if !(s.me.getP g) then s.complete 4
     else
       let x := (s.me.getX a).toNat
       if 2 ^ 16 ≤ x then s.refuse configA
       else ((s.setMine (s.mine.killSlots x s.cur.strand f.toNat)).dropRequests s.cur.core x).complete 4)

/-! ### Starting commands (R92, R103, R158) -/

/-- Does a command access memory while it runs? -/
def ArOp.touchesMemory : ArOp → Bool
  | .hold => true
  | .run => true
  | .chk => true
  | _ => false
def VeCmd.touchesMemory : VeCmd → Bool
  | .rd _ _ _ _ => true
  | .wr _ _ _ _ => true
  | _ => false

def SmOp.touchesMemory : SmOp → Bool
  | .aff => true
  | .afw => true
  | .ind => true
  | .sct => true
  | .upd => true
  | .isx => true
  | _ => false
/-- Have the memory-accessing commands of every period before `period` completed (R158)? NX commands belong to no period (R244). DEDUCED, log 66. -/
def Crew.memReady (w : Crew) (period : Nat) : Bool :=
  w.streams.queue.all (fun c => !(c.op.touchesMemory) || decide (period ≤ c.period))
    && w.streams.slots.all (fun a => decide (period ≤ a.2.cmd.period))
    && (w.array.feedq ++ w.array.feeding ++ w.array.drainq).all (fun c => !(c.op.touchesMemory) || decide (period ≤ c.core))
    && w.veq.all (fun e => !(e.cmd.touchesMemory) || decide (period ≤ e.period))

/-- A command at the start of its work. -/
def Active.start (c : SmCmd) : Active where
  cmd := c
  pos := 0
  sub1 := 0
  sub2 := 0
  out := 0
  outN := 0
  outPoison := false
  outError := none
  send := []
  run := 0
  ended := false
  closing := false
  outstanding := 0
  returns := []
  nextReturn := 0
  applied := 0
  stopped := none
  broken := none
  withheld := none
  asked := []
  fetched := []
  staged := []
  sent := []
  killed := false

/-- Is a channel of the command held in the same role by an active stream (R92) or an nx.xget in progress (R244)? -/
def Crew.channelHeld (w : Crew) (c : SmCmd) : Bool :=
  w.streams.slots.any (fun a => a.2.cmd.outs.any (fun ch => c.outs.contains ch) || a.2.cmd.ins.any (fun ch => c.ins.contains ch))
    || w.nx.any (fun j => j.2.cmd.op == .xget && (c.outs.contains j.2.cmd.output || c.ins.contains j.2.cmd.index))

/-- A stream command at the head of the SM queue started on its slot. -/
def Crew.smStart (w : Crew) (c : SmCmd) : Option Crew :=
  let n := field c.b 3 0
  if (tfind w.streams.slots n).isSome || w.channelHeld c || !(w.memReady c.period) then none
  else
    let u := w.popSm
    some { u with streams := { u.streams with slots := tset u.streams.slots n (Active.start c) } }

/-- A request that started joins the engine of the stack that holds its first index (R87): bits [15:12] of a virtual
address are those of its physical address. Where that address is no HBM address, the same bits choose the stack (DESIGN CHOICE, log 84). -/
def State.joinIse (s : State) (core : Nat) (c : SmCmd) : State :=
  if c.op = .isx then
    let k := stackOf (blkAt c.blk 0 8)
    { s with ise := tset s.ise k (tget s.ise k [] ++ [(core, field c.b 3 0)]) }
  else s

/-- The head of the SM queue started or completed, but for a wave's entry. -/
def State.smHead (s : State) (core : Nat) (c : SmCmd) : State :=
  match c.op with
  | .bar => s.engine core (fun w => w.smBarrier c)
  | .plane => s.engine core (fun w => w.smPlane c)
  | .stop => s.engine core (fun w => w.smToken c)
  | .tok => s.engine core (fun w => w.smToken c)
  | .drain => s.engine core (fun w => some (w.smDrain c))
  | .wave => s
  | _ => match (s.crew core).smStart c with
    | some w => (s.setCrew core w).joinIse core c
    | none => s

end Sys2Proof.Machine
end

