-- ==== Sys2Proof/Machine/StreamSteps.lean ====
section
/-!
DEFINITION. The steps of running streams (spec 04, R87 to R91, R97 to R107; spec 05, R125, R126): tokens read and written,
indices followed, updates applied, requests of the stack logic, completion.
-/
namespace Sys2Proof.Machine
open Sys2Proof

/-! ### Reaching an element (Table 4.5, R100, R261, R270) -/

/-- What the address of a stream element reaches. -/
inductive Spot where
  | at (l : Loc) (pa policy : Nat)
  | error (code : Nat)
  /-- a trap of the issuing strand that holds the stream -/
  | broken (cause : Cause)
  | wait
  deriving DecidableEq, Repr

/-- The address of an element of `size` bytes in a space, through translation cache t, for the command `who` of a strand of a core. A line that a sparse-update unit owns is
waited for, but by the updates that go to that unit (R88); one of the host window fails without regard to its links (R106). An access that software must not make is CONFIG (R7; DEDUCED, log 87). -/
def State.spot (s : State) (t core strand who space : Nat) (ea : Int) (size : Nat) (n : Need) : Spot × State :=
  if space = 1 then (.at (.pool core ea.toNat) 0 0, s)
  else if ea < 0 then (.error 0x02, s)
  else
    let r := s.translate t (s.crew core).info.ctx ea.toNat n
    (match r.1 with
     | .absent => .error 0x02
     | .malformed => .error 0x04
     | .permission => .error 0x03
     | .notResident => .broken causeLatencyBroken
     | .withheld => .wait
     | .unreachable _ => .error 0x07
     | .ok pa leaf =>
       if !(s.ownerOk (clusterOf core) pa leaf) then .error 0x30
       else if s.saveBarred core strand ea.toNat size n.write then .broken causeConfig
       else if s.inTransit pa leaf || !(s.stackUp pa) || (!(n.read && n.write) && s.suuHolds pa size) || s.behind core who pa then .wait
       else match r.2.cutOff (r.2.locOf pa), r.2.locOf pa with
         | some _, l => (match l with | .host _ => if n.read && n.write then .at l pa 0 else .error 0x07 | _ => .error 0x07)
         | none, l => if n.write && !(r.2.windowWritable core pa) then .error 0x03 else .at l pa (leafPolicy leaf), r.2)

/-- The rights of stream reads, writes and updates: always with user (R77). DESIGN CHOICE, log 95. -/
def needRead : Need := ⟨true, false, false, false, false⟩
def needWrite : Need := ⟨false, true, false, false, true⟩
def needUpdate : Need := ⟨true, true, false, false, true⟩

/-- What an element read gives. -/
inductive Got where
  | value (v : Nat) (poison : Bool)
  | error (code : Nat)
  | held
  deriving DecidableEq, Repr

/-- The stream held at an element by a trap of the issuing strand: LATENCY_BROKEN where its page is not resident (R80). -/
def State.breakStream (s : State) (core : Nat) (a : Active) (ea : Int) (cause : Cause) : State × Active :=
  let w := s.crew core
  let k := (w.trapTarget a.cmd.strand).getD a.cmd.strand
  (s.setCrew core (w.postTrap a.cmd.strand cause (BitVec.ofInt 64 ea)), { a with broken := some (k, false) })

/-- The stream waiting at an element whose page is withheld, keeping the time of its first wait (R80). -/
def State.withholdStream (s : State) (a : Active) (ea : Int) : Active :=
  match a.withheld with
  | some (v, t) => if v = ea.toNat then { a with withheld := some (v, t) } else { a with withheld := some (ea.toNat, s.time) }
  | none => { a with withheld := some (ea.toNat, s.time) }

/-- The dispatching strand's earlier stores to n bytes performed before a command accesses them (R306). Later ones that overlap them, and the stores before
any of these, are performed with them. DEDUCED, log 89. -/
def State.dispatchEdge (s : State) (core strand : Nat) (l : Loc) (n : Nat) : State := s.drainOverlap core strand l n

/-- An element of `size` bytes read for slot n of a core, or 64 + key for an nx.xget, through translation cache t. An element of another device is
asked for, and the stream waits until it has come; an affine read asks for its whole granule, which serves every element of the token in it, since a read never
sees part of a write (R299; DEDUCED, log 74). The stack logic has the directory recall the line (R85). -/
def State.readElem (s : State) (t core n space : Nat) (a : Active) (ea : Int) (size : Nat) : Got × State × Active :=
  let r := s.spot t core a.cmd.strand (if n < 64 then 16 + n else n - 32) space ea size needRead
  match r.1 with
  | .error c => (.error c, r.2, { a with withheld := none })
  | .broken c => let q := r.2.breakStream core a ea c; (.held, q.1, q.2)
  | .wait => (.held, r.2, s.withholdStream a ea)
  | .at l pa policy =>
    match l with
    | .remote dev x =>
      let whole := a.cmd.op == .aff
      let off := if whole then ea.toNat % 32 else 0
      let key := ea.toNat - off
      (match tfind a.fetched key with
       | some (v, p, e) =>
         (if e = 0 then .value (v / 2 ^ (8 * off) % 2 ^ (8 * size)) p else .error e, r.2,
           { a with fetched := if whole then a.fetched else tdel a.fetched key, withheld := none })
       | none =>
         if a.asked.contains key then (.held, r.2, a)
         else if r.2.flowOpen dev clsRequest then
           (.held, r.2.send dev clsRequest opRead (x - off) [if whole then 32 else size, forStream, core, n, key, (s.crew core).info.tag] [] 0 core,
             { a with asked := key :: a.asked })
         else (.held, r.2, a))
    | _ =>
      let s0 := r.2.dispatchEdge core a.cmd.strand l size
      let s1 := if space = 1 then s0 else if 64 ≤ t then s0.recall pa size else s0.touchLine (clusterOf core) pa policy false
      (.value (ofBytes (s0.bytesAt l size)) (s0.poisonedAt l size), s1, { a with withheld := none })

/-! ### Sending tokens -/

def Crew.setSlot (w : Crew) (n : Nat) (a : Active) : Crew :=
  { w with streams := { w.streams with slots := tset w.streams.slots n a } }
def State.putSlot (s : State) (core n : Nat) (a : Active) : State := s.modCrew core (fun w => w.setSlot n a)

/-- Can a stream send a token on all its outputs? -/
def Crew.streamCanSend (w : Crew) (a : Active) (t : Token) : Bool :=
  a.cmd.outs.all (fun c => w.canSend t c && w.mayWrite (w.isNew a.cmd.period) 99 c)

/-- The next token of slot n sent, if its channels have room (R92, R119). -/
def Crew.flushSlot (w : Crew) (n : Nat) : Crew :=
  match tfind w.streams.slots n with
  | none => w
  | some a =>
    match a.send with
    | [] => w
    | t :: r => if w.streamCanSend a t then (w.enqueueAll t a.cmd.outs).setSlot n { a with send := r } else w

def State.flushSlot (s : State) (core n : Nat) : State := s.modCrew core (fun w => w.flushSlot n)

/-- May a stream make another address: does the credit of its outputs cover a token beyond the n that it still owes (R146)? -/
def Crew.streamCovers (w : Crew) (a : Active) (n : Nat) : Bool := a.cmd.outs.all (fun c => w.creditOver c n)
def Crew.streamCredit (w : Crew) (a : Active) : Bool := w.streamCovers a 0

/-- The token in progress closed (R97, R100). -/
def Active.closeOut (a : Active) : Active :=
  if a.outN = 0 then a
  else
    let t := match a.outError with
      | some e => memoryError (e % 256) (e / 256) a.cmd.strand
      | none => ⟨a.out, a.cmd.strand, kindData, a.outPoison⟩
    { a with send := a.send ++ [t], out := 0, outN := 0, outPoison := false, outError := none }

/-- A value put into the token in progress at its next place of w bits. -/
def Active.putOut (a : Active) (w v : Nat) (poison : Bool) : Active :=
  { a with out := a.out + v % 2 ^ w * 2 ^ (w * a.outN), outN := a.outN + 1, outPoison := a.outPoison || poison }

/-- A failing element of the token in progress: the first one's code and address stay. -/
def Active.failOut (a : Active) (code : Nat) (ea : Int) : Active :=
  { a with outN := a.outN + 1, outError := match a.outError with | some e => some e | none => some (code + 256 * wrapInt 64 ea) }

/-- The count of an error token made, where the token in progress held no error before (R100). -/
def State.countMade (s : State) (core : Nat) (a : Active) (code : Nat) : State :=
  if a.outError.isNone then s.modCrew core (fun w => w.countError code) else s

/-- A stream's conversion of one element (R95); MX elements are copied. The launch's nosat and ftz are
bits 3 and 2 of csr_mode. -/
def State.streamConvert (s : State) (core blk src tgt v : Nat) : Nat :=
  if isMx src then v
  else
    let m := (s.crew core).info.mode
    (convert src tgt ((rmOf (Pattern.rm blk)).getD .rne) 0 (m.getLsbD 3) (m.getLsbD 2) v).1

/-! ### sm.aff (R97, R104) -/

/-- The scale byte j of the frame at the current element read into its scale token (R141). -/
def State.affScale (s : State) (core n : Nat) (a : Active) : State × Active × Bool :=
  let b := a.cmd.blk
  let blocks := frameBlocks b a.pos
  let ea := scaleAddress b (affAddress b a.pos + (mxBytes (Pattern.mfmt b) * a.outN : Nat))
  let q := s.readElem (clusterOf core) core n (Pattern.space b) a ea 1
  let done := fun (x : Active) => if x.outN = blocks then ({ x.closeOut with sub1 := 1 }, false) else (x, true)
  match q.1 with
  | .held => (q.2.1, q.2.2, false)
  | .value v p => let r := done (q.2.2.putOut 8 v p); (q.2.1, r.1, r.2)
  | .error c => let r := done (q.2.2.failOut c ea); (q.2.1.countMade core a c, r.1, r.2)

/-- The stops after element k of an affine read (R97). -/
def affStops (b k strand : Nat) : List Token :=
  let e := affEnds b k
  if k + 1 = affTotal b ∧ Pattern.endstop b = true then [stopToken 7 strand]
  else if Pattern.dimstop b = true ∧ e ≠ 0 then [stopToken e strand] else []

/-- The stream past element k, which has been put into the token in progress: the token closed where it is full, before a
stop, at a frame's end and at the end. Says whether the token goes on. -/
def Active.affNext (a : Active) (full : Nat) : Active × Bool :=
  let b := a.cmd.blk
  let k := a.pos
  let mx := isMx (Pattern.mfmt b)
  let last := k + 1 == affTotal b
  let frame := mx && frameEnds b k
  let close := a.outN == full || (Pattern.dimstop b && affEnds b k != 0) || frame || last
  let x := if close then a.closeOut else a
  ({ x with pos := k + 1, sub1 := if frame then 0 else x.sub1, send := x.send ++ affStops b k a.cmd.strand, ended := last }, !close)

/-- One element of an affine read put into the token in progress. -/
def State.affElement (s : State) (core n : Nat) (a : Active) : State × Active × Bool :=
  let b := a.cmd.blk
  let m := Pattern.mfmt b
  let w := fmtWidth (Pattern.tfmt b)
  let ea := affAddress b a.pos
  let q := s.readElem (clusterOf core) core n (Pattern.space b) a ea (memSize m)
  match q.1 with
  | .held => (q.2.1, q.2.2, false)
  | .value v p =>
    let e := if fmtWidth m = 4 then v / 2 ^ (4 * (affIndex b a.pos 0 % 2)) % 16 else v
    let r := (q.2.2.putOut w (s.streamConvert core b m (Pattern.tfmt b) e) p).affNext (256 / w)
    (q.2.1, r.1, r.2)
  | .error c => let r := (q.2.2.failOut c ea).affNext (256 / w); (q.2.1.countMade core a c, r.1, r.2)

/-- Elements read until the token in progress closes, the stream ends or it must wait. -/
def State.affFill (s : State) (core n : Nat) (a : Active) : Nat → State × Active
  | 0 => (s, a)
  | fuel + 1 =>
    if a.ended then (s, a)
    else
      let scale := isMx (Pattern.mfmt a.cmd.blk) && a.sub1 == 0
      let r := if scale then s.affScale core n a else s.affElement core n a
      if r.2.2 then r.1.affFill core n r.2.1 fuel else (r.1, r.2.1)

/-- A step of slot n of a core for an active command: nothing where the core has no crew, or the slot is idle, runs
something else, or is held by LATENCY_BROKEN (R80). -/
def State.onSlot (s : State) (core n : Nat) (op : SmOp) (f : Active → State) : State :=
  if (s.core core).held then
    (match tfind (s.crew core).streams.slots n with
     | some a => if a.cmd.op = op ∧ a.broken = none then f a else s
     | none => s)
  else s

/-- An affine read that has to wait within a token: the token begins again when it goes on, so that all it reads of a granule is read at once (R299). What it
waits for and what has come to it stay. -/
def Active.again (a x : Active) : Active :=
  { a with asked := x.asked, fetched := x.fetched, withheld := x.withheld, broken := x.broken }

/-- The next token of an affine read formed, or what it waits for noted; an error counts with the token that carries it (R100). -/
def State.affToken (s : State) (core n : Nat) (a : Active) : State :=
  let r := s.affFill core n a 80
  if r.2.outN = 0 then r.1.putSlot core n { r.2 with fetched := [] }
  else (r.1.modCrew core (fun w => { w with errtok := (s.crew core).errtok })).putSlot core n (a.again r.2)

/-- R97, R104: the next token of an affine read formed and sent, or one that waits sent. A source holds behind its marker in a save (R348; DEDUCED, log 50). -/
def execAffineReadToken (core slot : Nat) (s : State) : Out :=
  .next (s.onSlot core slot .aff (fun a =>
    if (s.crew core).stopped then s
    else if a.send ≠ [] then s.flushSlot core slot
    else if a.ended ∨ (a.outN = 0 ∧ (s.crew core).streamCredit a = false) then s
    else
      (s.affToken core slot a).flushSlot core slot))

/-! ### Writing elements (R98, R100) -/

/-- The mark of a token whose elements go to these places: the flow and number of its first packet to another device, by which a refused token is counted
once (R100). -/
def State.tokenMark (s : State) (ls : List Loc) : Nat :=
  match ls.findSome? (fun l => match l with | .remote d _ => some d | _ => none) with
  | some d => (4 * d + clsRequest) * 65536 + (s.flow d clsRequest).next
  | none => 0

/-- The mark of a new token is that of no refused one. -/
def State.freshMark (s : State) (core mark : Nat) : State :=
  if mark = 0 then s
  else s.modCrew core (fun w => { w with streams := { w.streams with refused := w.streams.refused.filter (· != mark) } })

/-- The writes of one token that fall in one aligned granule, which are one write (R299): the granule's place, the physical address and policy of its line, none
in the crew's own scratchpad, its bytes by offset, and poison. -/
structure Patch where
  loc : Loc
  line : Option (Nat × Nat)
  bytes : Tab Byte
  poison : Bool
  deriving DecidableEq, Repr

/-- Bytes at a place added to the patches of a token; of two that name one byte the later stays. -/
def addPatch (ps : List Patch) (l : Loc) (line : Option (Nat × Nat)) (bs : List Byte) (poison : Bool) : List Patch :=
  let g := l.granule
  let put := fun (t : Tab Byte) => bs.zipIdx.foldl (fun u b => tset u (l.address % 32 + b.2) b.1) t
  if ps.any (fun p => p.loc == g) then
    ps.map (fun p => if p.loc = g then { p with bytes := put p.bytes, poison := p.poison || poison } else p)
  else ps ++ [⟨g, line, put [], poison⟩]

/-- A patch written at a local place. -/
def State.applyPatch (s : State) (p : Patch) : State :=
  if p.bytes.length = 32 then s.writeLoc p.loc (p.bytes.map (·.2)) p.poison
  else p.bytes.foldl (fun t b => t.writeLoc (p.loc.plus b.1) [b.2] p.poison) s

/-- A patch written for a stream. One to another device is sent as one packet, whose last operation field says which bytes of its payload are written, and
its acknowledgement is awaited. -/
def State.writePatch (s : State) (core mark : Nat) (a : Active) (p : Patch) : State × Active :=
  let s0 := s.dispatchEdge core a.cmd.strand p.loc 32
  match p.loc with
  | .remote dev x =>
    let seq := (s0.flow dev clsRequest).next
    let lo := (p.bytes.head?.map (·.1)).getD 0
    let hi := (p.bytes.getLast?.map (·.1)).getD 0
    let mask := p.bytes.foldl (fun m b => setBit m (b.1 - lo) true) 0
    (s0.send dev clsRequest opWrite (x + lo) [32, forToken, core, field a.cmd.b 3 0, mark, mask + 2 ^ 32 * seq]
      ((List.range (hi + 1 - lo)).map (fun i => tget p.bytes (lo + i) 0)) (b2n p.poison) core,
      { a with sent := (4 * dev + clsRequest, seq) :: a.sent })
  | _ =>
    let t := s0.applyPatch p
    (match p.line with | some (pa, policy) => t.touchLine (clusterOf core) pa policy true | none => t, a)

/-- Patches written in order. -/
def State.writePatches (s : State) (core mark : Nat) (a : Active) : List Patch → State × Active
  | [] => (s, a)
  | p :: ps => let r := s.writePatch core mark a p; r.1.writePatches core mark r.2 ps

/-- Have the flows to other devices room for some patches? -/
def State.patchRoom (s : State) (ps : List Patch) : Bool :=
  ps.all (fun p => match p.loc with
    | .remote dev _ => decide ((s.flow dev clsRequest).unacked.length + ps.length ≤ 1024)
    | _ => true)

/-- What checking the elements of a write's token gives: every granule's write, the first failing code in slot order, or a hold. -/
inductive Checked where
  | patches (l : List Patch)
  | error (code : Nat)
  | held
  deriving DecidableEq, Repr

/-- The elements of a token translated before any is stored (R100). -/
def State.checkElems (s : State) (core space : Nat) (a : Active) : List Staged → List Patch → Checked × State × Active
  | [], ps => (.patches ps, s, { a with withheld := none })
  | e :: rest, ps =>
    let r := if e.code ≠ 0 then (Spot.error e.code, s) else s.spot (clusterOf core) core a.cmd.strand (16 + field a.cmd.b 3 0) space e.ea e.bytes.length needWrite
    match r.1 with
    | .broken c => let q := r.2.breakStream core a e.ea c; (.held, q.1, q.2)
    | .wait => (.held, r.2, s.withholdStream a e.ea)
    | .error c =>
      let q := r.2.checkElems core space a rest ps
      (if q.1 = .held then .held else .error c, q.2)
    | .at l pa policy =>
      r.2.checkElems core space a rest (addPatch ps l (if space = 1 then none else some (pa, policy)) e.bytes e.poison)

/-- A token's elements checked and stored, or counted as one error (R100); false where it must wait. -/
def State.storeToken (s : State) (core space : Nat) (a : Active) (es : List Staged) : State × Active × Bool :=
  let r := s.checkElems core space a es []
  match r.1 with
  | .held => (r.2.1, r.2.2, false)
  | .error c => (r.2.1.modCrew core (fun w => w.countError c), r.2.2, true)
  | .patches ps =>
    if !(r.2.1.patchRoom ps) then (r.2.1, r.2.2, false)
    else
      let mark := r.2.1.tokenMark (ps.map (fun p => p.loc))
      let q := (r.2.1.freshMark core mark).writePatches core mark r.2.2 ps
      (q.1, q.2, true)

/-! ### sm.afw (R98, R104) -/

/-- The token at the head of a channel that a stream takes from. -/
def Crew.streamHead (w : Crew) (a : Active) (ch : Nat) : Option Token :=
  if w.mayRead (w.isNew a.cmd.period) 99 ch then (w.chan ch).head else none

/-- How many elements of a write's pattern the next token carries. -/
def afwCount (b k : Nat) : Nat :=
  let per := 256 / fmtWidth (Pattern.tfmt b)
  let left := affTotal b - k
  let run := affCount b 0 - affIndex b k 0
  Nat.min (Nat.min per left) (if Pattern.dimstop b || isMx (Pattern.mfmt b) then run else left)

/-- The write past `cnt` elements: waiting for a dimension's stop, for the closing stop, or at its end. -/
def Active.afwNext (a : Active) (cnt : Nat) : Active :=
  let b := a.cmd.blk
  let k := a.pos + cnt
  let e := affEnds b (k - 1)
  let last := k == affTotal b
  { a with
    pos := k
    sub1 := if isMx (Pattern.mfmt b) && frameEnds b (k - 1) then 0 else a.sub1
    sub2 := if Pattern.dimstop b && !last then e else 0
    closing := last && (Pattern.dimstop b || Pattern.endstop b)
    ended := last && !(Pattern.dimstop b || Pattern.endstop b) }

/-- The addresses of the next elements of a write, a 4-bit format's by the byte. -/
def afwAddresses (b k cnt : Nat) : List Int :=
  if fmtWidth (Pattern.mfmt b) = 4 then (List.range (cnt / 2)).map (fun i => affAddress b (k + 2 * i))
  else (List.range cnt).map (fun i => affAddress b (k + i))

/-- The bytes of the next elements of a write out of a data token. -/
def State.afwBytes (s : State) (core b cnt data : Nat) : List (List Byte) :=
  let t := Pattern.tfmt b
  let m := Pattern.mfmt b
  let el := fun i => s.streamConvert core b t m (data / 2 ^ (fmtWidth t * i) % 2 ^ fmtWidth t)
  if fmtWidth m = 4 then (List.range (cnt / 2)).map (fun i => bytesOf 1 (el (2 * i) + 16 * el (2 * i + 1)))
  else (List.range cnt).map (fun i => bytesOf (memSize m) (el i))

/-- The stream ended with code 0x05 (R98). -/
def State.afwMismatch (s : State) (core n : Nat) (a : Active) : State :=
  s.modCrew core (fun w => (w.countError 0x05).setSlot n { a with ended := true, closing := false })

/-- A stop at the head of a write's input (R98). -/
def State.afwStop (s : State) (core n : Nat) (a : Active) (r : Nat) : State :=
  let b := a.cmd.blk
  if r = 0 then s
  else if a.closing then
    (if (Pattern.endstop b && r == 7) || (!(Pattern.endstop b) && decide (Pattern.dims b + 1 ≤ r)) then
      s.putSlot core n { a with ended := true, closing := false }
     else s.afwMismatch core n a)
  else if Pattern.dimstop b then
    (if a.sub2 ≠ 0 ∧ r = a.sub2 then s.putSlot core n { a with sub2 := 0 } else s.afwMismatch core n a)
  else if r = 7 then s.putSlot core n { a with ended := true } else s

/-- R98, R104: the token at the head of an affine write's input consumed; a count token is ignored (DESIGN CHOICE, log 85). -/
def execAffineWriteToken (core slot : Nat) (s : State) : Out :=
  .next (s.onSlot core slot .afw (fun a =>
    let b := a.cmd.blk
    let ch := field a.cmd.b 8 4
    if a.ended then s
    else match (s.crew core).streamHead a ch with
    | none => s
    | some t =>
      let taken := s.modCrew core (fun w => w.dequeue ch)
      if t.isStop then taken.afwStop core slot a t.rank
      else if a.closing || a.sub2 != 0 then taken.afwMismatch core slot a
      else if t.kind = kindCount then taken
      else
        let scale := isMx (Pattern.mfmt b) && a.sub1 == 0
        let cnt := afwCount b a.pos
        let next := if scale then { a with sub1 := 1 } else a.afwNext cnt
        if t.kind = kindError then taken.modCrew core (fun w => (w.countError t.code).setSlot slot next)
        else
          let blocks := frameBlocks b a.pos
          let eas := if scale then (List.range blocks).map (fun j => scaleAddress b (affAddress b a.pos + (mxBytes (Pattern.mfmt b) * j : Nat)))
            else afwAddresses b a.pos cnt
          let bytes := if scale then (List.range blocks).map (fun j => bytesOf 1 (t.data / 2 ^ (8 * j)))
            else s.afwBytes core b cnt t.data
          let r := s.storeToken core (Pattern.space b) a (List.zipWith (fun ea x => ⟨ea, x, t.poison, 0⟩) eas bytes)
          if r.2.2 then
            let x := r.2.1
            (r.1.modCrew core (fun w => w.dequeue ch)).putSlot core slot
              { next with withheld := x.withheld, sent := x.sent }
          else r.1.putSlot core slot r.2.1))

/-! ### Indexed commands: indices and pairs (R98) -/

/-- The width of an index slot, its value as an integer, and the slots of a token. -/
def indexWidth (b : Nat) : Nat := if Pattern.ixfmt b = 0 then 16 else 32
def indexPer (b : Nat) : Nat := 256 / indexWidth b
def indexValue (b data i : Nat) : Int :=
  let v := data / 2 ^ (indexWidth b * i) % 2 ^ indexWidth b
  if Pattern.ixfmt b = 2 then sintOf 32 v else (v : Int)
def dataPer (b : Nat) : Nat := 256 / fmtWidth (Pattern.tfmt b)
def dataValue (b data i : Nat) : Nat := data / 2 ^ (fmtWidth (Pattern.tfmt b) * i) % 2 ^ fmtWidth (Pattern.tfmt b)

/-- The address an index names (R98), and whether its element lies in the window (R99). -/
def indexedAddress (b : Nat) (x : Int) : Int := (Pattern.base b : Int) + x * (memSize (Pattern.mfmt b) : Int)
def inWindow (b : Nat) (ea : Int) : Bool :=
  decide (windowLo b ≤ ea) && decide (ea + (memSize (Pattern.mfmt b) : Int) ≤ windowHi b)

/-- Has the stream taken its count of indices? -/
def Active.counted (a : Active) : Bool := Pattern.count a.cmd.blk 0 != 0 && decide (Pattern.count a.cmd.blk 0 ≤ a.pos)

/-- A gather at its end: the token in progress closed, and the rank-7 stop that endstop asks for. -/
def Active.gatherEnd (a : Active) : Active :=
  let x := a.closeOut
  { x with ended := true, send := x.send ++ (if Pattern.endstop a.cmd.blk then [stopToken 7 a.cmd.strand] else []) }

/-- One index slot of the head token used; the token leaves with its last slot, or where the count is reached. -/
def State.gatherNext (s : State) (core n ch : Nat) (a : Active) : State :=
  let x := { a with pos := a.pos + 1, sub1 := a.sub1 + 1 }
  let full := if x.outN = dataPer a.cmd.blk then x.closeOut else x
  let done' := full.counted
  let last := decide (indexPer a.cmd.blk ≤ full.sub1) || done'
  let y := if last then { full with sub1 := 0 } else full
  let s1 := if last then s.modCrew core (fun w => w.dequeue ch) else s
  (s1.putSlot core n (if done' then y.gatherEnd else y)).flushSlot core n

/-- A data token's next index followed by a gather. -/
def State.gatherIndex (s : State) (core n ch : Nat) (a : Active) (t : Token) : State :=
  let b := a.cmd.blk
  let m := Pattern.mfmt b
  let w := fmtWidth (Pattern.tfmt b)
  if t.poison then s.gatherNext core n ch (a.putOut w 0 true)
  else
    let ea := indexedAddress b (indexValue b t.data a.sub1)
    if !(inWindow b ea) then (s.countMade core a 0x01).gatherNext core n ch (a.failOut 0x01 ea)
    else
      let q := s.readElem (clusterOf core) core n (Pattern.space b) a ea (memSize m)
      match q.1 with
      | .held => q.2.1.putSlot core n q.2.2
      | .value v p => q.2.1.gatherNext core n ch (q.2.2.putOut w (s.streamConvert core b m (Pattern.tfmt b) v) p)
      | .error c => (q.2.1.countMade core a c).gatherNext core n ch (q.2.2.failOut c ea)

/-- R98, R105: one index of a gather, or another token of its input, handled; or a token that waits sent. DEDUCED, log 69. -/
def execGatherIndex (core slot : Nat) (s : State) : Out :=
  .next (s.onSlot core slot .ind (fun a =>
    let b := a.cmd.blk
    let ch := field a.cmd.b 8 4
    if a.send ≠ [] then s.flushSlot core slot
    else if a.ended ∨ (s.crew core).tileHeld a = true then s
    else match (s.crew core).streamHead a ch with
    | none => s
    | some t =>
      let taken := s.modCrew core (fun w => w.dequeue ch)
      if t.isStop then
        (if t.rank = 0 then taken
         else if t.rank = 7 then (taken.putSlot core slot a.gatherEnd).flushSlot core slot
         else
           let x := a.closeOut
           (taken.putSlot core slot { x with send := x.send ++ [stopToken t.rank a.cmd.strand] }).flushSlot core slot)
      else if t.kind = kindCount then taken
      else if t.kind = kindError then
        let x := a.closeOut
        let y := { x with send := x.send ++ [{ t with bank := a.cmd.strand }], pos := a.pos + indexPer b }
        (taken.putSlot core slot (if y.counted then y.gatherEnd else y)).flushSlot core slot
      else if a.outN = 0 ∧ (s.crew core).streamCredit a = false then s
      else s.gatherIndex core slot ch a t))

/-- What the heads of the two inputs of a scatter or update come to (R98). -/
inductive Pairing where
  | wait
  /-- a token of the index (or data) input consumed without a pair -/
  | skip (index : Bool)
  /-- a stop of rank 7 on the index (or data) input -/
  | seven (index : Bool)
  /-- matching stops -/
  | stops
  /-- the rest of the current token of an input discarded -/
  | drop (index : Bool)
  | mismatch
  | pair (i d : Token)
  deriving DecidableEq, Repr

/-- A token that a paired input consumes without a pair: a stop of rank 0 or a count. -/
def Token.idle (t : Token) : Bool := t.isZero || t.kind == kindCount

/-- The heads of the two inputs compared. A stop of rank 7 ends the stream whatever the other input holds. -/
def pairing (hi hd : Option Token) (sub1 sub2 : Nat) : Pairing :=
  match hi with
  | none => (match hd with | some d => if d.isStop && d.rank == 7 then .seven false else .wait | none => .wait)
  | some i =>
    if i.idle then .skip true
    else if i.isStop && i.rank == 7 then .seven true
    else match hd with
      | none => .wait
      | some d =>
        if d.idle then .skip false
        else if d.isStop && d.rank == 7 then .seven false
        else match i.isStop, d.isStop with
          | true, true => if i.rank = d.rank then .stops else .mismatch
          | true, false => if sub2 ≠ 0 ∨ d.kind = kindError then .drop false else .mismatch
          | false, true => if sub1 ≠ 0 ∨ i.kind = kindError then .drop true else .mismatch
          | false, false => .pair i d

/-- A token that goes to the return channel: in stream order where ord is set, at once otherwise (R91). Kind 5 marks a
position without a return. -/
def drainReturns (a : Active) : Nat → Active
  | 0 => a
  | n + 1 =>
    match tfind a.returns a.nextReturn with
    | some t =>
      drainReturns { a with
        returns := tdel a.returns a.nextReturn
        nextReturn := a.nextReturn + 1
        send := if t.kind = 5 then a.send else a.send ++ [t] } n
    | none => a

/-- A return, or none, for a position of an update stream. -/
def Active.deliver (a : Active) (pos : Nat) (t : Option Token) : Active :=
  let b := a.cmd.blk
  if !(Pattern.ret b) || Pattern.uop b == 12 || a.killed then a
  else if Pattern.ord b then
    let x := { a with returns := tset a.returns pos (t.getD ⟨0, 0, 5, false⟩) }
    drainReturns x x.returns.length
  else match t with
    | some r => { a with send := a.send ++ [r] }
    | none => a

/-- The return of an update (R91). -/
def returnToken (a : Active) (old pos ea : Nat) (poison : Bool) : Token :=
  ⟨old % 2 ^ 32 + pos % 2 ^ 32 * 2 ^ 32 + ea % 2 ^ 64 * 2 ^ 64, a.cmd.strand, kindData, poison⟩

/-- Does the stream forward error tokens (R98)? -/
def Active.forwards (a : Active) : Bool := a.cmd.op == .upd && Pattern.ret a.cmd.blk && Pattern.uop a.cmd.blk != 12

/-- An error token of an input leaving: forwarded to the return channel, or counted (R98). DESIGN CHOICE, log 94. -/
def Crew.passError (w : Crew) (a : Active) (t : Token) : Crew × Active :=
  if a.forwards then (w, { a with send := a.send ++ [{ t with bank := a.cmd.strand }] }) else (w.countError t.code, a)

/-- The head of an input leaves; an error token is forwarded or counted. -/
def Crew.takeHead (w : Crew) (a : Active) (ch : Nat) : Crew × Active :=
  let u := w.dequeue ch
  match (w.chan ch).head with
  | some t => if t.kind = kindError then u.passError a t else (u, a)
  | none => (u, a)

/-- The stream at its end: partly read tokens leave their channels (DESIGN CHOICE, log 85). -/
def Crew.pairEnd (w : Crew) (a : Active) : Crew × Active :=
  let r1 := if a.sub1 ≠ 0 then w.takeHead a (field a.cmd.b 8 4) else (w, a)
  let r2 := if a.sub2 ≠ 0 then r1.1.takeHead r1.2 (field a.cmd.b 13 9) else r1
  let closing := r2.2.cmd.op == .upd && (Pattern.uop a.cmd.blk == 12 || (Pattern.ret a.cmd.blk && Pattern.endstop a.cmd.blk))
  (r2.1, { r2.2 with sub1 := 0, sub2 := 0, ended := true, closing := closing })

/-- One pair used: each token leaves with its last slot, and the stream ends at its count. -/
def Crew.pairNext (w : Crew) (a : Active) : Crew × Active :=
  let b := a.cmd.blk
  let x := { a with pos := a.pos + 1, run := a.run + 1, sub1 := a.sub1 + 1, sub2 := a.sub2 + 1 }
  let first (q : Crew × Active) : Crew × Active := (q.1, { q.2 with sub1 := 0 })
  let second (q : Crew × Active) : Crew × Active := (q.1, { q.2 with sub2 := 0 })
  let r1 := if indexPer b ≤ x.sub1 then first (w.takeHead x (field a.cmd.b 8 4)) else (w, x)
  let r2 := if dataPer b ≤ r1.2.sub2 then second (r1.1.takeHead r1.2 (field a.cmd.b 13 9)) else r1
  if r2.2.counted then r2.1.pairEnd r2.2 else r2

/-- A pairing without a pair acted on; the state of the stream after it. DESIGN CHOICE, log 97. -/
def Crew.pairOther (w : Crew) (a : Active) (p : Pairing) : Crew × Active :=
  let chi := field a.cmd.b 8 4
  let chd := field a.cmd.b 13 9
  match p with
  | .skip true => (w.dequeue chi, a)
  | .skip false => (w.dequeue chd, a)
  | .seven true => let r := w.pairEnd a; (r.1.dequeue chi, r.2)
  | .seven false => let r := w.pairEnd a; (r.1.dequeue chd, r.2)
  | .stops => ((w.dequeue chi).dequeue chd, { a with run := 0 })
  | .drop true => let r := w.takeHead a chi; (r.1, { r.2 with sub1 := 0 })
  | .drop false => let r := w.takeHead a chd; (r.1, { r.2 with sub2 := 0 })
  | .mismatch =>
    let r := (w.countError 0x05).pairEnd a
    (r.1, if a.forwards then { r.2 with send := r.2.send ++ [memoryError 0x05 0 a.cmd.strand] } else r.2)
  | _ => (w, a)

/-- The pairing of a stream's inputs as they stand. -/
def Crew.pairOf (w : Crew) (a : Active) : Pairing :=
  pairing (w.streamHead a (field a.cmd.b 8 4)) (w.streamHead a (field a.cmd.b 13 9)) a.sub1 a.sub2

/-! ### sm.sct (R105) -/

/-- Have the staged elements a token of their own behind them: has the data token left its channel, or the stream ended? -/
def Active.stageDue (a : Active) : Bool := !a.staged.isEmpty && (a.sub2 == 0 || a.ended)

/-- The staged elements translated and stored, or counted as one error (R100); kept where one of them must wait. -/
def State.storeStaged (s : State) (core n : Nat) (a : Active) : State :=
  let q := s.storeToken core (Pattern.space a.cmd.blk) a a.staged
  q.1.putSlot core n (if q.2.2 then { q.2.1 with staged := [] } else q.2.1)

/-- The stream after a pairing, its staged elements stored where their token is complete. -/
def State.settleStage (s : State) (core n : Nat) (r : Crew × Active) : State :=
  let s1 := s.setCrew core r.1
  if r.2.stageDue then s1.storeStaged core n r.2 else s1.putSlot core n r.2

/-- One scatter element converted and staged; it is translated with the others of its token. -/
def State.scatterPair (s : State) (core n : Nat) (a : Active) (i d : Token) : State :=
  let b := a.cmd.blk
  let m := Pattern.mfmt b
  if i.kind = kindError ∨ d.kind = kindError ∨ i.poison = true then s.settleStage core n ((s.crew core).pairNext a)
  else
    let ea := indexedAddress b (indexValue b i.data a.sub1)
    let v := s.streamConvert core b (Pattern.tfmt b) m (dataValue b d.data a.sub2)
    let e : Staged := ⟨ea, bytesOf (memSize m) v, d.poison, if inWindow b ea then 0 else 0x01⟩
    s.settleStage core n ((s.crew core).pairNext { a with staged := a.staged ++ [e] })

/-- R98, R100, R105: one pair of a scatter, or another token of its inputs, handled. -/
def execScatterPair (core slot : Nat) (s : State) : Out :=
  .next (s.onSlot core slot .sct (fun a =>
    let w := s.crew core
    if a.stageDue then s.storeStaged core slot a
    else if a.ended ∨ w.tileHeld a = true then s
    else match w.pairOf a with
    | .wait => s
    | .pair i d => s.scatterPair core slot a i d
    | p => s.settleStage core slot (w.pairOther a p)))

/-! ### sm.upd (R88 to R91, R106) -/

/-- The new value of an update (R90). -/
def updateNew (uop m o : Nat) : Nat :=
  match uop with
  | 0 => (m + o) % 2 ^ 32
  | 1 => addFloat 6 m o
  | 2 => addFloat 7 m o
  | 3 => if sintOf 32 o < sintOf 32 m then o else m
  | 4 => if sintOf 32 m < sintOf 32 o then o else m
  | 5 => if o < m then o else m
  | 6 => if m < o then o else m
  | 7 => elFminmax false 6 false m o
  | 8 => elFminmax true 6 false m o
  | 9 => Nat.lor m o
  | 10 => Nat.land m o
  | _ => 1

/-- Bytes of an update's element. -/
def updateSize (u : Update) : Nat := memSize (uopFormat u.uop)

/-- An update applied at a place (R88, R90, R101): the old value and whether it is poisoned. DESIGN CHOICE, log 98. -/
def State.applyUpdate (s : State) (l : Loc) (u : Update) : State × Nat × Bool :=
  let size := updateSize u
  let m := ofBytes (s.bytesAt l size)
  if s.poisonedAt l size then (s, m, true)
  else if u.poison then (s.writeLoc l (bytesOf size m) true, m, true)
  else (s.writeLoc l (bytesOf size (updateNew u.uop m u.operand)) false, m, false)

/-- The stream's record of an update that has been applied: one fewer outstanding, and its return. -/
def Crew.updateDone (w : Crew) (u : Update) (old : Nat) (poison : Bool) : Crew :=
  match tfind w.streams.slots u.slot with
  | some a =>
    w.setSlot u.slot (({ a with outstanding := a.outstanding - 1 } : Active).deliver u.pos (some (returnToken a old u.pos u.ea poison)))
  | none => w

/-- What an applied update answers: its stream here, or the device it came from. -/
def State.updateAnswer (s : State) (u : Update) (old : Nat) (poison : Bool) : State :=
  match u.remote with
  | some (dev, seq) =>
    s.answerAtomic dev seq (atomicAnswer old poison 0 0)
  | none => s.modCrew u.core (fun w => w.updateDone u old poison)

/-- A failing element of an update stream: an error token in its return's place, counted (R100). -/
def State.updateError (s : State) (core n : Nat) (a : Active) (code : Nat) (ea : Int) : State :=
  let t := memoryError code (wrapInt 64 ea) a.cmd.strand
  let r := ((s.crew core).countError code).pairNext (a.deliver a.pos (some t))
  (s.setCrew core r.1).putSlot core n r.2

/-- The updates that a core's pool unit and a stack's unit hold at most (R88, R125). -/
def puuWindow : Nat := 64
def suuWindow : Nat := 256

/-- Is there room for another update in the pool unit of a core, and in the unit of a stack? -/
def State.puuRoom (s : State) (core : Nat) : Bool := decide ((s.crew core).puu.length < puuWindow)
def State.suuRoom (s : State) (stack : Nat) : Bool := decide ((tget s.suu stack []).length < suuWindow)

/-- An update sent to its point of execution, and its pair used (R106); it waits while that unit has no room. -/
def State.sendUpdate (s : State) (core n : Nat) (a : Active) (l : Loc) (pa : Nat) (ea : Int) (operand : Nat) (poison : Bool) : State :=
  let u : Update := ⟨.phys pa, Pattern.uop a.cmd.blk, operand, poison, core, n, a.pos, wrapInt 64 ea, none⟩
  let x := { a with outstanding := a.outstanding + 1, withheld := none }
  let go := fun (t : State) => let r := (t.crew core).pairNext x; (t.setCrew core r.1).putSlot core n r.2
  let s0 := s.dispatchEdge core a.cmd.strand l (updateSize u)
  match l with
  | .pool c q =>
    if s.puuRoom c then go (s0.modCrew c (fun w => { w with puu := w.puu ++ [{ u with addr := .sp q }] })) else s
  | .remote dev y =>
    if s.flowOpen dev clsAtomic then
      go (s0.send dev clsAtomic opUpdate y [u.uop, operand, b2n poison, core, n, a.pos, wrapInt 64 ea] [] (b2n poison) core)
    else s
  | _ =>
    let k := stackOf pa
    if s.suuRoom k then go { s0 with suu := tset s.suu k (tget s.suu k [] ++ [u]) } else s

/-- One pair of an update stream (R98, R99, R101, R106). Its address is translated in the cache of the stack that its bits [15:12] name (R81). -/
def State.updatePair (s : State) (core n : Nat) (a : Active) (i d : Token) : State :=
  let b := a.cmd.blk
  let next := fun (st : State) (x : Active) => let r := (st.crew core).pairNext x; (st.setCrew core r.1).putSlot core n r.2
  if i.kind = kindError ∨ d.kind = kindError then next s (a.deliver a.pos none)
  else if i.poison then next s (a.deliver a.pos (some (returnToken a 0 a.pos 0 true)))
  else
    let ea := indexedAddress b (indexValue b i.data a.sub1)
    if !(inWindow b ea) then s.updateError core n a 0x01 ea
    else
      let r := s.spot (64 + stackOf ea.toNat) core a.cmd.strand (16 + n) (Pattern.space b) ea (memSize (uopFormat (Pattern.uop b))) needUpdate
      match r.1 with
      | .broken c => let q := r.2.breakStream core a ea c; q.1.putSlot core n q.2
      | .wait => r.2.putSlot core n (s.withholdStream a ea)
      | .error c => r.2.updateError core n { a with withheld := none } c ea
      | .at (.host _) _ _ => r.2.updateError core n { a with withheld := none } 0x06 ea
      | .at l pa _ => r.2.sendUpdate core n a l pa ea (dataValue b d.data a.sub2) d.poison

/-- R98, R106: one pair of an update stream, or another token of its inputs, handled; a return that waits sent; after
the last return, the rank-7 stop that endstop asks for. In a save it runs on to a multiple of 4,096, and returns beyond its channel's space are kept
(R103, R348). -/
def execUpdatePair (core slot : Nat) (s : State) : Out :=
  .next (s.onSlot core slot .upd (fun a =>
    let w := s.crew core
    if Pattern.uop a.cmd.blk = 12 then s
    else if a.send ≠ [] ∧ ((a.send.head?.map (w.streamCanSend a)).getD false) = true then s.flushSlot core slot
    else if a.ended then
      (if a.closing ∧ a.outstanding = 0 ∧ a.returns = [] then
        (s.putSlot core slot { a with closing := false, send := a.send ++ [stopToken 7 a.cmd.strand] }).flushSlot core slot
       else s)
    else if w.tileHeld a then s
    else match w.pairOf a with
    | .wait => s
    | .pair i d => if w.streamCovers a (a.outstanding + a.returns.length + a.send.length) then s.updatePair core slot a i d else s
    | p => let r := w.pairOther a p; (s.setCrew core r.1).putSlot core slot r.2))

/-- The line of device HBM that a pending update names. -/
def lineOfUpdate (u : Update) : Nat := match u.addr with | .phys pa => pa / 128 | .sp a => a / 128

/-- Does an update v stand before a later update u of the same unit: to a byte of u's (R88, R89, R125), or of the same stream in the same granule (R307)? -/
def State.updateBefore (s : State) (core : Nat) (v u : Update) : Bool :=
  (s.bufLoc core v.addr).overlap (updateSize v) (s.bufLoc core u.addr) (updateSize u)
    || (v.core == u.core && v.slot == u.slot && v.remote.map (·.1) == u.remote.map (·.1)
      && (s.bufLoc core v.addr).granule == (s.bufLoc core u.addr).granule)

/-- The pending updates of a unit that may issue: those that no earlier one of the unit stands before. -/
def State.issuable (s : State) (core : Nat) : List Update → List Update → List Update
  | [], _ => []
  | u :: us, seen =>
    let later := s.issuable core us (seen ++ [u])
    if seen.any (fun v => s.updateBefore core v u) then later else u :: later

/-- The update that a unit issues next: any that may, as the turn's number chooses (R88). -/
def State.nextUpdate (s : State) (core : Nat) (l : List Update) : Option Update :=
  let c := s.issuable core l []
  (c.drop (s.cur.err % c.length)).head?

/-- A pending update of a stack's unit applied; the unit owns its line from then on. -/
def State.suuApply (s : State) (stack : Nat) : State :=
  match s.nextUpdate 0 (tget s.suu stack []) with
    | none => s
    | some u =>
      let pa := match u.addr with | .phys pa => pa | .sp a => a
      let line := pa / 128
      let owned := tget s.suuLines stack []
      let s1 := (({ s with
        suu := tset s.suu stack ((tget s.suu stack []).erase u)
        suuLines := if owned.any (fun x => x.1 == line) then s.suuLines else tset s.suuLines stack ((line, s.time) :: owned) } : State)).recall
          (128 * line) 128
      let r := s1.applyUpdate (s1.locOf pa) u
      r.1.updateAnswer u r.2.1 r.2.2

/-- R88, R89. -/
def execSuuUpdateApply (stack : Nat) (s : State) : Out := .next (s.suuApply stack)

/-- R88: a line that no pending update names, or that the unit has held for 2 µs, is given back. -/
def execSuuLineRelease (stack line : Nat) (s : State) : Out :=
  let owned := tget s.suuLines stack []
  let busy := (tget s.suu stack []).any (fun u => lineOfUpdate u == line)
  .next (match tfind owned line with
    | some t =>
      if !busy || decide (26000 ≤ s.time - t) then
        { s with suuLines := tset s.suuLines stack (owned.filter (fun x => x.1 != line)) }
      else s
    | none => s)

/-- A pending update of a core's pool unit applied. -/
def State.puuApply (s : State) (core : Nat) : State :=
  match s.nextUpdate core (s.crew core).puu with
    | none => s
    | some u =>
      let s1 := s.modCrew core (fun w => { w with puu := w.puu.erase u })
      let q := match u.addr with | .sp a => a | .phys pa => pa
      let r := s1.applyUpdate (.pool core q) u
      r.1.updateAnswer u r.2.1 r.2.2

/-- R125. -/
def execPuuUpdateApply (core : Nat) (s : State) : Out := .next (s.puuApply core)

/-! ### Hash-accumulate (R126) -/

/-- What a key came to. -/
inductive Hashed where
  | applied (s : State)
  | stop (code : Nat)

/-- The probes of a key from probe p on: N slots from base, h the hash. -/
def State.hashProbe (s : State) (core base n h key v : Nat) (poison : Bool) : Nat → Nat → Hashed
  | 0, _ => .stop 0x10
  | fuel + 1, p =>
    let l := Loc.pool core (base + 8 * ((h + p) % n))
    let k := ofBytes (s.bytesAt l 4)
    let m := ofBytes (s.bytesAt (l.plus 4) 4)
    if k = key then
      (if s.poisonedAt l 8 then .applied s
       else if poison then .applied (s.writeLoc (l.plus 4) (bytesOf 4 m) true)
       else .applied (s.writeLoc (l.plus 4) (bytesOf 4 (addFloat 6 m v)) false))
    else if k = 0xFFFFFFFF then
      (if s.poisonedAt l 8 then .applied s
       else .applied (s.writeLoc l (bytesOf 4 key ++ bytesOf 4 v) poison))
    else s.hashProbe core base n h key v poison fuel (p + 1)

/-- A key and a value applied to a table of 2^L slots (R126). -/
def State.hashApply (s : State) (core base n key v : Nat) (badKey badValue : Bool) : Hashed :=
  if key = 0xFFFFFFFF then .stop 0x11
  else if badKey then .stop 0x12
  else s.hashProbe core base n (key * 0x9E3779B1 % 2 ^ 32 / 2 ^ (32 - n.log2)) key v badValue 32 0

/-- The one token that a hash-accumulate sends at its end (R126). -/
def hashToken (a : Active) : Token :=
  match a.stopped with
  | some (code, n, key) => errorToken code n key a.cmd.strand
  | none => ⟨a.applied % 2 ^ 32, a.cmd.strand, kindCount, false⟩

/-- R126: the next key and value of a hash-accumulate applied, or after a stop discarded; then its one token, which the credit of a gated return channel covers
(R146). Updates of the table that the pool unit holds come first (R125). In a save it runs on to a multiple of 4,096 (R348). -/
def execHashApply (core slot : Nat) (s : State) : Out :=
  .next (s.onSlot core slot .upd (fun a =>
    let w := s.crew core
    let b := a.cmd.blk
    let next := fun (st : State) (x : Active) => let r := (st.crew core).pairNext x; (st.setCrew core r.1).putSlot core slot r.2
    if Pattern.uop b ≠ 12 then s
    else if a.send ≠ [] then s.flushSlot core slot
    else if a.ended then
      (if a.closing then (s.putSlot core slot { a with closing := false, send := [hashToken a] }).flushSlot core slot else s)
    else if w.tileHeld a || !(w.streamCredit a) then s
    else match w.pairOf a with
    | .wait => s
    | .pair i d =>
      if i.kind = kindError ∨ d.kind = kindError ∨ a.stopped ≠ none then next s a
      else if s.updatePending (.pool core (Pattern.base b)) (Pattern.wlen b) then s
      else
        let key := (indexValue b i.data a.sub1).toNat
        let s0 := s.dispatchEdge core a.cmd.strand (.pool core (Pattern.base b)) (Pattern.wlen b)
        (match s0.hashApply core (Pattern.base b) (Pattern.wlen b / 8) key (dataValue b d.data a.sub2) i.poison d.poison with
         | .applied s1 => next s1 { a with applied := a.applied + 1 }
         | .stop c => next s0 { a with stopped := some (c, a.pos, key) })
    | p => let r := w.pairOther a p; (s.setCrew core r.1).putSlot core slot r.2))

/-! ### The indirect-stream engine (R87, R107) -/

/-- The fields of an ISE block (Table 4.6). -/
def iseIndexAddress (b j : Nat) : Int := (blkAt b 0 8 : Int) + (j : Int) * blkInt b 0x14
def iseCount (b : Nat) : Nat := blkAt b 0x10 4
def iseEndstop (b : Nat) : Bool := (blkAt b 0x18 4).testBit 5
def iseIndex (b v : Nat) : Int :=
  let f := field (blkAt b 0x18 4) 1 0
  if f = 2 then sintOf 32 v else (v : Int)
def iseElement (b : Nat) (x : Int) : Int := (blkAt b 8 8 : Int) + x * (iseElemSize b : Int)
def iseInWindow (b : Nat) (ea : Int) : Bool :=
  decide ((blkAt b 8 8 : Int) ≤ ea) && decide (ea + (iseElemSize b : Int) ≤ (blkAt b 8 8 : Int) + (blkAt b 0x20 8 : Int))

/-- An element of an ISE request put into its tokens: small ones packed 32/size to a token, large ones over size/32
tokens; the last token closed and the rank-7 stop added at the end. -/
def Active.isePut (a : Active) (v : Nat) (poison : Bool) (err : Option Nat) (ea : Int) : Active :=
  let b := a.cmd.blk
  let size := iseElemSize b
  let last := a.pos + 1 == iseCount b
  let x : Active :=
    if size < 32 then
      let y := match err with | some c => a.failOut c ea | none => a.putOut (8 * size) v poison
      if y.outN = 32 / size ∨ last = true then y.closeOut else y
    else
      { a with send := a.send ++ (List.range (size / 32)).map (fun i => match err with
          | some c => memoryError c (wrapInt 64 ea) a.cmd.strand
          | none => ⟨v / 2 ^ (256 * i) % 2 ^ 256, a.cmd.strand, kindData, poison⟩) }
  { x with
    pos := a.pos + 1
    ended := last
    send := if last && iseEndstop b then x.send ++ [stopToken 7 a.cmd.strand] else x.send }

/-- The error tokens that an element of an ISE request makes, counted (R100). -/
def State.iseCountError (s : State) (core : Nat) (a : Active) (code : Nat) : State :=
  let size := iseElemSize a.cmd.blk
  if size < 32 then s.countMade core a code
  else (List.range (size / 32)).foldl (fun t _ => t.modCrew core (fun w => w.countError code)) s

/-- The next element of an ISE request (R87). The error token of a failed index read carries the address of the index: the element's is unknown
(DESIGN CHOICE, log 84). -/
def State.iseElementStep (s : State) (stack core n : Nat) (a : Active) : State :=
  let b := a.cmd.blk
  let ia := iseIndexAddress b a.pos
  let q := s.readElem (64 + stack) core n 0 a ia (iseIndexSize b)
  match q.1 with
  | .held => q.2.1.putSlot core n q.2.2
  | .error c => (q.2.1.iseCountError core a c).putSlot core n (q.2.2.isePut 0 false (some c) ia)
  | .value x p =>
    if p then q.2.1.putSlot core n (q.2.2.isePut 0 true none 0)
    else
      let ea := iseElement b (iseIndex b x)
      if !(iseInWindow b ea) then (q.2.1.iseCountError core a 0x01).putSlot core n (q.2.2.isePut 0 false (some 0x01) ea)
      else
        let r := q.2.1.readElem (64 + stack) core n 0 q.2.2 ea (iseElemSize b)
        match r.1 with
        | .held => r.2.1.putSlot core n r.2.2
        | .value v p2 => r.2.1.putSlot core n (r.2.2.isePut v p2 none ea)
        | .error c => (r.2.1.iseCountError core a c).putSlot core n (r.2.2.isePut 0 false (some c) ea)

/-- May the engine serve the next element of a request: its end has not come, its outputs' credit covers the element's tokens (R146), and fewer than 64 tokens wait
(R107); or the crew is being saved, and it runs on to a multiple of 4,096 (R103)? -/
def Crew.iseReady (w : Crew) (a : Active) : Bool :=
  a.cmd.op == .isx && !a.ended && a.broken.isNone
    && (if w.stopped then a.pos % 4096 != 0 else decide (a.send.length < 64))
    && (a.outN != 0 || w.streamCovers a (a.send.length + (iseElemSize a.cmd.blk / 32 - 1)))

/-- R87: the engine of a stack serves one element of the oldest of its 32 contexts that may go on; that request then stands behind the others. DESIGN CHOICE, log 105. -/
def execIseRequest (stack : Nat) (s : State) : Out :=
  let l := tget s.ise stack []
  let ready := fun (r : Nat × Nat) => (s.core r.1).held && (match tfind (s.crew r.1).streams.slots r.2 with
    | some a => (s.crew r.1).iseReady a
    | none => false)
  .next (match (l.take 32).find? ready with
    | some r =>
      let turned := (l.take 32).filter (fun x => x != r) ++ [r] ++ l.drop 32
      let s1 := { s with ise := tset s.ise stack turned }
      (match tfind (s1.crew r.1).streams.slots r.2 with
       | some a => s1.iseElementStep stack r.1 r.2 a
       | none => s1)
    | none => s)

/-- R87: the next token of a request enters the issuing core's channel. -/
def execIseTokenDeliver (core slot : Nat) (s : State) : Out :=
  .next (if (s.core core).held then
      (match tfind (s.crew core).streams.slots slot with
       | some a => if a.cmd.op = .isx then s.flushSlot core slot else s
       | none => s)
    else s)

/-! ### Completion (R102, R103, R109) -/

/-- Slot n freed: kills that waited for it go on (R109). -/
def Crew.freeSlot (w : Crew) (n : Nat) : Crew :=
  let w1 := { w with streams := { w.streams with slots := tdel w.streams.slots n } }
  let kills := w1.streams.kills.map (fun k => (setBit k.1 n false, k.2))
  let done := kills.filter (fun k => k.1 == 0)
  let w2 := { w1 with streams := { w1.streams with kills := kills.filter (fun k => k.1 != 0) } }
  done.foldl (fun u k => u.smDone k.2.2 k.2.1) w2

/-- A slot whose old-period command has completed: its markers on its outputs (R155). -/
def Crew.slotPassed (w : Crew) (n : Nat) (c : SmCmd) : Crew :=
  match w.graph.waves with
  | v :: rest =>
    if v.begun && smem v.slots n then
      let v' := { v with slots := sdel v.slots n }
      (({ w with graph := { w.graph with waves := v' :: rest } } : Crew).placeMarkers v' c.outs).settleSpills
    else w
  | [] => w

/-- R102: a stream command completes and signals; a killed one frees its slot without its signal. -/
def execStreamComplete (core slot : Nat) (s : State) : Out :=
  .next (if (s.core core).held then
      (match tfind (s.crew core).streams.slots slot with
       | some a =>
         if a.cmd.op != .isx && a.killed && !a.send.isEmpty then s.flushSlot core slot
         else if a.finished then
           let s1 := { s with ise := s.ise.map (fun (q : Nat × List (Nat × Nat)) => (q.1, q.2.filter (fun r => r != (core, slot)))) }
           s1.modCrew core (fun w =>
             let u := (w.freeSlot slot).slotPassed slot a.cmd
             if a.killed then u.closed a.cmd.strand else u.smDone a.cmd.strand a.cmd.sem)
         else s
       | none => s)
    else s)

end Sys2Proof.Machine
end

