-- ==== Sys2Proof/Machine/ArrayCommands.lean ====
section
/-!
DEFINITION. The dispatch of array commands (spec 07, R165 to R170, R177, R189 to R198): group words, blocks and their checks.
-/
namespace Sys2Proof.Machine
open Sys2Proof

/-! ### Groups (Tables 7.1, 7.2) -/

def Group.start (g : Group) : Nat := field g.word 13 0
def Group.len (g : Group) : Nat := field g.word 22 14
def Group.fmt (g : Group) : Nat := field g.word 25 23
def Group.depth (g : Group) : Nat := field g.word 27 26 + 1
def Group.map (g : Group) : Nat := field g.word 31 28
def Group.accbase (g : Group) : Nat := field g.word 47 32
def Group.rowtag (g : Group) : Nat := field g.word 55 48
def Group.sparse (g : Group) : Bool := g.word.testBit 56
def Group.keepwide (g : Group) : Bool := g.word.testBit 57

/-- Is a group format code an MX one? -/
def mxFmt (f : Nat) : Bool := decide (f < 4)
/-- The operand format code (Table 2.1) and the element bits of a group format code. -/
def fmtOperand (f : Nat) : Nat := if f < 4 then 13 + f else if f = 4 then 7 else 8
def fmtBits (f : Nat) : Nat := if f = 2 then 4 else if f < 4 then 8 else 16
/-- The longest row of a format (R194). -/
def fmtReach (f : Nat) : Nat := if f = 2 then 768 else if f < 4 then 384 else 96

/-- Stationary positions, and the cell of a position (Table 7.2). -/
def Group.positions (g : Group) : Nat := if g.fmt = 2 then 2 * g.len else if g.fmt < 4 then g.len else g.len / 4
def Group.cellOf (g : Group) (i : Nat) : Nat :=
  if g.fmt = 2 then 2 * g.start + i else if g.fmt < 4 then 2 * (g.start + i) else 2 * (g.start + 4 * i)

/-- Entries that one value of the group takes, and the entry of row j (R170). -/
def Group.width (g : Group) : Nat := if g.keepwide then 2 else 1
def Group.entry (g : Group) (j : Nat) : Nat := 8 * g.accbase + g.width * j
def Group.fedBy (g : Group) (ch : Nat) : Bool := g.feeds.testBit ch

/-- Active leaves of a core (R165). -/
def activeLeaves (core : Nat) : Nat := if sideOf core = 1 then 16384 else 8192

/-- The number of accumulator entries E (R115). -/
def accEntries (part : Nat) : Nat := accBytesOf part / (if accWide part then 8 else 4)
def Crew.accEntries (w : Crew) : Nat := Machine.accEntries w.info.part.toNat
def Crew.accWide (w : Crew) : Bool := Machine.accWide w.info.part.toNat

/-- Groups in ascending order of first. -/
def insertGroup (g : Group) : List Group → List Group
  | [] => [g]
  | h :: t => if g.start ≤ h.start then g :: h :: t else h :: insertGroup g t
def sortGroups (l : List Group) : List Group := l.foldr insertGroup []

/-! ### Dispatch -/

/-- BOUNDS at an accumulator entry (R189). -/
def entryBounds (e : Nat) : Refused := (causeBounds, e + 2 ^ 62)

/-- The lowest number at or above a limit of the ranges [lo, hi) of a list. -/
def lowestOutside (limit : Nat) (l : List (Nat × Nat)) : Option Nat :=
  l.foldl (fun m r =>
    if r.1 < r.2 ∧ limit < r.2 then
      (match m with
       | some v => some (Nat.min v (Nat.max r.1 limit))
       | none => some (Nat.max r.1 limit))
    else m) none

/-- An array command as the current strand dispatches it. -/
def State.arCmd (s : State) (op : ArOp) (a b blk : Nat) (groups : List Group) (f : Reg) : ArCmd :=
  let w := s.mine
  ⟨op, a, b, blk, groups, f.toNat, s.cur.strand, w.array.nextSeq, w.array.period, w.graph.period⟩

/-- The queue of an array command: 1 configuration, 2 feed, 3 drain (Table 7.4). -/
def ArOp.queue : ArOp → Nat
  | .carve => 1
  | .coop => 1
  | .mmap => 1
  | .wave => 1
  | .drain => 3
  | .chk => 3
  | _ => 2

def Array.queue (r : Array) (q : Nat) : List ArCmd := if q = 1 then r.cfgq else if q = 2 then r.feedq else r.drainq
def Array.setQueue (r : Array) (q : Nat) (l : List ArCmd) : Array :=
  if q = 1 then { r with cfgq := l } else if q = 2 then { r with feedq := l } else { r with drainq := l }
def Crew.setArray (w : Crew) (r : Array) : Crew := { w with array := r }

/-- Has the queue of a command no room (R177)? -/
def Crew.arFull (w : Crew) (op : ArOp) : Bool :=
  let depth := if op.queue = 1 then acDepth else if op.queue = 2 then afDepth else adDepth
  decide (depth ≤ (w.array.queue op.queue).length)

/-- A command put into its queue. -/
def Crew.pushAr (w : Crew) (c : ArCmd) : Crew :=
  let r := w.array
  let q := c.op.queue
  { w with array := { r.setQueue q (r.queue q ++ [c]) with nextSeq := r.nextSeq + 1 } }

/-- The dispatch of an array command: its checks give a refusal, or the command and the crew that notes it. -/
def State.dispatchAr (s : State) (op : ArOp) (g : Pred) (check : Except Refused (ArCmd × Crew)) : State :=
  if !(s.me.getP g) then s.complete 4
  else if s.mine.arFull op then s
  else match check with
    | .error r => s.refuse r
    | .ok p => (s.setMine (p.2.pushAr p.1)).complete 4

/-- The first refusal of a list of checks, or a command. -/
def accept {α : Type} (l : List (Bool × Refused)) (v : α) : Except Refused α :=
  match firstRefusal l with
  | some r => .error r
  | none => .ok v

def configAt (o : Nat) : Refused := (causeConfig, o)

/-! ### ar.carve (R190) -/

/-- R190 step 1 on one group word. -/
def groupWordOk (core : Nat) (wide : Bool) (entries v : Nat) : Bool :=
  let g : Group := ⟨v, 0⟩
  decide (v < 2 ^ 58) && decide (g.fmt ≤ 5) && decide (1 ≤ g.len) && decide (g.len ≤ 384)
    && (!(mxFmt g.fmt) || g.sparse || g.positions % 32 == 0)
    && (mxFmt g.fmt || (g.start % 4 == 0 && g.len % 4 == 0))
    && decide (g.start + g.len ≤ activeLeaves core)
    && !(g.keepwide && wide) && decide (8 * g.accbase < entries)

/-- Do two groups share a leaf? -/
def Group.meets (g h : Group) : Bool := decide (g.start < h.start + h.len) && decide (h.start < g.start + g.len)

/-- The enabled channels of a multicast map, as a mask. -/
def Crew.mapMask (w : Crew) (m : Nat) : Nat :=
  let v := (tget w.maps m 0).toNat
  (maskBits 8 (field v 47 40)).foldl (fun t i => setBit t (field v (5 * i + 4) (5 * i)) true) 0

/-- The index of the first group of a list that fails a test against those before it. -/
def firstBad (test : List Group → Group → Bool) : List Group → List Group → Nat → Option Nat
  | _, [], _ => none
  | seen, g :: gs, i => if test seen g then firstBad test (g :: seen) gs (i + 1) else some i

/-- The checks of R190; the groups in ascending order. -/
def Crew.checkCarve (w : Crew) (core : Nat) (words : List Nat) : Except Nat (List Group) :=
  let gs := words.map (fun v => (⟨v, w.mapMask (field v 31 28)⟩ : Group))
  let feeds := w.coming.array.feeds
  let one := firstBad (fun _ g => groupWordOk core w.accWide w.accEntries g.word) [] gs 0
  let two := firstBad (fun seen g => seen.all (fun h => !(g.meets h))) [] gs 0
  let three := firstBad (fun seen g => g.feeds != 0 && Nat.land g.feeds feeds == g.feeds
    && seen.all (fun h => Nat.land g.feeds h.feeds == 0 || h.fmt == g.fmt)) [] gs 0
  match one, two, three with
  | some i, _, _ => .error i
  | none, some i, _ => .error i
  | none, none, some i => .error i
  | none, none, none => .ok (sortGroups gs)

/-- R190: the group list read, checked and captured. -/
def State.checkArCarve (s : State) (a b f : Reg) : Except Refused (ArCmd × Crew) :=
  let w := s.mine
  let x := (s.me.getX a).toNat
  let n := (s.me.getX b).toNat
  if x % 8 ≠ 0 then .error (causeMisaligned, x)
  else if 1024 < n then .error configB
  else match if n = 0 then none else s.blockRefusal x 8 (8 * n) with
    | some r => .error r
    | none =>
      let words := (List.range n).map (fun i => ofBytes (s.dispatchBytes (x + 8 * i) 8))
      match w.checkCarve s.cur.core words with
      | .error i => .error (configAt (0x1000 + i))
      | .ok gs =>
        let h : Shadow := { w.coming with array := { w.coming.array with groups := gs } }
        .ok (s.arCmd .carve x n 0 gs f, { w with coming := h })

/-- R190. -/
def execArCarve (a b f : Reg) (g : Pred) (s : State) : Out := .next (s.dispatchAr .carve g (s.checkArCarve a b f))

/-! ### ar.mmap, ar.coop (R191) -/

/-- Is a drain port word well formed: bits above the ports and the channels of disabled ports zero? -/
def drainWordOk (v : Nat) : Bool :=
  decide (v < 2 ^ 24) && (List.range 4).all (fun i => v.testBit (6 * i + 5) || field v (6 * i + 4) (6 * i) == 0)

/-- The channels of a drain port word. -/
def drainChannels (v : Nat) : List Nat := (List.range 4).filterMap (portOf v)

/-- R191: the port word checked. -/
def State.checkArMmap (s : State) (a b f : Reg) : Except Refused (ArCmd × Crew) :=
  let w := s.mine
  let x := (s.me.getX a).toNat
  let p := (s.me.getX b).toNat
  let ports := drainChannels p
  let fed := maskBits 32 x
  let checks : List (Bool × Refused) :=
    [(decide (x < 2 ^ 32) && decide (fed.length ≤ 8), configA), (drainWordOk p, configB),
     (w.coming.array.groups.all (fun g => Nat.land g.feeds x == g.feeds), configA),
     (ports.all (fun c => !(x.testBit c)), configB), (ports.eraseDups.length == ports.length, configB)]
  match firstRefusal checks with
  | some r => .error r
  | none =>
    match w.firstConflict w.coming false keyArray [] fed, w.firstConflict w.coming true keyArray [] ports with
    | some c, _ => .error (causeChannel, c)
    | none, some c => .error (causeChannel, c)
    | none, none =>
      let h : Shadow := { w.coming with array := { w.coming.array with feeds := x, drains := p } }
      .ok (s.arCmd .mmap x p 0 [] f, { w with coming := h })

/-- R191. -/
def execArMmap (a b f : Reg) (g : Pred) (s : State) : Out := .next (s.dispatchAr .mmap g (s.checkArMmap a b f))

/-- Does a core of the issuing core's cluster run a crew of the same gang? -/
def State.sameGang (s : State) (core other : Nat) : Bool :=
  let i := (s.crew core).info
  (s.core other).held && (s.crew other).info.launch == i.launch && (s.crew other).info.gang == i.gang

/-- The cores that a co-operation mask names, ascending; a mask of 0 stands for the core alone (R168, R184). -/
def coopSet (core mask : Nat) : List Nat := if mask = 0 then [core] else (maskBits 8 mask).map (fun i => core / 8 * 8 + i)

/-- R191: the co-operation mask checked. -/
def State.checkArCoop (s : State) (a f : Reg) : Except Refused (ArCmd × Crew) :=
  let w := s.mine
  let x := (s.me.getX a).toNat
  let c := s.cur.core
  if x < 2 ^ 8 ∧ x.testBit (c % 8) = true ∧ (coopSet c x).all (s.sameGang c) = true then
    let h : Shadow := { w.coming with array := { w.coming.array with coop := x } }
    .ok (s.arCmd .coop x 0 0 [] f, { w with coming := h })
  else .error configA

/-- R191. -/
def execArCoop (a f : Reg) (g : Pred) (s : State) : Out := .next (s.dispatchAr .coop g (s.checkArCoop a f))

/-! ### ar.hold, ar.step (R192, R193) -/

/-- The groups of a rowtag in the plane of the current period. -/
def Crew.tagged (w : Crew) (tag : Nat) : List Group := w.now.array.groups.filter (fun g => g.rowtag == tag)

/-- What group number i of a hold reads: values, scales, coordinates, as ranges [lo, hi). -/
def holdRanges (blk i : Nat) (g : Group) : List (Nat × Nat) :=
  let v := blkAt blk 0 4 + i * blkAt blk 4 4
  let sc := blkAt blk 8 4 + i * blkAt blk 0xC 4
  let co := blkAt blk 0x10 4 + i * blkAt blk 0x14 4
  [(v, v + (g.positions * fmtBits g.fmt + 7) / 8)]
    ++ (if mxFmt g.fmt then [(sc, sc + blkAt blk 0x18 1)] else [])
    ++ (if g.sparse then [(co, co + 2 * g.positions)] else [])

/-- The ranges of every group of a hold, the first group being number i. -/
def holdReach (blk : Nat) : Nat → List Group → List (Nat × Nat)
  | _, [] => []
  | i, g :: gs => holdRanges blk i g ++ holdReach blk (i + 1) gs

/-- R192: the hold block read and checked; xb comes before the fields of the block, whose limits depend on the groups it names (DEDUCED, log 42). -/
def State.checkArHold (s : State) (a b f : Reg) : Except Refused (ArCmd × Crew) :=
  let w := s.mine
  let x := (s.me.getX a).toNat
  let tag := (s.me.getX b).toNat
  match s.blockRefusal x 32 32 with
  | some r => .error r
  | none =>
    let blk := ofBytes (s.dispatchBytes x 32)
    let gs := w.tagged tag
    let mx := gs.any (fun g => mxFmt g.fmt)
    let nsc := blkAt blk 0x18 1
    let checks : List (Bool × Refused) :=
      [(decide (tag < 2 ^ 8), configB), (mx || gs.isEmpty || blkAt blk 8 4 == 0, configAt 8), (gs.any Group.sparse || blkAt blk 0x10 4 == 0, configAt 0x10),
       (if mx then decide (1 ≤ nsc) && decide (nsc ≤ 24) else nsc == 0, configAt 0x18),
       (blkAt blk 0x19 7 == 0, configAt 0x19)]
    match firstRefusal checks, lowestOutside w.spSize (holdReach blk 0 gs) with
    | some r, _ => .error r
    | none, some v => .error (causeBounds, v)
    | none, none => .ok (s.arCmd .hold x tag blk gs f, w)

/-- R192. -/
def execArHold (a b f : Reg) (g : Pred) (s : State) : Out := .next (s.dispatchAr .hold g (s.checkArHold a b f))

/-- R193: the step checked. -/
def State.checkArStep (s : State) (a f : Reg) : Except Refused (ArCmd × Crew) :=
  let tag := (s.me.getX a).toNat
  if tag < 2 ^ 8 then .ok (s.arCmd .step tag 0 0 (s.mine.tagged tag) f, s.mine) else .error configA

/-- R193. -/
def execArStep (a f : Reg) (g : Pred) (s : State) : Out := .next (s.dispatchAr .step g (s.checkArStep a f))

/-! ### ar.feed (R194) -/

/-- The row format of a feed: that of the groups it feeds, or the one it names. -/
def feedFormat (gs : List Group) (rfmt : Nat) : Nat := match gs with | g :: _ => g.fmt | [] => rfmt - 1

/-- The fields of a feed command: channel, rows, K extent, first row. -/
def ArCmd.chan (c : ArCmd) : Nat := field c.a 4 0
def ArCmd.rows (c : ArCmd) : Nat := field c.a 31 16
def ArCmd.kext (c : ArCmd) : Nat := field c.b 9 0
def ArCmd.row0 (c : ArCmd) : Nat := field c.b 31 16
def ArCmd.rowFmt (c : ArCmd) : Nat := feedFormat c.groups (field c.a 7 5)

/-- R194: the feed checked. -/
def State.checkArFeed (s : State) (a b f : Reg) : Except Refused (ArCmd × Crew) :=
  let w := s.mine
  let x := (s.me.getX a).toNat
  let e := (s.me.getX b).toNat
  let ch := field x 4 0
  let rfmt := field x 7 5
  let gs := w.now.array.groups.filter (fun g => g.fedBy ch)
  let c := s.arCmd .feed x e 0 gs f
  let fmt := c.rowFmt
  let checks : List (Bool × Refused) :=
    [(decide (x < 2 ^ 32) && field x 15 8 == 0 && c.rows != 0 && w.now.array.feeds.testBit ch && rfmt != 7
        && (if gs.isEmpty then rfmt != 0 else rfmt == 0 || rfmt == fmt + 1), configA),
     (decide (e < 2 ^ 32) && field e 15 10 == 0 && c.kext != 0 && decide (c.kext ≤ fmtReach fmt)
        && (!(mxFmt fmt) || c.kext % 32 == 0) && gs.all (fun g => g.sparse || decide (c.kext ≤ g.positions)), configB)]
  match firstRefusal checks,
      lowestOutside w.accEntries (gs.map (fun g => (g.entry c.row0, g.entry (c.row0 + c.rows)))) with
  | some r, _ => .error r
  | none, some v => .error (entryBounds v)
  | none, none => .ok (c, w)

/-- R194. -/
def execArFeed (a b f : Reg) (g : Pred) (s : State) : Out := .next (s.dispatchAr .feed g (s.checkArFeed a b f))

/-! ### mx.run (R195) -/

/-- The fields of a tile block (Table 7.8). -/
structure Tile where
  abase : Nat
  ascale : Nat
  bbase : Nat
  bscale : Nat
  astride : Nat
  bstride : Nat
  m : Nat
  n : Nat
  k : Nat
  cbase : Nat
  cstride : Nat
  ctl : Nat
  deriving DecidableEq, Repr

def tileOf (b : Nat) : Tile where
  abase := blkAt b 0 4
  ascale := blkAt b 4 4
  bbase := blkAt b 8 4
  bscale := blkAt b 0xC 4
  astride := blkAt b 0x10 4
  bstride := blkAt b 0x14 4
  m := blkAt b 0x18 2
  n := blkAt b 0x1A 2
  k := blkAt b 0x1C 4
  cbase := blkAt b 0x20 4
  cstride := blkAt b 0x24 4
  ctl := blkAt b 0x28 4

def Tile.fmt (t : Tile) : Nat := field t.ctl 2 0
def Tile.keepwide (t : Tile) : Bool := t.ctl.testBit 3
def Tile.width (t : Tile) : Nat := if t.keepwide then 2 else 1
def Tile.ms (t : Tile) : Nat := 2 ^ field t.ctl 5 4
def Tile.ns (t : Tile) : Nat := 2 ^ field t.ctl 7 6
def Tile.ks (t : Tile) : Nat := 2 ^ field t.ctl 9 8
def Tile.parts (t : Tile) : Nat := t.ms * t.ns * t.ks
def Tile.mloc (t : Tile) : Nat := t.m / t.ms
def Tile.nloc (t : Tile) : Nat := t.n / t.ns
/-- Positions of a span, the slice of each core, and the positions that coop index c holds (R195). With more cores than positions
of the tree a slice is one position, so that the tree has a core for each (DEDUCED, log 77). -/
def Tile.npos (t : Tile) : Nat := if mxFmt t.fmt then t.k / 32 else t.k
def Tile.slice (t : Tile) : Nat := Nat.max 1 (2 ^ ceilLog2 t.npos / t.ks)
def Tile.ik (t : Tile) (c : Nat) : Nat := c % t.ks
def Tile.held (t : Tile) (c : Nat) : Nat := Nat.min t.slice (t.npos - t.ik c * t.slice)
/-- Bytes of a row slice of n positions. -/
def Tile.rowBytes (t : Tile) (n : Nat) : Nat := if mxFmt t.fmt then n * 32 * fmtBits t.fmt / 8 else 2 * n

/-- The scratchpad bytes that coop index c reads. -/
def Tile.reach (t : Tile) (c : Nat) : List (Nat × Nat) :=
  let n := t.held c
  let len := t.rowBytes n
  let rows := fun (base stride count : Nat) => (List.range count).map (fun i => (base + i * stride, base + i * stride + len))
  let scales := fun (base count : Nat) => if mxFmt t.fmt then [(base, base + count * n)] else []
  rows t.abase t.astride t.mloc ++ rows t.bbase t.bstride t.nloc ++ scales t.ascale t.mloc ++ scales t.bscale t.nloc

/-- The entries that coop index c accumulates into. -/
def Tile.entries (t : Tile) (c : Nat) : List (Nat × Nat) :=
  if t.ik c ≠ 0 then []
  else (List.range t.mloc).map (fun i => (t.cbase + i * t.cstride, t.cbase + i * t.cstride + t.width * t.nloc))

/-- The coop index of a core in a set (R184). -/
def coopIndex (core mask : Nat) : Nat := ((coopSet core mask).findIdx? (· == core)).getD 0

/-- R195: the tile block read and checked. -/
def State.checkMxRun (s : State) (a f : Reg) : Except Refused (ArCmd × Crew) :=
  let w := s.mine
  let x := (s.me.getX a).toNat
  match s.blockRefusal x 64 64 with
  | some r => .error r
  | none =>
    let blk := ofBytes (s.dispatchBytes x 64)
    let t := tileOf blk
    let mask := w.now.array.coop
    let c := coopIndex s.cur.core mask
    let checks : List (Bool × Refused) :=
      [(decide (1 ≤ t.m) && decide (t.m ≤ 256) && t.m % t.ms == 0, configAt 0x18),
       (decide (1 ≤ t.n) && decide (t.n ≤ 512) && t.n % t.ns == 0, configAt 0x1A),
       (decide (1 ≤ t.k) && decide (t.k ≤ 65536) && (!(mxFmt t.fmt) || t.k % 32 == 0), configAt 0x1C),
       (decide (t.width * t.nloc ≤ t.cstride), configAt 0x24),
       (decide (t.ctl < 2 ^ 10) && decide (t.fmt ≤ 5) && !(t.keepwide && w.accWide)
          && t.parts == (coopSet s.cur.core mask).length, configAt 0x28),
       (blkAt blk 0x2C 20 == 0, configAt 0x2C)]
    match firstRefusal checks, lowestOutside w.spSize (t.reach c), lowestOutside w.accEntries (t.entries c) with
    | some r, _, _ => .error r
    | none, some v, _ => .error (causeBounds, v)
    | none, none, some v => .error (entryBounds v)
    | none, none, none => .ok (s.arCmd .run x mask blk [] f, w)

/-- R195. -/
def execMxRun (a f : Reg) (g : Pred) (s : State) : Out := .next (s.dispatchAr .run g (s.checkMxRun a f))

/-! ### ar.zero (R196) -/

/-- R196: first entry and count checked. -/
def State.checkArZero (s : State) (a b f : Reg) : Except Refused (ArCmd × Crew) :=
  let w := s.mine
  let x := (s.me.getX a).toNat
  let n := (s.me.getX b).toNat
  let checks : List (Bool × Refused) :=
    [(decide (x < 2 ^ 20), configA), (decide (1 ≤ n) && decide (n ≤ 524288), configB)]
  match firstRefusal checks, lowestOutside w.accEntries [(x, x + n)] with
  | some r, _ => .error r
  | none, some v => .error (entryBounds v)
  | none, none => .ok (s.arCmd .zero x n 0 [] f, w)

/-- R196. DEDUCED, log 27. -/
def execArZero (a b f : Reg) (g : Pred) (s : State) : Out := .next (s.dispatchAr .zero g (s.checkArZero a b f))

/-! ### ar.drain (R197) -/

/-- The fields of a drain block (Table 7.9). -/
structure DrainBlock where
  ctl : Nat
  rowtag : Nat
  start : Nat
  nrows : Nat
  rowlen : Nat
  rowstride : Nat
  deriving DecidableEq, Repr

def drainOf (b : Nat) : DrainBlock := ⟨blkAt b 0 4, blkAt b 4 4, blkAt b 8 4, blkAt b 0xC 4, blkAt b 0x10 4, blkAt b 0x14 4⟩
def DrainBlock.port (d : DrainBlock) : Nat := field d.ctl 15 14
def DrainBlock.wide (d : DrainBlock) : Bool := d.ctl.testBit 13
def DrainBlock.endstop (d : DrainBlock) : Bool := d.ctl.testBit 12
def DrainBlock.rowstop (d : DrainBlock) : Bool := d.ctl.testBit 11
def DrainBlock.clear (d : DrainBlock) : Bool := d.ctl.testBit 10
def DrainBlock.check (d : DrainBlock) : Bool := d.ctl.testBit 9
def DrainBlock.tagMode (d : DrainBlock) : Bool := d.ctl.testBit 8
def DrainBlock.rm (d : DrainBlock) : Nat := field d.ctl 7 5
def DrainBlock.tfmt (d : DrainBlock) : Nat := field d.ctl 4 0

/-- The codes marked D in Table 2.1. -/
def isDrainFmt (c : Nat) : Bool := decide (c ≤ 11) || c == 17

/-- The entries of row r of a drain, each with whether it is read as f64 (R197). -/
def DrainBlock.row (d : DrainBlock) (gs : List Group) (wide : Bool) (r : Nat) : List (Nat × Bool) :=
  if d.tagMode then gs.map (fun g => (g.entry (d.start + r), wide || g.keepwide))
  else (List.range d.rowlen).map (fun i => (d.start + d.rowstride * r + (if d.wide then 2 else 1) * i, wide || d.wide))

/-- The ranges of entries that a drain reads, row by row. -/
def DrainBlock.reach (d : DrainBlock) (gs : List Group) : List (Nat × Nat) :=
  if d.tagMode then gs.map (fun g => (g.entry d.start, g.entry (d.start + d.nrows)))
  else (List.range d.nrows).map (fun r =>
    (d.start + d.rowstride * r, d.start + d.rowstride * r + (if d.wide then 2 else 1) * d.rowlen))

/-- R197: the drain block read and checked. -/
def State.checkArDrain (s : State) (a f : Reg) : Except Refused (ArCmd × Crew) :=
  let w := s.mine
  let x := (s.me.getX a).toNat
  match s.blockRefusal x 32 32 with
  | some r => .error r
  | none =>
    let blk := ofBytes (s.dispatchBytes x 32)
    let d := drainOf blk
    let gs := if d.tagMode then w.tagged d.rowtag else []
    let checks : List (Bool × Refused) :=
      [(decide (d.ctl < 2 ^ 16) && (portOf w.now.array.drains d.port).isSome && decide (d.rm ≤ 3) && isDrainFmt d.tfmt
          && !(d.wide && (d.tagMode || w.accWide)), configAt 0),
       (!(d.tagMode) || decide (d.rowtag < 2 ^ 8), configAt 4),
       (d.tagMode || !(d.wide) || d.start % 2 == 0, configAt 8),
       (decide (1 ≤ d.nrows) && decide (d.nrows ≤ 65536), configAt 0xC),
       (if d.tagMode then d.rowlen == 0 else decide (1 ≤ d.rowlen) && decide (d.rowlen ≤ 4096), configAt 0x10),
       (d.tagMode || !(d.wide) || d.rowstride % 2 == 0, configAt 0x14),
       (blkAt blk 0x18 8 == 0, configAt 0x18)]
    match firstRefusal checks with
    | some r => .error r
    | none =>
      match lowestOutside w.accEntries (d.reach gs) with
      | some v => .error (entryBounds v)
      | none => .ok (s.arCmd .drain x ((portOf w.now.array.drains d.port).getD 0) blk gs f, w)

/-- R197. -/
def execArDrain (a f : Reg) (g : Pred) (s : State) : Out := .next (s.dispatchAr .drain g (s.checkArDrain a f))

/-! ### ar.chk (R198) -/

/-- R198: the address and the mode checked. -/
def State.checkArChk (s : State) (a b f : Reg) : Except Refused (ArCmd × Crew) :=
  let x := (s.me.getX a).toNat
  let v := (s.me.getX b).toNat
  if x % 64 ≠ 0 then .error (causeMisaligned, x)
  else if s.mine.spSize < x + 64 then .error (causeBounds, Nat.max x s.mine.spSize)
  else if 2 ≤ v then .error configB
  else .ok (s.arCmd .chk x v 0 [] f, s.mine)

/-- R198. -/
def execArChk (a b f : Reg) (g : Pred) (s : State) : Out := .next (s.dispatchAr .chk g (s.checkArChk a b f))

end Sys2Proof.Machine
end

