-- ==== Sys2Proof/Machine/Health.lean ====
section
/-!
DEFINITION. Check failures, replays, spare leaves and the margin governor (spec 07, R185, R186; spec 13, R359, R363).
-/
namespace Sys2Proof.Machine
open Sys2Proof

def State.health (s : State) (core : Nat) : CoreHealth := tget s.sys.health core emptyHealth
def State.setHealth (s : State) (core : Nat) (h : CoreHealth) : State :=
  { s with sys := { s.sys with health := tset s.sys.health core h } }

/-- Is a core out of service: a unit of kind 2 to 5 failed its transit test (R362)? -/
def CoreHealth.out (h : CoreHealth) : Bool := h.failing.any (fun u => decide (2 ≤ u / 4096))

/-- Units of 1/13 ns in a millisecond and in ten minutes. -/
def unitsMs : Nat := 13000000
def unitsTenMin : Nat := 7800000000000

/-- Leaves of a core served by spares, and spares still free (Table 7.3). -/
def State.sparedCount (s : State) (core : Nat) : Nat := (s.health core).spared.length
def State.spareCount (s : State) (core : Nat) : Nat := activeLeaves core / 64 - s.sparedCount core

/-- A pending leaf moved to its block's spare, whose failures are then its own, or found without one (R186, Table 13.5). -/
def State.spareMove (s : State) (core leaf : Nat) : State :=
  let h := s.health core
  let block := leaf / 64
  if smem h.pending leaf then
    if h.spared.any (fun x => x.1 / 64 == block) then
      (s.setHealth core { h with pending := sdel h.pending leaf, exhausted := sadd h.exhausted leaf }).rasCrew 4 core ⟨leaf, block, 0, 0⟩
    else
      (s.setHealth core { h with pending := sdel h.pending leaf, spared := tset h.spared leaf block, fails := tdel h.fails leaf }).rasCrew 3 core
        ⟨leaf, block, 0, 0⟩
  else s

/-- Every pending leaf of a core moved: at a terminator passage, a save or a restore (R359). -/
def State.spareMoves (s : State) (core : Nat) : State := (s.health core).pending.foldl (fun t l => t.spareMove core l) s

/-- A failure of a leaf noted: with the third within 1 ms the leaf is pending (R359). -/
def State.noteFailure (s : State) (core leaf : Nat) : State :=
  let h := s.health core
  let times := s.time :: (tget h.fails leaf []).filter (fun t => decide (s.time < t + unitsMs))
  let pend := decide (3 ≤ times.length) && !(smem h.exhausted leaf)
  s.setHealth core { h with
    fails := tset h.fails leaf times
    pending := if pend then sadd h.pending leaf else h.pending }

/-- Is an undervolt offset in place on a core: not in twilight (R376), and not once withdrawn (R363)? -/
def State.carriesOffset (s : State) (core : Nat) : Bool := s.sys.service == 2 && Config.undervolt core && !(s.health core).barred

/-! ### The margin governor (R363) -/

/-- A record of the margin governor for a core, and for its crew where it has one. -/
def State.rasCore (s : State) (kind core : Nat) (f : RasFields) : State :=
  if (s.core core).held then s.rasCrew kind core f else s.rasLog kind core 0 f

/-- The corrected errors of a unit that the sliding window still holds. -/
def State.corrected (s : State) (core unit : Nat) : List (Nat × Nat) :=
  (tget (s.health core).counts unit []).filter (fun e => decide (s.time < e.1 + unitsTenMin))

/-- A unit made predictive-failing: a leaf block's failing leaves go to pending, a bank's failing rows wait for spare rows. -/
def CoreHealth.predict (h : CoreHealth) (unit : Nat) (errs : List (Nat × Nat)) : CoreHealth :=
  let leaves := (h.fails.filter (fun x => x.1 / 64 == unit % 4096 && !x.2.isEmpty && !(smem h.exhausted x.1))).map (·.1)
  let rows := (errs.map (fun e => 1024 * (unit % 4096) + e.2)).filter (fun r => !(smem h.rowsSpared r))
  { h with
    predicted := sadd h.predicted unit
    pending := if unit / 4096 = 1 then leaves.foldl sadd h.pending else h.pending
    rows := if unit / 4096 = 4 then rows.foldl sadd h.rows else h.rows }

/-- The steps of R363 for a unit whose count has reached the threshold: with an undervolt offset in place the offset is withdrawn and the
count restarts; with none the unit becomes predictive-failing, once for each time the count reaches it. DESIGN CHOICE, log 25. -/
def State.judgeUnit (s : State) (core unit : Nat) : State :=
  let h := s.health core
  let errs := s.corrected core unit
  if errs.length < s.sys.threshold then s.setHealth core { h with predicted := sdel h.predicted unit }
  else if smem h.predicted unit then s
  else if s.carriesOffset core then
    (s.setHealth core { h with counts := tset h.counts unit [], barred := true }).rasCore 9 core ⟨core, errs.length, unit / 4096, 0⟩
  else (s.setHealth core (h.predict unit errs)).rasCore 8 core ⟨unit % 4096, errs.length, unit / 4096, 0⟩

/-- A corrected error of a unit counted by the margin governor. -/
def State.noteUnit (s : State) (core unit row : Nat) : State :=
  let h := s.health core
  let before := s.corrected core unit
  (s.setHealth core { h with
    counts := tset h.counts unit ((s.time, row) :: before)
    predicted := if before.length < s.sys.threshold then sdel h.predicted unit else h.predicted }).judgeUnit core unit

/-- n corrected errors of a unit. -/
def State.noteUnits (s : State) (core unit : Nat) : Nat → State
  | 0 => s
  | n + 1 => (s.noteUnit core unit 0).noteUnits core unit n

/-- n replays of a leaf's block and of a vector element, each of a mismatch and so a corrected error (R363; R381, note b; DESIGN CHOICE, log 78), and a corrected
error of an SRAM bank. -/
def State.noteCorrected (s : State) (core leaf n : Nat) : State := s.noteUnits core (4096 * 1 + leaf / 64) n
def State.noteElement (s : State) (core e n : Nat) : State := s.noteUnits core (4096 * 2 + e) n
def State.noteBank (s : State) (core bank row : Nat) : State := s.noteUnit core (4096 * 4 + bank) row

/-- Every unit of the device that has counted an error judged again: a lowered threshold may have been reached. -/
def State.judgeAll (s : State) : State :=
  s.sys.health.foldl (fun t h => h.2.counts.foldl (fun u c => u.judgeUnit h.1 c.1) t) s

/-! ### SRAM banks (R363) -/

/-- Spare rows of a bank. -/
def spareRows : Nat := 16

/-- Rows of a bank that spare rows serve. -/
def CoreHealth.rowsUsed (h : CoreHealth) (bank : Nat) : Nat := (h.rowsSpared.filter (fun r => r / 1024 == bank)).length

/-- A failing row mapped to a spare row of its bank; with the last one used up, the bank counts as having failed a transit test. -/
def CoreHealth.mapRow (h : CoreHealth) (r : Nat) : CoreHealth :=
  let g : CoreHealth := { h with
    rows := sdel h.rows r
    rowsSpared := if h.rowsUsed (r / 1024) < spareRows then sadd h.rowsSpared r else h.rowsSpared }
  if g.rowsUsed (r / 1024) < spareRows then g else { g with failing := sadd g.failing (4096 * 4 + r / 1024) }

/-- Every failing row of a core mapped: at a save or a terminator passage. -/
def State.mapRows (s : State) (core : Nat) : State :=
  let h := s.health core
  if h.rows.isEmpty then s else s.setHealth core (h.rows.foldl CoreHealth.mapRow h)

/-- An SRAM error that the environment reports as corrected. DESIGN CHOICE, log 45. -/
def State.bankError (s : State) (core bank row : Nat) : State :=
  if core < Config.coreCount ∧ bank < 64 ∧ row < 1024 then s.noteBank core bank row else s

/-- An uncorrectable error marks its granule poisoned (R86). -/
def State.memoryError (s : State) (core : Option Nat) (granule : Nat) : State :=
  match core with
  | none => if 32 * granule < 2 ^ 40 then { s with hbmPoison := sadd s.hbmPoison granule } else s
  | some c =>
    if (s.core c).held ∧ 32 * granule < Config.poolBytes then s.modCrew c (fun w => { w with poolPoison := sadd w.poolPoison granule }) else s

/-- R363: firmware sets the threshold from 1 to 255. -/
def State.setThreshold (s : State) (n : Nat) : State :=
  if 1 ≤ n ∧ n ≤ 255 then ({ s with sys := { s.sys with threshold := n } } : State).judgeAll else s

/-! ### Verdicts (R185, R221) -/

/-- What comes of an execution that was checked: it counts, it is replayed, or its fourth replay in a row has failed. -/
inductive Verdict where
  | pass | replay | poison
  deriving DecidableEq, Repr

/-- The verdict on an execution, from whether its checks passed and the mismatches in a row before it (R185, R221). DEDUCED, log 24. -/
def verdict (ok : Bool) (fails : Nat) : Verdict := if ok then .pass else if fails < 4 then .replay else .poison

/-- A check failure whose replay has ended counted in csr_ras (R185, R198). -/
def Crew.countCheck (w : Crew) : Crew := w.addRas 0 1

/-- A check failure of a leaf or stage of the array whose replay has ended (R185): checkfail, csr_ras and the leaf's record. -/
def State.leafReplayed (s : State) (core leaf : Nat) : State :=
  (s.modCrew core (fun w =>
    let u := w.countCheck
    { u with array := { u.array with checkfail := bump32 u.array.checkfail 1 } })).noteFailure core leaf

end Sys2Proof.Machine
end

