-- ==== Sys2Proof/Machine/ArrayWork.lean ====
section
/-!
DEFINITION. What the array does (spec 07, R166 to R198; spec 02, R32 to R43): firing leaves, spans and their accumulation,
holds, steps, moving rows, tile products and their combination, drains, completion.
-/
namespace Sys2Proof.Machine
open Sys2Proof

/-! ### Cells (R166, R171) -/

/-- The K position that a slot holds before any hold has filled it: none. -/
def noPosition : Nat := 65536
def emptySlot : Slot := ⟨0, 0, noPosition, false, false, false⟩
def freshCell (depth : Nat) : Cell := ⟨List.replicate depth emptySlot, 0, none, [], 0⟩

def Array.cell (r : Array) (key depth : Nat) : Cell := tget r.cells key (freshCell depth)
def Array.setCell (r : Array) (key : Nat) (c : Cell) : Array := { r with cells := tset r.cells key c }

/-- Slot cur. -/
def Cell.slot (c : Cell) : Slot := c.ring.getD c.cur emptySlot
/-- The place of the first empty slot, searching from cur. -/
def Cell.room (c : Cell) : Option Nat :=
  (List.range c.ring.length).find? (fun i => !((c.ring.getD ((c.cur + i) % c.ring.length) emptySlot).full))
    |>.map (fun i => (c.cur + i) % c.ring.length)
/-- A slot loaded into the first empty place (R192). -/
def Cell.load (c : Cell) (sl : Slot) : Cell := match c.room with | some i => { c with ring := c.ring.set i sl } | none => c
/-- cur retired and advanced (R193); the slot keeps its K position. -/
def Cell.step (c : Cell) : Cell :=
  { c with
    ring := c.ring.set c.cur { c.slot with full := false, absent := false, poison := false }
    cur := (c.cur + 1) % c.ring.length }
/-- Is the latched operand met by a full slot cur? -/
def Cell.met (c : Cell) : Bool := c.latch.isSome && c.slot.full
/-- Does the leaf fire next? -/
def Cell.fires (c : Cell) : Bool := match c.latch with | some m => c.slot.full && c.slot.kpos == m.kpos | none => false
/-- The latched operand that slot cur turns away, holding another K position: a slot that has been emptied keeps its own (R166, R171). -/
def Cell.dropped (c : Cell) : Option Nat :=
  match c.latch with | some m => if c.slot.kpos != m.kpos && c.slot.kpos != noPosition then some m.span else none | none => none

/-! ### Spans (R173) -/

def Array.modSpan (r : Array) (id : Nat) (f : Span → Span) : Array :=
  { r with spans := r.spans.map (fun x => if x.id = id then f x else x) }
/-- One latched operand fewer in a span. -/
def Array.release (r : Array) (id : Nat) : Array := r.modSpan id (fun x => { x with pending := x.pending - 1 })
/-- A cell stored after slot cur has changed, its latched operand dropped where it no longer matches. -/
def Array.settleCell (r : Array) (key : Nat) (c : Cell) : Array :=
  match c.dropped with
  | some id => (r.setCell key { c with latch := none }).release id
  | none => r.setCell key c
def Crew.orArrayFlags (w : Crew) (f : FlagSet) : Crew := { w with array := { w.array with flags := w.array.flags ||| f } }

/-! ### Firing (R166, R167, R172, R185, R41, R43) -/

/-- The magnitude of an operand's significand. -/
def significand (code x : Nat) : Nat := match (if 13 ≤ code then mxElem code x else numOf code x) with | .fin _ m _ => m | _ => 0

/-- Do the checks of a product pass, with an error added to it: the residue check, and under dual fire the comparison with the
second firing? -/
def firingOk (dual : Bool) (code a b err : Nat) : Bool :=
  let ma := significand code a
  let mb := significand code b
  residueOk ma mb (ma * mb + err) && (!dual || dualFireOk (ma * mb + err) (2 * ma * (2 * mb)))

/-- Does the crew run under dual fire (csr_mode bit 0)? -/
def Crew.dualFire (w : Crew) : Bool := w.info.mode.getLsbD 0

/-- Do all the checks of a leaf's product pass, with a physical error in it: bit 0 of the error is one copy of its sign, the rest is added to the
product (R41, R43)? -/
def leafOk (dual : Bool) (code a b err : Nat) : Bool :=
  signsOk (negOf (productOf code a b 0)) (err.testBit 0) && firingOk dual code a b (err / 2)

/-- A firing that counts: the pair joins its span unless the slot was loaded absent; the latch empties and the history keeps it. DESIGN CHOICE, log 101. -/
def Array.fire (r : Array) (key : Nat) (c : Cell) (m : Moving) (err : Nat) : Array :=
  let sl := c.slot
  let c1 : Cell := { c with latch := none, history := ((sl, m) :: c.history).take 4, fails := 0 }
  ((r.setCell key c1).modSpan m.span (fun x =>
    if sl.absent then x
    else { x with
      pairs := tset x.pairs m.kpos ⟨sl.value, m.value, sl.scale, m.scale, err⟩
      poison := x.poison || sl.poison || m.poison })).release m.span

/-- The operand format code and entry of the span with a number. -/
def Array.spanInfo (r : Array) (id : Nat) : Nat × Nat := match r.spans.find? (fun x => x.id == id) with | some x => (x.fmt, x.entry) | none => (13, 0)

/-- R166, R185: a leaf whose latch and slot cur match multiplies the pair; `err` is a physical error in the product. -/
def State.leafFire (s : State) (core key err : Nat) : State :=
  let w := s.crew core
  match tfind w.array.cells key with
  | none => s
  | some c =>
    match c.latch with
    | none => s
    | some m =>
      if !c.fires then s
      else
        let info := w.array.spanInfo m.span
        let ok := c.slot.absent || leafOk w.dualFire info.1 c.slot.value m.value err
        match verdict ok c.fails with
        | .pass =>
          let s1 := s.setCrew core { w with array := w.array.fire key c m (err / 2) }
          if c.fails = 0 then s1 else (s1.leafReplayed core (key / 2)).noteCorrected core (key / 2) c.fails
        | .replay => (s.setCrew core { w with array := w.array.setCell key { c with fails := c.fails + 1 } }).spareMove core (key / 2)
        | .poison =>
          let r := ((w.array.setCell key { c with latch := none, fails := 0 }).modSpan m.span (fun x => { x with poison := true })).release m.span
          (((s.setCrew core { w with array := r }).leafReplayed core (key / 2)).noteCorrected core (key / 2) c.fails).rasCrew 5 core ⟨info.2, key / 2, 0, 0⟩

/-- R166. -/
def execLeafFire (core cell err : Nat) (s : State) : Out := .next (if (s.core core).held then s.leafFire core cell err else s)

/-! ### Entries (R115, R170, R175, R196) -/

/-- Bytes of an entry; the pool byte of entry e. -/
def Crew.entryBytes (w : Crew) : Nat := if w.accWide then 8 else 4
def Crew.entryAt (w : Crew) (e : Nat) : Nat := w.spSize + w.entryBytes * e
/-- The value of an entry, or of a pair of entries read as f64. -/
def Crew.entryValue (w : Crew) (wide : Bool) (e : Nat) : Nat := mnat w.pool (w.entryAt e) (if wide then 8 else 4)
def Crew.putEntryValue (w : Crew) (wide : Bool) (e v : Nat) : Crew :=
  ({ w with pool := mput w.pool (w.entryAt e) (if wide then 8 else 4) v } : Crew).wrote (w.entryAt e) 8
/-- Entries that a value read as f64 takes. -/
def Crew.entrySpan (w : Crew) (wide : Bool) : Nat := if wide && !w.accWide then 2 else 1
def Crew.entryPoisoned (w : Crew) (wide : Bool) (e : Nat) : Bool := (List.range (w.entrySpan wide)).any (fun i => smem w.array.accPoison (e + i))
/-- n entries cleared, with their marks. -/
def Crew.clearEntries (w : Crew) (e n : Nat) : Crew :=
  ({ w with
    pool := mclear w.pool (w.entryAt e) (w.entryAt (e + n))
    array := { w.array with accPoison := w.array.accPoison.filter (fun x => decide (x < e) || decide (e + n ≤ x)) } } : Crew).wrote (w.entryAt e)
      (w.entryBytes * n)
/-- An entry marked poisoned, counted if it was not. DEDUCED, log 23. -/
def Crew.poisonEntry (w : Crew) (wide : Bool) (e : Nat) : Crew :=
  if w.entryPoisoned wide e then w
  else { w with array := { w.array with
    accPoison := saddN w.array.accPoison e (w.entrySpan wide)
    poisoned := bump32 w.array.poisoned 1 } }

/-! ### The order of commands that touch an entry (R179) -/

def hits (l : List (Nat × Nat)) (e : Nat) : Bool := l.any (fun r => decide (r.1 ≤ e) && decide (e < r.2))

/-- The entries that a feed-queue command accumulates into or clears. -/
def ArCmd.touches (c : ArCmd) (core : Nat) : List (Nat × Nat) :=
  match c.op with
  | .feed => c.groups.map (fun g => (g.entry c.row0, g.entry (c.row0 + c.rows)))
  | .run => (tileOf c.blk).entries (coopIndex core c.b)
  | .zero => [(c.a, c.a + c.b)]
  | _ => []

/-- Is some feed-queue command that touches entry e, dispatched before number seq, still to complete (R179, R382)? One that has entered all its rows counts until
its last span is accumulated. -/
def Crew.feedTouches (w : Crew) (core seq e : Nat) : Bool :=
  (w.array.feedq ++ w.array.feeding).any (fun c => decide (c.seq < seq) && hits (c.touches core) e)

/-- Has a drain, at value `sent` of row `row`, still to read entry e? -/
def ArCmd.reads (c : ArCmd) (wide keep : Bool) (row sent e : Nat) : Bool :=
  let d := drainOf c.blk
  c.op == .drain && (List.range (d.nrows - row)).any (fun i =>
    let vs := (d.row c.groups wide (row + i)).drop (if i = 0 then sent else 0)
    vs.any (fun v => decide (v.1 ≤ e) && decide (e < v.1 + (if v.2 && keep then 2 else 1))))

/-- Has some drain dispatched before number seq still to read entry e? -/
def Crew.drainReads (w : Crew) (seq e : Nat) : Bool :=
  let r := w.array
  let keep := !w.accWide
  match r.drainq with
  | [] => false
  | c :: rest =>
    (decide (c.seq < seq) && !r.drained && c.reads w.accWide keep r.drainPos.row r.drainPos.sent e)
      || rest.any (fun d => decide (d.seq < seq) && d.reads w.accWide keep 0 0 e)

/-! ### Accumulation (R32 to R38, R173 to R175) -/

/-- The pairs of block p of a span, and their products. -/
def Span.blockPairs (x : Span) (p : Nat) : List Pair := (x.pairs.filter (fun q => q.1 / 32 == p)).map (·.2)
def Span.blockProducts (x : Span) (p : Nat) : List Num := (x.blockPairs p).map (fun q => productOf x.fmt q.a q.b q.err)

/-- The value of a position of a span, and its flags; `err` gives the errors of the block sums. -/
def Span.value (x : Span) (err : Nat → Nat) (p : Nat) : Option Nat × FlagSet :=
  if 13 ≤ x.fmt then
    match x.blockPairs p with
    | [] => (none, 0)
    | q :: _ => blockResult q.sa q.sb (x.blockProducts p) (err p)
  else match tfind x.pairs p with
    | some q => (some (elemProduct x.fmt q.a q.b q.err), 0)
    | none => (none, 0)

/-- Is position p formed: is its operand pair there, or every pair of its block? -/
def Span.formed (x : Span) (p : Nat) : Bool :=
  if 13 ≤ x.fmt then decide ((x.blockPairs p).length = 32) else (tfind x.pairs p).isSome

/-- The formed nodes not yet combined in the subtree of 2^k positions from lo on, which is node n of the tree (the root is 1): the largest subtrees whose positions are
all formed, with their values (R39). -/
def Span.nodes (x : Span) : Nat → Nat → Nat → List (Nat × Nat)
  | 0, n, lo => if x.formed lo then ((x.value (fun _ => 0) lo).1.map (fun v => (n, v))).toList else []
  | k + 1, n, lo =>
    if (List.range (2 ^ (k + 1))).all (fun i => decide (x.npos ≤ lo + i) || x.formed (lo + i)) then
      ((treeSum (fun p => if p < x.npos then (x.value (fun _ => 0) p).1 else none) (k + 1) lo).1.map (fun v => (n, v))).toList
    else x.nodes k (2 * n) lo ++ x.nodes k (2 * n + 1) (lo + 2 ^ k)

/-- The span result and the flags of steps 2 and 3. -/
def Span.result (x : Span) (err : Nat → Nat) : Option Nat × FlagSet :=
  let t := spanSum (fun p => (x.value err p).1) x.npos
  (t.1, t.2 ||| orFlagsTo (fun p => (x.value err p).2) x.npos)
where
  /-- the union of the flags of positions below n -/
  orFlagsTo (f : Nat → FlagSet) : Nat → FlagSet
    | 0 => 0
    | n + 1 => orFlagsTo f n ||| f n

/-- A physical error in the stages of a span (log 45): bit 0 is a mismatch of the doubled f64 stages, which outside the MX formats are the only
ones; the rest names a block and what is added to its sum. -/
def Span.blockError (x : Span) (err p : Nat) : Nat :=
  if 13 ≤ x.fmt ∧ err / 2 % Nat.max 1 x.npos = p then err / 2 / Nat.max 1 x.npos else 0

/-- Do the checks of the block adders and of the doubled stages pass (R41 to R43)? -/
def Span.stagesOk (x : Span) (dual : Bool) (err : Nat) : Bool :=
  !(err.testBit 0) && (if 13 ≤ x.fmt then (let p := err / 2 % Nat.max 1 x.npos; blockAdderOk dual (x.blockProducts p) (x.blockError err p)) else err == 0)

/-- A result accumulated once into its entry (R35, R175). -/
def Crew.accumulateEntry (w : Crew) (code e : Nat) (poison : Bool) (v : Option Nat) : Crew :=
  let wide := code == 17
  if w.entryPoisoned wide e then w
  else if poison then w.poisonEntry wide e
  else match v with
    | none => w
    | some x =>
      let r := accumulate code (w.entryValue wide e) x
      (w.putEntryValue wide e r.1).orArrayFlags r.2

/-- Has an entry no earlier span or zero before span number i of the list, and no earlier drain to read it? -/
def Crew.mayAccumulate (w : Crew) (x : Span) (before : List Span) : Bool :=
  let n := w.entrySpan (x.code == 17)
  x.slice.isSome ||
    (before.all (fun y => y.slice.isSome || decide (y.entry + w.entrySpan (y.code == 17) ≤ x.entry) || decide (x.entry + n ≤ y.entry))
      && (List.range n).all (fun i => !(w.drainReads x.seq (x.entry + i))
        && w.array.feeding.all (fun c => c.op != .zero || !(decide (c.seq < x.seq)) || !(hits (c.touches 0) (x.entry + i)))))

/-- The first complete span of the group that starts at a leaf, with the spans before it. -/
def findSpan (leaf : Nat) : List Span → List Span → Option (Span × List Span)
  | _, [] => none
  | before, x :: xs => if x.first = leaf then (if x.closed && x.pending == 0 then some (x, before) else none) else findSpan leaf (x :: before) xs

/-- The core that joins the slices of a core's part of a tile: the one of its K group with ik 0 (R195). -/
def combineCore (core mask ks : Nat) : Nat :=
  let c := coopIndex core mask
  (coopSet core mask).getD (c - c % ks) core

/-- A slice result accepted by the combine stage (R36, R195). -/
def State.acceptSlice (s : State) (core key : Nat) (v : Option Nat) (poison : Bool) : State :=
  s.modCrew core (fun w => { w with array := { w.array with slices := tset w.array.slices key (v, poison) } })

/-- The co-operation mask and K split of the run at the head of the feed queue. -/
def Array.runSplit (r : Array) : Nat × Nat := match r.feedq with | c :: _ => (c.b, (tileOf c.blk).ks) | [] => (0, 1)

/-- R35, R42: a complete span of the group that starts at the cell's leaf is accumulated, or its slice result goes to the combine stage; `err` is a
physical error in its stages. A mismatch is charged to the group's first leaf (DESIGN CHOICE, log 79). -/
def State.spanAccumulate (s : State) (core leaf err : Nat) : State :=
  let w := s.crew core
  match findSpan leaf [] w.array.spans with
  | none => s
  | some (x, before) =>
    if !(w.mayAccumulate x before) then s
    else match verdict (x.stagesOk w.dualFire err) x.fails with
      | .replay => (s.setCrew core { w with array := w.array.modSpan x.id (fun y => { y with fails := y.fails + 1 }) }).spareMove core leaf
      | v =>
        let bad := v == .poison
        let r := x.result (if bad then fun _ => 0 else x.blockError err)
        let rest := { w.array with spans := w.array.spans.filter (fun y => y.id != x.id) }
        let w1 := ({ w with array := rest } : Crew).orArrayFlags (if bad then 0 else r.2)
        let s1 := match x.slice with
          | some key =>
            let split := w.array.runSplit
            (s.setCrew core w1).acceptSlice (combineCore core split.1 split.2) key r.1 (x.poison || bad)
          | none => s.setCrew core (w1.accumulateEntry x.code x.entry (x.poison || bad) r.1)
        let s2 := if x.fails = 0 then s1 else (s1.leafReplayed core leaf).noteCorrected core leaf x.fails
        if bad then s2.rasCrew 5 core ⟨x.entry, leaf, 0, 0⟩ else s2

/-- R35. -/
def execSpanAccumulate (core cell err : Nat) (s : State) : Out :=
  .next (if (s.core core).held then s.spanAccumulate core (cell / 2) err else s)

/-! ### ar.hold and ar.step (R192, R193) -/

/-- The value, coordinate and scale of slot i of group number g of a hold, as loaded; `rd` reads bytes of the scratchpad as a number. -/
def Crew.holdSlot (w : Crew) (rd : Nat → Nat → Nat) (blk n : Nat) (g : Group) (prev i : Nat) : Slot :=
  let bits := fmtBits g.fmt
  let va := blkAt blk 0 4 + n * blkAt blk 4 4
  let sa := blkAt blk 8 4 + n * blkAt blk 0xC 4
  let ca := blkAt blk 0x10 4 + n * blkAt blk 0x14 4
  let nsc := blkAt blk 0x18 1
  let at0 := va + bits * i / 8
  let value := rd at0 (Nat.max 1 (bits / 8)) / 2 ^ (bits * i % 8) % 2 ^ bits
  let kpos := if g.sparse then rd (ca + 2 * i) 2 else i
  let mx := mxFmt g.fmt
  let scaled := mx && decide (kpos / 32 < nsc)
  let absent := (g.sparse && ((i != 0 && decide (kpos ≤ prev)) || decide (768 ≤ kpos))) || (mx && !scaled)
  let bad := fun (a k : Nat) => (granules a k).any (smem w.poolPoison)
  ⟨value, if scaled then rd (sa + kpos / 32) 1 else 0, kpos, true, absent,
    bad at0 (Nat.max 1 (bits / 8)) || (g.sparse && bad (ca + 2 * i) 2) || (scaled && bad (sa + kpos / 32) 1)⟩

/-- The coordinate before slot i of a sparse group. -/
def holdPrev (rd : Nat → Nat → Nat) (blk n : Nat) (g : Group) (i : Nat) : Nat :=
  if g.sparse && i != 0 then rd (blkAt blk 0x10 4 + n * blkAt blk 0x14 4 + 2 * (i - 1)) 2 else 0

/-- Every slot that a hold writes, as cell key, ring depth and slot. -/
def Crew.holdSlots (w : Crew) (rd : Nat → Nat → Nat) (blk : Nat) : Nat → List Group → List (Nat × Nat × Slot)
  | _, [] => []
  | n, g :: gs =>
    (List.range g.positions).map (fun i => (g.cellOf i, g.depth, w.holdSlot rd blk n g (holdPrev rd blk n g i) i)) ++ w.holdSlots rd blk (n + 1) gs

/-- The cells of the groups of a step. -/
def stepCells (gs : List Group) : List (Nat × Nat) :=
  (gs.map (fun g => (List.range g.positions).map (fun i => (g.cellOf i, g.depth)))).flatten

/-- The head of the feed queue gone. -/
def Array.popFeed (r : Array) : Array := { r with feedq := r.feedq.tail, feedPos := emptyFeedPos }

/-- A hold at the head of the feed queue, once each ring it fills has an empty slot. DEDUCED, log 29. -/
def Crew.arHold (w : Crew) (rd : Nat → Nat → Nat) (c : ArCmd) : Option Crew :=
  let l := w.holdSlots rd c.blk 0 c.groups
  if !(w.memReady c.core) || l.any (fun x => (w.array.cell x.1 x.2.1).room.isNone) then none
  else
    let r := l.foldl (fun (t : Array) x => t.settleCell x.1 ((t.cell x.1 x.2.1).load x.2.2)) w.array
    let n := (l.filter (fun x => x.2.2.absent)).length
    some (({ w with array := { r with holderr := bump32 r.holderr n }.popFeed } : Crew).signal c.sem)

/-- A step at the head of the feed queue, once no leaf it reaches has a firing before it. -/
def Crew.arStep (w : Crew) (c : ArCmd) : Option Crew :=
  let l := stepCells c.groups
  if l.any (fun x => (w.array.cell x.1 x.2).fires) then none
  else
    let r := l.foldl (fun (t : Array) x => t.settleCell x.1 (t.cell x.1 x.2).step) w.array
    some (({ w with array := r.popFeed } : Crew).signal c.sem)

/-! ### ar.feed (R171, R194) -/

/-- Tokens of a row, its scale token included. -/
def ArCmd.rowTokens (c : ArCmd) : Nat :=
  let per := 256 / fmtBits c.rowFmt
  (c.kext + per - 1) / per + (if mxFmt c.rowFmt then 1 else 0)

/-- The cells of a group that take the element with label p: the position p of a dense group; in a sparse one each position
whose slot cur holds K position p. DEDUCED, log 22. -/
def Array.takers (r : Array) (g : Group) (p : Nat) : List (Nat × Nat) :=
  if g.sparse then
    ((List.range g.positions).filter (fun i => (r.cell (g.cellOf i) g.depth).slot.kpos == p)).map (fun i => (g.cellOf i, g.depth))
  else if p < g.positions then [(g.cellOf p, g.depth)] else []

/-- The elements of a token: cells, the operand each latches, for groups and their span numbers. -/
def Array.spread (r : Array) (c : ArCmd) (pos : FeedPos) (t : Token) : List Group → List Nat → List (Nat × Nat × Moving)
  | g :: gs, id :: ids =>
    let bits := fmtBits c.rowFmt
    let per := 256 / bits
    let first := per * (pos.tok - (if mxFmt c.rowFmt then 1 else 0))
    let one := fun (j : Nat) =>
      let p := first + j
      let m : Moving := ⟨t.data / 2 ^ (bits * j) % 2 ^ bits, if mxFmt c.rowFmt then pos.scale.getD 0 / 2 ^ (8 * (p / 32)) % 256 else 0, p,
        t.poison || pos.poison, id⟩
      if p < c.kext then (r.takers g p).map (fun x => (x.1, x.2, m)) else []
    ((List.range per).map one).flatten ++ r.spread c pos t gs ids
  | _, _ => []

/-- Operands latched. -/
def Array.latchAll (r : Array) (l : List (Nat × Nat × Moving)) : Array :=
  l.foldl (fun t x => (t.setCell x.1 { t.cell x.1 x.2.1 with latch := some x.2.2 }).modSpan x.2.2.span (fun y => { y with pending := y.pending + 1 })) r

/-- The spans of a row begun, one for each receiving group in ascending order of first (R174). -/
def Array.beginRow (r : Array) (c : ArCmd) (wide : Bool) : Array :=
  let pos := r.feedPos
  if pos.tok ≠ 0 then r
  else
    let npos := if mxFmt c.rowFmt then c.kext / 32 else c.kext
    let new := (List.range c.groups.length).map (fun i =>
      let g := c.groups.getD i ⟨0, 0⟩
      (⟨r.nextSpan + i, c.seq, g.start, g.entry (c.row0 + pos.row), if wide || g.keepwide then 17 else 6, fmtOperand c.rowFmt, npos, [], 0, false, false, 0, none⟩ : Span))
    { r with spans := r.spans ++ new, nextSpan := r.nextSpan + c.groups.length, feedPos := { pos with spans := new.map Span.id } }

def Array.modSpans (r : Array) (ids : List Nat) (f : Span → Span) : Array :=
  { r with spans := r.spans.map (fun x => if ids.contains x.id then f x else x) }

/-- The feed at the head past its last row: its last operand has entered the tree (R178). -/
def Array.feedEntered (r : Array) (c : ArCmd) : Array := { r.popFeed with feeding := r.feeding ++ [c] }

/-- One token of a row taken; with the row's last token its spans are closed. -/
def Array.nextToken (r : Array) (c : ArCmd) : Array :=
  let pos := r.feedPos
  if pos.tok + 1 < c.rowTokens then { r with feedPos := { pos with tok := pos.tok + 1 } }
  else
    let r1 := r.modSpans pos.spans (fun x => { x with closed := true })
    if pos.row + 1 < c.rows then { r1 with feedPos := { emptyFeedPos with row := pos.row + 1 } } else r1.feedEntered c

/-- An error token in place of a token of the row (R175, R194). DEDUCED, log 73. -/
def Array.errorInRow (r : Array) (c : ArCmd) : Array :=
  let pos := r.feedPos
  let r1 := r.modSpans pos.spans (fun x => { x with poison := true })
  ({ r1 with
    errrows := if pos.error then r1.errrows else bump32 r1.errrows 1
    feedPos := { r1.feedPos with error := true } } : Array).nextToken c

/-- A rank-7 stop: the row in progress accumulates nothing and the command ends (R194). -/
def Array.feedShort (r : Array) (c : ArCmd) : Array :=
  ({ r with spans := r.spans.filter (fun x => !(r.feedPos.spans.contains x.id)), short := true } : Array).feedEntered c

/-- One token of the feed at the head taken from its channel. -/
def Crew.arFeed (w : Crew) (c : ArCmd) : Option Crew :=
  let r := w.array.beginRow c w.accWide
  match w.see keyArray c.chan with
  | .zero _ _ => some (w.dequeue c.chan)
  | .seven _ => some ((w.dequeue c.chan).setArray (w.array.feedShort c))
  | .tok t =>
    if t.kind = kindStop ∨ t.kind = kindCount then some (w.dequeue c.chan)
    else if t.kind = kindError then some (((w.dequeue c.chan).countError t.code).setArray (r.errorInRow c))
    else if mxFmt c.rowFmt ∧ r.feedPos.tok = 0 then
      let r1 := { r with feedPos := { r.feedPos with scale := some t.data, poison := t.poison } }
      let r2 := if t.poison then r1.modSpans r1.feedPos.spans (fun x => { x with poison := true }) else r1
      some ((w.dequeue c.chan).setArray (r2.nextToken c))
    else
      let l := r.spread c r.feedPos t c.groups r.feedPos.spans
      if l.any (fun x => (r.cell x.1 x.2.1).latch.isSome) then none
      else some ((w.dequeue c.chan).setArray ((r.latchAll l).nextToken c))
  | _ => none

/-! ### mx.run (R184, R195) -/

/-- The pairs of local row i of A and row j of B: n positions, keyed by the element's place in the slice; the error is in the product that it names, by its
place among them. -/
def tilePairs (rd : Nat → Nat → Nat) (t : Tile) (n i j err : Nat) : Tab Pair :=
  let bits := fmtBits t.fmt
  let mx := mxFmt t.fmt
  let elems := if mx then 32 * n else n
  let val := fun (base k : Nat) => rd (base + bits * k / 8) (Nat.max 1 (bits / 8)) / 2 ^ (bits * k % 8) % 2 ^ bits
  (List.range elems).map (fun k =>
    (k, (⟨val (t.bbase + j * t.bstride) k, val (t.abase + i * t.astride) k,
      if mx then rd (t.bscale + j * n + k / 32) 1 else 0, if mx then rd (t.ascale + i * n + k / 32) 1 else 0,
      if k = err % Nat.max 1 elems then err / Nat.max 1 elems / 2 else 0⟩ : Pair)))

/-- Does some byte that an element of the tile reads carry poison? -/
def Crew.tilePoison (w : Crew) (t : Tile) (n i j : Nat) : Bool :=
  let bad := fun (a k : Nat) => k != 0 && (granules a k).any (smem w.poolPoison)
  bad (t.abase + i * t.astride) (t.rowBytes n) || bad (t.bbase + j * t.bstride) (t.rowBytes n)
    || (mxFmt t.fmt && (bad (t.ascale + i * n) n || bad (t.bscale + j * n) n))

/-- The blocks of two joined runs agree where R195 requires it. -/
def tilesAgree (a b : ArCmd) : Bool :=
  let t := tileOf a.blk
  let u := tileOf b.blk
  t.m == u.m && t.n == u.n && t.k == u.k && t.ctl == u.ctl && popCount 8 a.b == popCount 8 b.b

/-- A run at the head that waits for the others of its set. -/
def Crew.waitingRun (w : Crew) : Option ArCmd :=
  match w.array.meet, w.array.feedq with
  | .waiting, c :: _ => some c
  | _, _ => none

/-- A co-operating run announced: the j-th that its core dispatched in its period. With the last of its set the runs meet (R184, R195). -/
def State.announceRun (s : State) (core : Nat) (c : ArCmd) : State :=
  let s1 := s.modCrew core (fun w => { w with array := { w.array with
    runs := if w.array.runPeriod = c.core then w.array.runs + 1 else 1
    runPeriod := c.core
    meet := .waiting
    slices := []
    combined := 0
    combineFails := 0 } })
  let set := coopSet core c.b
  let j := (s1.crew core).array.runs
  let there := set.all (fun k => s1.sameGang core k && (s1.crew k).waitingRun.isSome && (s1.crew k).array.runs == j
    && (s1.crew k).array.runPeriod == c.core)
  if !there then s1
  else
    let ok := set.all (fun k => match (s1.crew k).waitingRun with | some d => tilesAgree c d | none => false)
    set.foldl (fun t k => t.modCrew k (fun w => { w with array := { w.array with
      meet := if ok then .met else .differed
      coopmis := w.array.coopmis || !ok } })) s1

/-- The next element of the run at the head formed as a span (R173, R195). -/
def Crew.runElement (w : Crew) (rd : Nat → Nat → Nat) (core err : Nat) (c : ArCmd) : Option Crew :=
  let t := tileOf c.blk
  let r := w.array
  let e := r.feedPos.row
  if t.mloc * t.nloc ≤ e ∨ r.spans ≠ [] then none
  else
    let idx := coopIndex core c.b
    let n := t.held idx
    let i := e / t.nloc
    let j := e % t.nloc
    let sp : Span := ⟨r.nextSpan, c.seq, 0, t.cbase + i * t.cstride + t.width * j, if w.accWide || t.keepwide then 17 else 6, fmtOperand t.fmt,
      n, tilePairs rd t n i j err, 0, true, w.tilePoison t n i j, 0, if t.ks = 1 then none else some (e * t.ks + t.ik idx)⟩
    some { w with array := { r with spans := [sp], nextSpan := r.nextSpan + 1, feedPos := { r.feedPos with row := e + 1 } } }

/-- Do the checks of every product of an element of the tile pass, with an error in the one it names? -/
def Crew.runChecks (w : Crew) (rd : Nat → Nat → Nat) (core err : Nat) (c : ArCmd) : Bool :=
  let t := tileOf c.blk
  let e := w.array.feedPos.row
  let l := tilePairs rd t (t.held (coopIndex core c.b)) (e / t.nloc) (e % t.nloc) 0
  match l[err % Nat.max 1 l.length]? with
  | some p => leafOk w.dualFire (fmtOperand t.fmt) p.2.a p.2.b (err / Nat.max 1 l.length)
  | none => true

/-- The run at the head of the feed queue goes on: it starts once every earlier feed command has completed (R178), co-operating
runs after they have met; each turn forms one element, and `err` is a physical error in one of its products, charged to leaf 0 since the carve is not visible
(DESIGN CHOICE, log 79). DEDUCED, log 28. -/
def State.mxRun (s : State) (core err : Nat) (c : ArCmd) : State :=
  let w := s.crew core
  let r := w.array
  if r.feeding ≠ [] ∨ !(w.memReady c.core) = true then s
  else if (tileOf c.blk).parts ≠ 1 ∧ r.meet = .idle then (if r.spans = [] then s.announceRun core c else s)
  else if (tileOf c.blk).parts ≠ 1 ∧ r.meet ≠ .met then s
  else
    let cell := r.cell 0 1
    match w.runElement (s.poolNat core) core err c with
    | none => s
    | some u =>
      let v := verdict (w.runChecks (s.poolNat core) core err c) cell.fails
      if v = .replay then (s.setCrew core { w with array := r.setCell 0 { cell with fails := cell.fails + 1 } }).spareMove core 0
      else
        let bad := v == .poison
        let r1 := if bad then u.array.modSpans (u.array.spans.map Span.id) (fun x => { x with poison := true }) else u.array
        let s1 := s.setCrew core (u.setArray (r1.setCell 0 { cell with fails := 0 }))
        let s2 := if cell.fails = 0 then s1 else (s1.leafReplayed core 0).noteCorrected core 0 cell.fails
        if bad then s2.rasCrew 5 core ⟨(u.array.spans.map Span.entry).headD 0, 0, 0, 0⟩ else s2

/-- R36, R42, R195: the combine stage joins the slices of the next element and the core with ik 0 accumulates it; `err` other than 0 is a mismatch of the doubled
stages, charged to leaf 0 (DESIGN CHOICE, log 79). -/
def State.coopCombine (s : State) (core err : Nat) : State :=
  let w := s.crew core
  match w.array.feedq with
  | [] => s
  | c :: _ =>
    let t := tileOf c.blk
    let e := w.array.combined
    let at' := fun (i : Nat) => tfind w.array.slices (e * t.ks + i)
    let entry := t.cbase + e / t.nloc * t.cstride + t.width * (e % t.nloc)
    let code := if w.accWide || t.keepwide then 17 else 6
    let ready := c.op == .run && w.array.meet == .met && t.ks != 1 && t.ik (coopIndex core c.b) == 0 && decide (e < t.mloc * t.nloc)
      && (List.range t.ks).all (fun i => (at' i).isSome)
      && (List.range (w.entrySpan (code == 17))).all (fun i => !(w.drainReads c.seq (entry + i)))
    let verd := verdict (err == 0) w.array.combineFails
    if !ready then s
    else if verd = .replay then (s.setCrew core { w with array := { w.array with combineFails := w.array.combineFails + 1 } }).spareMove core 0
    else
      let bad := verd == .poison
      let v := treeSum (fun i => match at' i with | some x => x.1 | none => none) t.ks.log2 0
      let poison := (List.range t.ks).any (fun i => match at' i with | some x => x.2 | none => false)
      let keep := (List.range t.ks).foldl (fun m i => tdel m (e * t.ks + i)) w.array.slices
      let w1 := ({ w with array := { w.array with combined := e + 1, slices := keep, combineFails := 0 } } : Crew).orArrayFlags (if bad then 0 else v.2)
      let s1 := s.setCrew core (w1.accumulateEntry code entry (poison || bad) v.1)
      let s2 := if w.array.combineFails = 0 then s1 else (s1.leafReplayed core 0).noteCorrected core 0 w.array.combineFails
      if bad then s2.rasCrew 5 core ⟨entry, 0, 0, 0⟩ else s2

/-- R195. -/
def execCoopCombine (core : Nat) (s : State) : Out := .next (if (s.core core).held then s.coopCombine core s.cur.err else s)

/-- Has the run at the head reached its completion point (R195)? -/
def Crew.runDone (w : Crew) (core : Nat) (c : ArCmd) : Bool :=
  let t := tileOf c.blk
  let r := w.array
  let total := t.mloc * t.nloc
  if t.parts = 1 then decide (total ≤ r.feedPos.row) && r.spans.isEmpty
  else match r.meet with
    | .differed => true
    | .met =>
      if t.ks != 1 && t.ik (coopIndex core c.b) == 0 then decide (total ≤ r.combined)
      else decide (total ≤ r.feedPos.row) && r.spans.isEmpty
    | _ => false

/-! ### ar.drain (R197) and ar.chk (R198) -/

/-- The drain at the head past a row: a stop is owed, or the next row begins. -/
def Array.endDrainRow (r : Array) (d : DrainBlock) : Array :=
  let last := decide (d.nrows ≤ r.drainPos.row + 1)
  if last && d.endstop then { r with drainPos := { r.drainPos with owed := some 7 } }
  else if d.rowstop then { r with drainPos := { r.drainPos with owed := some 1 } }
  else { r with drainPos := { r.drainPos with row := r.drainPos.row + 1, sent := 0 }, drained := last }

/-- One value of a drain: its bits, its flags, and whether it is poisoned. Flush-to-zero leaves an entry drained to f64 as it is (R29, R40). -/
def Crew.drainValue (w : Crew) (d : DrainBlock) (v : Nat × Bool) : Nat × FlagSet × Bool :=
  if w.entryPoisoned v.2 v.1 then (0, 0, true)
  else
    let m := w.info.mode
    let r := convert (if v.2 then 17 else 6) d.tfmt ((rmOf d.rm).getD .rne) 0 (m.getLsbD 3) (m.getLsbD 2 && d.tfmt != 17) (w.entryValue v.2 v.1)
    (r.1, r.2, false)

/-- The data token of a run of values, the crew after reading them, and how many were poisoned. -/
def Crew.drainToken (w : Crew) (d : DrainBlock) (vs : List (Nat × Bool)) (bank : Nat) : Token × Crew :=
  let wt := fmtWidth d.tfmt
  let rs := vs.map (w.drainValue d)
  let bits := packFrom wt (fun j => (rs.getD j (0, 0, false)).1) vs.length 0
  let poison := rs.any (fun r => r.2.2)
  let flags := rs.foldl (fun f r => f ||| r.2.1) 0
  let w1 := w.orArrayFlags flags
  let w2 := if d.clear then vs.foldl (fun u v => u.clearEntries v.1 (w.entrySpan v.2)) w1 else w1
  let bad := vs.filter (fun v => w.entryPoisoned v.2 v.1)
  let pos := w2.array.drainPos
  let pos' : DrainPos := { pos with
    sent := pos.sent + vs.length
    first := match pos.first with | some e => some e | none => bad.head?.map (·.1)
    met := pos.met + bad.length }
  (⟨bits, bank, kindData, poison⟩, { w2 with array := { w2.array with drainPos := pos' } })

/-- May every entry of a run of values be read by command number seq (R179)? -/
def Crew.readable (w : Crew) (core seq : Nat) (vs : List (Nat × Bool)) : Bool :=
  vs.all (fun v => (List.range (w.entrySpan v.2)).all (fun i => !(w.feedTouches core seq (v.1 + i))))

/-- One token of the drain at the head; in a save it holds, as a source does. -/
def Crew.arDrain (w : Crew) (core : Nat) (c : ArCmd) : Option Crew :=
  let d := drainOf c.blk
  let r := w.array
  let pos := r.drainPos
  if w.stopped then none
  else match pos.owed with
  | some k =>
    if w.canAll keyArray (stopToken k c.strand) [c.b] then
      some ((w.setArray { r with
        drainPos := { pos with owed := none, row := pos.row + 1, sent := 0 }
        drained := decide (d.nrows ≤ pos.row + 1) }).enqueue (stopToken k c.strand) c.b)
    else none
  | none =>
    let row := d.row c.groups w.accWide pos.row
    let vs := (row.drop pos.sent).take (256 / fmtWidth d.tfmt)
    if vs.isEmpty then some (w.setArray (r.endDrainRow d))
    else if !(w.readable core c.seq (if d.check then row else vs)) then none
    else
      let bad := if d.check && pos.sent == 0 then row.find? (fun v => w.entryPoisoned v.2 v.1) else none
      match bad with
      | some v =>
        some ((w.setArray { r with drained := true, drainq := { c with sem := 63 } :: r.drainq.tail }).postTrap c.strand causePoisonConsumed
          (BitVec.ofNat 64 v.1))
      | none =>
        let q := w.drainToken d vs c.strand
        if w.canAll keyArray q.1 [c.b] then
          let u := q.2.enqueue q.1 c.b
          some (if row.length ≤ u.array.drainPos.sent then u.setArray (u.array.endDrainRow d) else u)
        else none

/-- The drain at the head of the drain queue, if its period has begun and it has tokens left. -/
def Array.drainHead (r : Array) : Option ArCmd :=
  match r.drainq with
  | c :: _ => if c.op == .drain && c.period == r.passed && !r.drained then some c else none
  | [] => none

/-- R197: one token of the drain of a port. -/
def execDrainToken (core port : Nat) (s : State) : Out :=
  .next (s.engine core (fun w => match w.array.drainHead with
    | some c => if (drainOf c.blk).port = port then w.arDrain core c else none
    | none => none))

/-- The status block (Table 7.3). -/
def State.statusBlock (s : State) (core : Nat) : List Byte :=
  let r := (s.crew core).array
  bytesOf 4 (r.flags.toNat + 2 ^ 8 * b2n r.coopmis + 2 ^ 9 * b2n r.short)
    ++ bytesOf 4 r.abandoned ++ bytesOf 4 r.errrows ++ bytesOf 4 r.poisoned ++ bytesOf 4 r.checkfail
    ++ bytesOf 2 (s.sparedCount core) ++ bytesOf 2 (s.spareCount core) ++ bytesOf 4 r.holderr ++ bytesOf 36 0

/-- ar.chk at the head of the drain queue (R198). -/
def State.arChk (s : State) (core : Nat) (c : ArCmd) : State :=
  let w := s.crew core
  let r := w.array
  if (r.feedq ++ r.feeding).any (fun d => decide (d.seq < c.seq)) || !(w.memReady c.core) then s
  else
    ((s.dispatchEdge core c.strand (.pool core c.a) 64).writeLoc (.pool core c.a) (s.statusBlock core) false).modCrew core (fun u =>
      let q := { u.array with drainq := u.array.drainq.tail }
      let q1 : Array := if c.b = 1 then { q with flags := 0, short := false, coopmis := false, abandoned := 0, errrows := 0, poisoned := 0, checkfail := 0, holderr := 0 } else q
      (u.setArray q1).signal c.sem)

/-! ### The queues (R178, R180) -/

/-- A plane write at the head of the configuration queue (R190, R191). -/
def Crew.arPlane (w : Crew) (c : ArCmd) : Option Crew :=
  let r := w.array
  let p := r.idle
  let put := fun (q : ArrayPlane) => some ((w.setArray { r with idle := q, cfgq := r.cfgq.tail }).signal c.sem)
  match c.op with
  | .carve => put { p with groups := c.groups }
  | .mmap => put { p with feeds := c.a, drains := c.b }
  | .coop => put { p with coop := c.a }
  | _ => none

/-- May a command at the head of the feed queue act: has its period begun, or has the terminator's sweep passed every leaf that a hold or step of the next
period reaches (R157, R181)? -/
def Array.mayAct (r : Array) (c : ArCmd) : Bool :=
  c.period == r.passed || (c.period == r.passed + 1 && (c.op == .hold || c.op == .step) && c.groups.all (fun g => decide (g.start + g.len ≤ r.sweep)))

/-- The head of the feed queue goes on, if its period has begun where it acts. One that reads the scratchpad does so after its strand's earlier stores (R306). -/
def State.feedTurn (s : State) (core err : Nat) : State :=
  match (s.crew core).array.feedq with
  | [] => s
  | c :: _ =>
    let s0 := if c.op.touchesMemory then s.drainStrand core c.strand else s
    if !((s.crew core).array.mayAct c) then s
    else match c.op with
      | .hold => s0.engine core (fun w => w.arHold (s0.poolNat core) c)
      | .step => s.engine core (fun w => w.arStep c)
      | .feed => s.engine core (fun w => w.arFeed c)
      | .zero => s.engine core (fun w => some (w.setArray (w.array.feedEntered c)))
      | .run => s0.mxRun core err c
      | _ => s

/-- Has a command that left the head of the feed queue reached its completion point (R194, R196)? -/
def Crew.feedDone (w : Crew) (c : ArCmd) : Bool :=
  match c.op with
  | .zero => w.array.spans.all (fun x => x.slice.isSome || decide (c.seq ≤ x.seq) || decide (x.entry + w.entrySpan (x.code == 17) ≤ c.a) || decide (c.a + c.b ≤ x.entry))
      && (List.range c.b).all (fun i => !(w.drainReads c.seq (c.a + i)))
      && w.array.feeding.all (fun d => d.op != .zero || decide (c.seq ≤ d.seq))
  | _ => w.array.spans.all (fun x => x.seq != c.seq)

/-- The first completed command that has left the head of the feed queue completes: a zero clears its entries. -/
def Crew.feedComplete (w : Crew) : Option Crew :=
  match w.array.feeding.find? w.feedDone with
  | none => none
  | some c =>
    let u := if c.op = .zero then w.clearEntries c.a c.b else w
    some ((u.setArray { u.array with feeding := u.array.feeding.filter (fun d => d.seq != c.seq) }).signal c.sem)

/-- The run at the head of the feed queue completes: every ring and latch is empty and cur is 0 (R195). DESIGN CHOICE, log 100. -/
def Crew.runComplete (w : Crew) (core : Nat) : Option Crew :=
  match w.array.feedq with
  | c :: _ =>
    if c.op == .run && c.period == w.array.passed && w.runDone core c then
      some ((w.setArray { w.array.popFeed with cells := [], meet := .idle }).signal c.sem)
    else none
  | [] => none

/-- The drain at the head of the drain queue completes, with its deferred poison record (R197, R238). -/
def State.drainComplete (s : State) (core : Nat) : State :=
  let r := (s.crew core).array
  match r.drainq with
  | c :: _ =>
    if c.op == .drain && r.drained then
      let d := drainOf c.blk
      let s1 := if r.drainPos.met = 0 then s else s.rasCrew 2 core ⟨r.drainPos.first.getD 0, r.drainPos.met, d.port, c.b⟩
      s1.modCrew core (fun w => (w.setArray { w.array with drainq := w.array.drainq.tail, drainPos := emptyDrainPos, drained := false }).signal c.sem)
    else s
  | [] => s

/-- R180: an array command of a queue (1 configuration, 2 feed, 3 drain) that has reached its completion point signals. -/
def execArrayCommandComplete (core queue : Nat) (s : State) : Out :=
  .next (if queue = 1 then s.engine core (fun w => match w.array.cfgq with | c :: _ => w.arPlane c | [] => none)
    else if queue = 2 then s.engine core (fun w => match w.feedComplete with | some u => some u | none => w.runComplete core)
    else if (s.core core).held then s.drainComplete core else s)

/-- The turn of an array queue. -/
def State.arrayTurn (s : State) (core queue : Nat) : State :=
  if queue = 1 then s.engine core (fun w => match w.array.cfgq with | c :: _ => w.arPlane c | [] => none)
  else if queue = 2 then (if (s.core core).held then s.feedTurn core s.cur.err else s)
  else if (s.core core).held then
    (match (s.crew core).array.drainq with
     | c :: _ =>
       if c.op = .chk then (if c.period = (s.crew core).array.passed then s.arChk core c else s)
       else s.engine core (fun w => match w.array.drainHead with | some d => w.arDrain core d | none => none)
     | [] => s)
  else s

/-! ### The terminator in the array (R181 to R183) -/

/-- Has the array a half-matched leaf, a latched operand, a span or an old command left? -/
def Array.busy (r : Array) : Bool :=
  r.cells.any (fun c => c.2.latch.isSome) || !r.spans.isEmpty || !r.feeding.isEmpty
    || r.feedq.any (fun c => c.period == r.passed) || r.drainq.any (fun c => c.period == r.passed)

/-- Is the wave entry at the head of the configuration queue? -/
def Array.waveAtHead (r : Array) : Bool := match r.cfgq with | c :: _ => c.op == .wave | [] => false

/-- Do all feed channels of the active plane hold their markers at their heads? -/
def Crew.feedsAtMarker (w : Crew) : Bool := (maskBits 32 w.array.active.feeds).all (fun ch => (w.chan ch).view == .marker)

/-- Is the feed at the head held up only by full latches? -/
def Crew.feedBlocked (w : Crew) : Bool :=
  match w.array.feedq with
  | c :: _ =>
    c.op == .feed && c.period == w.array.passed && (w.arFeed c).isNone
      && (match w.see keyArray c.chan with | .tok t => t.kind == kindData | _ => false)
  | [] => false

/-- A latched operand without a partner in slot cur discarded by a sweep with the abandon flag (R183). -/
def Array.abandonCell (r : Array) (key : Nat) (c : Cell) : Array :=
  match c.latch with
  | some m => if c.slot.full then r else
      let u := (r.setCell key { c with latch := none }).release m.span
      { u with abandoned := bump32 u.abandoned 1 }
  | none => r

/-- R183: half-matched operands discarded before the markers stand at the feed channels' heads, so that tokens that they hold back can come. DEDUCED, log 68. -/
def Array.abandon (r : Array) : Array := r.cells.foldl (fun t c => t.abandonCell c.1 c.2) r

/-- Two groups that keep their stationary operands across a passage (R182). -/
def Group.same (g h : Group) : Bool :=
  g.start == h.start && g.len == h.len && g.fmt == h.fmt && g.depth == h.depth && g.sparse == h.sparse

/-- The cells kept across a passage. -/
def keptCells (old new : List Group) : List Nat :=
  ((old.filter (fun g => new.any (fun h => g.same h))).map (fun g => (List.range g.positions).map g.cellOf)).flatten

/-- The leaves, from the sweep on, that it may not pass yet: those with a latched operand, and those that a hold, feed or step of the old period has still to
reach (R181). -/
def Array.blocked (r : Array) : List Nat :=
  ((r.cells.filter (fun c => c.2.latch.isSome && decide (r.sweep ≤ c.1 / 2))).map (fun c => c.1 / 2))
    ++ ((r.feedq.filter (fun c => c.period == r.passed)).map (fun c =>
        if c.op == .run then [r.sweep]
        else (c.groups.filter (fun g => decide (r.sweep < g.start + g.len))).map (fun g => Nat.max g.start r.sweep))).flatten

/-- The sweep gone on to the first leaf that holds it up, or past the last of n leaves: the leaves that it passes are emptied where the planes differ (R157,
R182). With the abandon flag a half-matched operand at the leaf it stands at is discarded. -/
def Array.sweepOn (r : Array) (n : Nat) (abandon : Bool) : Array :=
  let stop := r.blocked.foldl Nat.min n
  let kept := keptCells r.active.groups r.idle.groups
  let r1 := { r with
    cells := r.cells.filter (fun c => decide (c.1 / 2 < r.sweep) || decide (stop ≤ c.1 / 2) || kept.contains c.1)
    sweep := stop }
  if abandon then (r1.cells.filter (fun c => c.1 / 2 == stop)).foldl (fun t c => t.abandonCell c.1 c.2) r1 else r1

/-- The array's passage of the terminator (R156, R157, R181): the sweep goes on, and once it has passed the last leaf and no old work is left, the markers are
consumed, those of the drain channels placed, and the planes switched. -/
def Crew.arrayPass (w : Crew) (v : Wave) (core : Nat) : Option Crew :=
  let r := w.array
  let n := activeLeaves core
  if !r.waveAtHead then none
  else if v.abandon && w.feedBlocked && r.abandon != r then some (w.setArray r.abandon)
  else if !w.feedsAtMarker then none
  else
    let q := r.sweepOn n v.abandon
    if decide (q.sweep < n) || q.busy then (if q == r then none else some (w.setArray q))
    else
      let u := (maskBits 32 r.active.feeds).foldl (fun t ch => t.dequeue ch) w
      let u1 := u.placeMarkers v (drainChannels r.active.drains)
      some (u1.setArray { q with active := r.idle, cfgq := r.cfgq.tail, passed := r.passed + 1, sweep := 0 })

end Sys2Proof.Machine
end

