-- ==== Sys2Proof/Machine/Elements.lean ====
section
/-!
DEFINITION. The triggered vector elements (spec 08): names, guards, readiness, what a firing reads and writes, and the triggered
operations (R199 to R222, R230 to R237).
-/
namespace Sys2Proof

/-! ### Shapes and names (R59 to R61, Tables 3.8, 3.9) -/

/-- The shape of an operation: which of d, a and b are names. -/
inductive Shape where
  | b | u | d | z
  deriving DecidableEq, Repr

/-- The shape of an op; none where it is reserved (Table 3.9). -/
def trigShape (op : Nat) : Option Shape :=
  if op ≤ 0x0B ∨ op = 0x0F ∨ (0x10 ≤ op ∧ op ≤ 0x15) ∨ op = 0x18 ∨ op = 0x1A ∨ op = 0x1B ∨ op = 0x22 ∨ op = 0x30 ∨ op = 0x32
      ∨ op = 0x34 ∨ op = 0x35 then some .b
  else if op ≤ 0x0E ∨ op = 0x16 ∨ op = 0x17 ∨ op = 0x19 ∨ op = 0x1C ∨ op = 0x20 ∨ op = 0x21 ∨ op = 0x23 ∨ op = 0x24
      ∨ (0x28 ≤ op ∧ op ≤ 0x2F) ∨ op = 0x31 ∨ op = 0x33 ∨ op = 0x36 ∨ op = 0x39 ∨ op = 0x3B ∨ op = 0x3C then some .u
  else if op = 0x38 ∨ op = 0x3A ∨ op = 0x3E then some .d
  else if op = 0x3D ∨ op = 0x3F then some .z
  else none

/-- The operand names of a word, and the channels that they read and pop. -/
def Trig.operands (t : Trig) : Shape → List Nat
  | .b => [t.a.toNat, t.b.toNat]
  | .u => [t.a.toNat]
  | _ => []
def Trig.reads (t : Trig) (sh : Shape) : List Nat :=
  ((t.operands sh).filter (fun n => decide (768 ≤ n) && decide (n < 832))).map (fun n => (n - 768) % 32)
def Trig.pops (t : Trig) (sh : Shape) : List Nat :=
  (((t.operands sh).filter (fun n => decide (768 ≤ n) && decide (n < 800))).map (fun n => n - 768)).eraseDups
/-- The channel a word enqueues on: none for an op without a destination. -/
def Trig.dest (t : Trig) : Option Nat := if 768 ≤ t.d.toNat ∧ t.d.toNat < 800 then some (t.d.toNat - 768) else none

/-- The width of IW, mod[2], the format code of FT, and the source and target format codes of cvt and cvti. -/
def Trig.iw (t : Trig) : Nat := Machine.iwWidth (t.mod.toNat % 4)
def Trig.m2 (t : Trig) : Bool := t.mod.getLsbD 2
def Trig.ft (t : Trig) : Nat := Machine.ftCode (t.mod.toNat % 4)
def Trig.source (t : Trig) : Nat := Machine.field t.b.toNat 9 5
def Trig.target (t : Trig) : Nat := Machine.field t.b.toNat 4 0

end Sys2Proof

namespace Sys2Proof.Machine
open Sys2Proof

/-! ### An element's state -/

def Element.running (x : Element) : Bool := x.state.getLsbD 0
def Element.armed (x : Element) : Bool := x.state.getLsbD 1
def Element.stopping (x : Element) : Bool := x.state.getLsbD 2
def Element.swapch (x : Element) : Nat := field x.state.toNat 7 3
/-- csr_estate with its low byte as given (Table 8.3). -/
def Element.withState (x : Element) (running armed stopping : Bool) (swapch : Nat) : Element :=
  { x with state := BitVec.ofNat 64 (x.state.toNat / 256 * 256 + swapch * 8 + b2n stopping * 4 + b2n armed * 2 + b2n running) }
/-- csr_estate after a firing of a slot. -/
def Element.noteFired (x : Element) (slot : Nat) : Element :=
  let n := (field x.state.toNat 63 32 + 1) % 2 ^ 32
  { x with state := BitVec.ofNat 64 (n * 2 ^ 32 + 2 ^ 12 + slot % 16 * 2 ^ 8 + x.state.toNat % 256) }
/-- The idle plane becomes active and the idle plane its copy (R205, R219). -/
def Element.switch (x : Element) : Element := { x with active := x.idle }
/-- The swap armed takes place or is disarmed. -/
def Element.disarm (x : Element) : Element := x.withState x.running false x.stopping 0

/-- The number under which a register is kept: a name of a bank is its bank's (R201). -/
def regName (bank n : Nat) : Nat := if n < 128 then 256 + 128 * bank + n else n
def Element.reg (x : Element) (name lane : Nat) : Lane := tget x.regs (8 * name + lane) emptyLane
def Element.setReg (x : Element) (name lane : Nat) (v : Lane) : Element := { x with regs := tset x.regs (8 * name + lane) v }
def Element.pred (x : Element) (bank lane : Nat) : BitVec 8 := tget x.preds (8 * bank + lane) 0
def Element.setPred (x : Element) (bank lane i : Nat) (v : Bool) : Element :=
  { x with preds := tset x.preds (8 * bank + lane) (BitVec.ofNat 8 (setBit (x.pred bank lane).toNat i v)) }

/-! ### Readiness (R58, R206, R207) -/

/-- The token an element sees at the head of a channel. -/
def Crew.elemHead (w : Crew) (e ch : Nat) : Option Token :=
  if w.mayRead (w.passed (keyElement e)) (keyElement e) ch then (w.chan ch).head else none

/-- The bank of a firing (R58). -/
def Crew.firingBank (w : Crew) (x : Element) (e : Nat) (t : Trig) : Nat :=
  if t.cen then (match w.elemHead e t.chan.toNat with | some k => k.bank | none => 0) else x.active.defbank

/-- Does the guard hold in a lane (R58)? -/
def Element.guardHolds (x : Element) (bank : Nat) (t : Trig) (lane : Nat) : Bool := x.pred bank lane &&& t.pcare == t.pval

/-- Is a slot's word ready (R206)? -/
def Crew.slotReady (w : Crew) (e op : Nat) (t : Trig) : Bool :=
  let x := w.elem e
  let bank := w.firingBank x e t
  let holds := (List.range 8).map (x.guardHolds bank t)
  match trigShape op with
  | none => false
  | some sh =>
    (!t.cen || (match w.elemHead e t.chan.toNat with | some k => k.kind == t.tkind.toNat | none => false))
      && (if t.q then holds.all id else holds.any id)
      && (t.reads sh).all (fun c => (w.elemHead e c).isSome)
      && (match t.dest with
          | some c => w.canSend (if op = 0x3A then stopToken 0 bank else ⟨0, bank, kindData, false⟩) c
              && w.mayWrite (w.passed (keyElement e)) (keyElement e) c
          | none => true)

/-- The lowest ready slot of an element, with its op and fields (R207). -/
def Crew.pickSlot (w : Crew) (e : Nat) : Option (Nat × Nat × Trig) :=
  let x := w.elem e
  ((List.range 16).find? (fun i => x.active.valid.testBit i &&
    (let v := tget x.active.slots i 0; w.slotReady e (trigOp v) (trigFields v)))).map
    (fun i => (i, trigOp (tget x.active.slots i 0), trigFields (tget x.active.slots i 0)))

/-! ### What a firing reads (R209) -/

/-- One lane of a name (R209). -/
def Crew.readName (w : Crew) (x : Element) (e bank n lane : Nat) : Lane :=
  if n < 768 then x.reg (regName bank n) lane
  else if n < 832 then
    (match w.elemHead e ((n - 768) % 32) with
     | some k => ⟨BitVec.ofNat 32 (k.lane lane), 0, k.poison⟩
     | none => emptyLane)
  else if n < 840 then ⟨BitVec.ofNat 32 (b2n ((x.pred bank lane).getLsbD (n - 832))), 0, false⟩
  else if n < 904 then ⟨tget x.active.consts (n - 840) 0, 0, false⟩
  else emptyLane

/-- What a firing works on: its bank, the lanes whose guard holds, the lanes of a, b and the old d, its rounding, its draw words,
and the poison bit of the token that `a` names. -/
structure Fire where
  bank : Nat
  act : Nat → Bool
  a : Nat → Lane
  b : Nat → Lane
  d : Nat → Lane
  mode : FpMode
  word : Nat → Nat
  poison : Bool

/-- The rounding an operation uses: 0 rne, 1 rne or the CSR's by mod[2], 2 the mode that mod names, 3 none, but draws. -/
def fireRm (sel : Nat) (t : Trig) (ctl : Word) : Nat :=
  if sel = 1 ∧ t.mod.getLsbD 2 = true then field ctl.toNat 2 0 else if sel = 2 then t.mod.toNat else 0

/-- Does a firing draw (R218)? -/
def fireDraws (sel : Nat) (t : Trig) (ctl : Word) : Bool := sel == 3 || fireRm sel t ctl == 4

/-- What a firing of a word reads. -/
def Crew.fireOf (w : Crew) (e : Nat) (t : Trig) (sel : Nat) : Fire :=
  let x := w.elem e
  let bank := w.firingBank x e t
  let words := drawWords x.seed.toNat (tget x.draws bank 0).toNat bank
  { bank := bank
    act := x.guardHolds bank t
    a := w.readName x e bank t.a.toNat
    b := w.readName x e bank t.b.toNat
    d := w.readName x e bank t.d.toNat
    mode := ⟨(rmOf (fireRm sel t x.ctl)).getD .rne, x.ctl.getLsbD 3, x.ctl.getLsbD 4⟩
    word := fun l => words.getD l 0
    poison := (match w.elemHead e ((t.a.toNat - 768) % 32) with | some k => k.poison | none => false) }

/-! ### What a firing writes (R210, R211, R215, R221) -/

/-- The outcome of an operation: lanes for d; a bit, the flags raised and an operand's poison for each lane of a predicate; a
token with the flags it commits; a semaphore to signal; or nothing. -/
inductive Fired where
  | lanes (f : Nat → Lane)
  | preds (f : Nat → Bool × FlagSet × Bool)
  | token (k : Token) (flags : FlagSet)
  | sig (sem : Nat)
  | nothing

/-- A property of some executing lane; the union of flags over the executing lanes; the data of a token of them. -/
def Fire.anyAct (r : Fire) (p : Nat → Bool) : Bool := (List.range 8).any (fun l => r.act l && p l)
def Fire.orAct (r : Fire) (f : Nat → FlagSet) : FlagSet := (List.range 8).foldl (fun m l => if r.act l then m ||| f l else m) 0
def Fire.dataOf (r : Fire) (f : Nat → Nat) : Nat := (List.range 8).foldl (fun m l => if r.act l then m + f l % 2 ^ 32 * 2 ^ (32 * l) else m) 0

/-- Flags committed to csr_eflags. -/
def Element.commit (x : Element) (f : FlagSet) : Element := { x with flags := flagsOr x.flags f }

/-- The crew with a token enqueued on the channel of d and its deferred fields committed (R211, R215). -/
def Crew.putToken (w : Crew) (e : Nat) (t : Trig) (k : Token) (flags : FlagSet) : Crew :=
  let w1 := w.setElem e ((w.elem e).commit flags)
  match t.dest with | some c => w1.enqueue k c | none => w1

/-- The lanes of a register written (R210). -/
def Element.writeLanes (x : Element) (r : Fire) (name : Nat) (f : Nat → Lane) (failed : Bool) : Element :=
  (List.range 8).foldl (fun y l => if r.act l then y.setReg name l { f l with poison := (f l).poison || failed } else y) x

/-- The lanes of a predicate written (R210, R214, R215). -/
def Element.writePreds (x : Element) (r : Fire) (i : Nat) (f : Nat → Bool × FlagSet × Bool) (failed : Bool) : Element :=
  let y := (List.range 8).foldl (fun y l => if r.act l then y.setPred r.bank l i ((f l).1 && !(f l).2.2 && !failed) else y) x
  let z := y.commit (r.orAct (fun l => (f l).2.1))
  if r.anyAct (fun l => (f l).2.2) then { z with flags := flagsSet z.flags 6 } else z

/-- The outcome of a firing written to the crew; `failed` after four mismatching replays. -/
def Crew.applyFired (w : Crew) (e : Nat) (t : Trig) (r : Fire) (failed : Bool) (o : Fired) : Crew :=
  match o with
  | .lanes f =>
    (match t.dest with
     | some _ =>
       w.putToken e t ⟨r.dataOf (fun l => (f l).v.toNat), r.bank, kindData, r.anyAct (fun l => (f l).poison) || failed⟩ (r.orAct (fun l => (f l).df))
     | none => w.setElem e ((w.elem e).writeLanes r (regName r.bank t.d.toNat) f failed))
  | .preds f => w.setElem e ((w.elem e).writePreds r (t.d.toNat - 832) f failed)
  | .token k flags => w.putToken e t { k with poison := k.poison || failed } flags
  | .sig sem => w.signal sem
  | .nothing => w

/-! ### The second execution (R44) -/

/-- The data of a token with lane L in lane (L + k) mod 8. -/
def turnLanes (k data : Nat) : Nat :=
  (List.range 8).foldl (fun m p => m + data / 2 ^ (32 * ((p + 8 - k) % 8)) % 2 ^ 32 * 2 ^ (32 * p)) 0

/-- An outcome with what belongs to logical lane L in physical lane (L + k) mod 8. -/
def Fired.turned (k : Nat) (o : Fired) : Fired :=
  match o with
  | .lanes f => .lanes (fun p => f ((p + 8 - k) % 8))
  | .preds f => .preds (fun p => f ((p + 8 - k) % 8))
  | .token t x => .token { t with data := turnLanes k t.data } x
  | .sig n => .sig n
  | .nothing => .nothing

/-- An outcome with an error in a physical lane: the bits of `mask` inverted there. -/
def Fired.disturb (lane mask : Nat) (o : Fired) : Fired :=
  match o with
  | .lanes f => .lanes (fun p => if p = lane then { f p with v := (f p).v ^^^ BitVec.ofNat 32 mask } else f p)
  | .preds f => .preds (fun p => if p = lane then (!(f p).1, (f p).2) else f p)
  | .token t x => .token { t with data := t.data.xor (mask % 2 ^ 32 * 2 ^ (32 * lane)) } x
  | .sig n => .sig n
  | .nothing => .nothing

/-- Do two executions agree in every destination lane value with its deferred field, every lane-predicate write and the token enqueued? -/
def Fire.agree (r : Fire) (a b : Fired) : Bool :=
  match a, b with
  | .lanes f, .lanes g => (List.range 8).all (fun l => !(r.act l) || f l == g l)
  | .preds f, .preds g => (List.range 8).all (fun l => !(r.act l) || f l == g l)
  | .token t x, .token u y => t == u && x == y
  | _, _ => true

/-- What the turn's number says of the executions of a firing: how many in a row meet an error, in which physical lane of the second, and the bits it inverts. -/
def errCount (err : Nat) : Nat := err % 8
def errLane (err : Nat) : Nat := err / 8 % 8
def errMask (err : Nat) : Nat := err / 64 + 1

/-- How many executions of a firing in a row mismatch: none in single firing, or where the error reaches nothing that is compared (R44). -/
def Crew.mismatches (w : Crew) (r : Fire) (o : Fired) (err : Nat) : Nat :=
  if w.dualFire && !(r.agree o (((o.turned 1).disturb (errLane err) (errMask err)).turned 7)) then errCount err else 0

/-- csr_eflags after replays (Table 8.3). -/
def Element.countReplays (x : Element) (n : Nat) (failed : Bool) : Element :=
  let c := Nat.min 65535 (field x.flags.toNat 31 16 + n)
  let y := { x with flags := BitVec.ofNat 64 (x.flags.toNat % 2 ^ 16 + c * 2 ^ 16) }
  if failed then { y with flags := flagsSet y.flags 7 } else y

/-- Does a firing of a word pop a stop of rank 7 from the channel of an armed swap (R219)? -/
def Crew.firesSwap (w : Crew) (e : Nat) (t : Trig) (sh : Shape) : Bool :=
  let x := w.elem e
  x.armed && (t.pops sh).contains x.swapch && (match w.elemHead e x.swapch with
    | some k => k.isStop && k.rank == 7
    | none => false)

/-- A swap takes place: the planes switch and its semaphore is signalled (R219). -/
def Crew.swapNow (w : Crew) (e : Nat) : Crew :=
  let x := w.elem e
  (w.setElem e x.disarm.switch).signal x.swapSem

/-- R209: a firing of the cursor's slot. It reads every operand, pops, computes, writes its outcome, and counts itself; `sel` says
how it rounds (`fireRm`). Its first four mismatches are replayed, and a fifth in a row fails it (R221). DESIGN CHOICE, log 102. -/
def State.fire (s : State) (t : Trig) (sh : Shape) (sel : Nat) (op : Fire → Fired) : State :=
  let core := s.cur.core
  let e := s.cur.element
  let w := s.crew core
  let x := w.elem e
  let r := w.fireOf e t sel
  let bad := w.mismatches r (op r) s.cur.err
  let n := Nat.min bad 4
  let failed := decide (5 ≤ bad)
  let popped := (t.pops sh).foldl (fun u c => u.dequeue c) w
  let w1 := popped.applyFired e t r failed (op r)
  let y := ((w1.elem e).countReplays n failed).noteFired s.cur.slot
  let z := if fireDraws sel t x.ctl then { y with draws := tset y.draws r.bank (tget y.draws r.bank 0 + 1) } else y
  let w2 := (w1.setElem e z).addRas 0 n
  let w3 := if w.firesSwap e t sh then w2.swapNow e else w2
  let s1 := s.setCrew core w3
  let s2 := s1.noteElement core e n
  if failed then s2.rasCrew 5 core ⟨0, 0x80000000 + e, 0, 0⟩ else s2

/-! ### Lane by lane -/

/-- A result lane from its value and flags and the operand lanes that contribute (R213, R214). -/
def laneOf (r : Nat × FlagSet) (from' : List Lane) : Lane :=
  ⟨BitVec.ofNat 32 r.1, from'.foldl (fun f x => f ||| x.df) r.2, from'.any Lane.poison⟩

/-- Lane L of a binary and of a unary operation. -/
def bin (f : Nat → Nat → Nat → Nat × FlagSet) (r : Fire) : Fired :=
  .lanes (fun l => laneOf (f l (r.a l).v.toNat (r.b l).v.toNat) [r.a l, r.b l])
def un (f : Nat → Nat → Nat × FlagSet) (r : Fire) : Fired := .lanes (fun l => laneOf (f l (r.a l).v.toNat) [r.a l])

/-- Integer operations over the elements of a lane; they raise no flag (R231). -/
def State.fireInt (s : State) (t : Trig) (f : Nat → Nat → Nat → Nat) : State :=
  s.fire t .b 0 (bin (fun _ x y => (intBin t.iw (f t.iw) x y, 0)))
def State.fireIntUn (s : State) (t : Trig) (f : Nat → Nat → Nat) : State :=
  s.fire t .u 0 (un (fun _ x => (intUn t.iw (f t.iw) x, 0)))

/-- Floating-point operations over the elements of a lane, each with its draw (R232). -/
def fpLane (c : Nat) (word : Nat) (f : Nat → Nat → Nat × FlagSet) : Nat × FlagSet :=
  let n := 32 / fmtWidth c
  (packFrom (fmtWidth c) (fun j => (f (laneDraw word n j) j).1) n 0, orFlags (fun j => (f (laneDraw word n j) j).2) n)
def State.fireFp (s : State) (t : Trig) (sel : Nat) (f : Nat → FpMode → Nat → Nat → Nat → Nat × FlagSet) : State :=
  let c := t.ft
  s.fire t .b sel (fun r => bin (fun l x y => fpLane c (r.word l) (fun u j => f c r.mode u (elemAt (fmtWidth c) x j) (elemAt (fmtWidth c) y j))) r)
def State.fireFpUn (s : State) (t : Trig) (sel : Nat) (f : Nat → FpMode → Nat → Nat → Nat × FlagSet) : State :=
  let c := t.ft
  s.fire t .u sel (fun r => un (fun l x => fpLane c (r.word l) (fun u j => f c r.mode u (elemAt (fmtWidth c) x j))) r)

/-! ### Integer operations (R231, Table 8.6) -/

/-- R231. -/
def execVadd (t : Trig) (s : State) : Out := .next (s.fireInt t (elAdd t.m2))
/-- R231. -/
def execVsub (t : Trig) (s : State) : Out := .next (s.fireInt t (elSub t.m2))
/-- R231. -/
def execVmul (t : Trig) (s : State) : Out := .next (s.fireInt t (elMul t.m2))
/-- R231. -/
def execVmulh (t : Trig) (s : State) : Out := .next (s.fireInt t (elMulh t.m2))
/-- R231. -/
def execVmin (t : Trig) (s : State) : Out := .next (s.fireInt t (elMin t.m2))
/-- R231. -/
def execVmax (t : Trig) (s : State) : Out := .next (s.fireInt t (elMax t.m2))
/-- R231. -/
def execVand (t : Trig) (s : State) : Out := .next (s.fire t .b 0 (bin (fun _ x y => (Nat.land x y, 0))))
/-- R231. -/
def execVor (t : Trig) (s : State) : Out := .next (s.fire t .b 0 (bin (fun _ x y => (Nat.lor x y, 0))))
/-- R231. -/
def execVxor (t : Trig) (s : State) : Out := .next (s.fire t .b 0 (bin (fun _ x y => (x.xor y, 0))))
/-- R231. -/
def execVshl (t : Trig) (s : State) : Out := .next (s.fireInt t elShl)
/-- R231. -/
def execVshr (t : Trig) (s : State) : Out := .next (s.fireInt t elShr)
/-- R231. -/
def execVsra (t : Trig) (s : State) : Out := .next (s.fireInt t elSra)
/-- R231. -/
def execVclz (t : Trig) (s : State) : Out := .next (s.fireIntUn t leadZeros)
/-- R231. -/
def execVpopc (t : Trig) (s : State) : Out := .next (s.fireIntUn t popCount)
/-- R231. -/
def execVabs (t : Trig) (s : State) : Out := .next (s.fireIntUn t (elAbs t.m2))
/-- R231: the sum of absolute differences added to the old d. -/
def execVsad (t : Trig) (s : State) : Out :=
  .next (s.fire t .b 0 (fun r => .lanes (fun l =>
    laneOf (((r.d l).v.toNat + sadFrom t.m2 t.iw (r.a l).v.toNat (r.b l).v.toNat (32 / t.iw) 0) % 2 ^ 32, 0) [r.a l, r.b l, r.d l])))

/-! ### Floating-point arithmetic (R232, Table 8.7) -/

/-- R232. -/
def execFadd (t : Trig) (s : State) : Out := .next (s.fireFp t 1 elFadd)
/-- R232. -/
def execFsub (t : Trig) (s : State) : Out := .next (s.fireFp t 1 elFsub)
/-- R232. -/
def execFmul (t : Trig) (s : State) : Out := .next (s.fireFp t 1 elFmul)
/-- R232: a × b + d, rounded once. -/
def execFfma (t : Trig) (s : State) : Out :=
  let c := t.ft
  let el := fun (x j : Nat) => elemAt (fmtWidth c) x j
  .next (s.fire t .b 1 (fun r => .lanes (fun l =>
    laneOf (fpLane c (r.word l) (fun u j => elFfma c r.mode u (el (r.a l).v.toNat j) (el (r.b l).v.toNat j) (el (r.d l).v.toNat j)))
      [r.a l, r.b l, r.d l])))
/-- R232. -/
def execFmin (t : Trig) (s : State) : Out := .next (s.fireFp t 0 (fun c m _ x y => (elFminmax false c m.ftz x y, 0)))
/-- R232. -/
def execFmax (t : Trig) (s : State) : Out := .next (s.fireFp t 0 (fun c m _ x y => (elFminmax true c m.ftz x y, 0)))
/-- R232: the sign cleared, the other bits copied. -/
def execFabs (t : Trig) (s : State) : Out := .next (s.fireFpUn t 0 (fun c _ _ x => (x % 2 ^ (fmtWidth c - 1), 0)))
/-- R232: the sign inverted, the other bits copied. -/
def execFneg (t : Trig) (s : State) : Out := .next (s.fireFpUn t 0 (fun c _ _ x => (x.xor (2 ^ (fmtWidth c - 1)), 0)))
/-- R232. -/
def execFclass (t : Trig) (s : State) : Out := .next (s.fireFpUn t 0 (fun c _ _ x => (elFclass c x, 0)))
/-- R232. -/
def execRound (t : Trig) (s : State) : Out := .next (s.fireFpUn t 1 elRound)

/-! ### Compare, select and predicates (R233, Table 8.8) -/

/-- R233. -/
def execFcmp (t : Trig) (s : State) : Out :=
  .next (s.fire t .b 0 (fun r => .preds (fun l =>
    let q := fcmpBit t.mod.toNat r.mode.ftz (r.a l).v.toNat (r.b l).v.toNat
    (q.1, q.2, (r.a l).poison || (r.b l).poison))))
/-- R233. -/
def execVcmp (t : Trig) (s : State) : Out :=
  .next (s.fire t .b 0 (fun r => .preds (fun l =>
    (vcmpBit t.mod.toNat (r.a l).v.toNat (r.b l).v.toNat, 0, (r.a l).poison || (r.b l).poison))))
/-- R233: the arm that the predicate named by mod chooses, as it stands. -/
def execVsel (t : Trig) (s : State) : Out :=
  let x := s.mine.elem s.cur.element
  .next (s.fire t .b 0 (fun r => .lanes (fun l => if (x.pred r.bank l).getLsbD t.mod.toNat then r.a l else r.b l)))
/-- R233. -/
def execVmov (t : Trig) (s : State) : Out := .next (s.fire t .u 0 (fun r => .lanes r.a))
/-- R233. -/
def execPset (t : Trig) (s : State) : Out := .next (s.fire t .d 0 (fun _ => .preds (fun l => (t.b.getLsbD l, 0, false))))
/-- R233. -/
def execPoi (t : Trig) (s : State) : Out := .next (s.fire t .u 0 (fun r => .preds (fun _ => (r.poison, 0, false))))

/-! ### Conversions (R234, Table 8.9) -/

/-- R234. -/
def execCvt (t : Trig) (s : State) : Out := .next (s.fire t .u 1 (fun r => un (fun l x => cvtLane t.source t.target r.mode (r.word l) x) r))
/-- R234: under the mode that mod names. -/
def execCvti (t : Trig) (s : State) : Out := .next (s.fire t .u 2 (fun r => un (fun l x => cvtLane t.source t.target r.mode (r.word l) x) r))
/-- R234. -/
def execMxq (t : Trig) (s : State) : Out := .next (s.fire t .u 0 (fun r => un (fun _ x => mxqLane t.target r.mode.ftz x) r))
/-- R234. -/
def execMxs (t : Trig) (s : State) : Out := .next (s.fire t .b 0 (fun r => bin (fun _ x y => mxsLane r.mode x y) r))

/-! ### Special functions (R235) -/

/-- R235. -/
def execExp2 (t : Trig) (s : State) : Out := .next (s.fireFpUn t 1 (elSpecial 0x28))
/-- R235. -/
def execLog2 (t : Trig) (s : State) : Out := .next (s.fireFpUn t 1 (elSpecial 0x29))
/-- R235. -/
def execRcp (t : Trig) (s : State) : Out := .next (s.fireFpUn t 1 (elSpecial 0x2A))
/-- R235. -/
def execRsqrt (t : Trig) (s : State) : Out := .next (s.fireFpUn t 1 (elSpecial 0x2B))
/-- R235. -/
def execSin (t : Trig) (s : State) : Out := .next (s.fireFpUn t 1 (elSpecial 0x2C))
/-- R235. -/
def execCos (t : Trig) (s : State) : Out := .next (s.fireFpUn t 1 (elSpecial 0x2D))
/-- R235. -/
def execTanh (t : Trig) (s : State) : Out := .next (s.fireFpUn t 1 (elSpecial 0x2E))
/-- R235. -/
def execSqrt (t : Trig) (s : State) : Out := .next (s.fireFpUn t 1 (elSpecial 0x2F))

/-! ### Cross-lane and bit operations (R236) -/

/-- R236. -/
def execPerm (t : Trig) (s : State) : Out :=
  .next (s.fire t .b 0 (fun r => .lanes (fun l =>
    let k := (r.b l).v.toNat % 8
    laneOf ((r.a k).v.toNat, 0) [r.a k, r.b l])))
/-- R236. -/
def execBcast (t : Trig) (s : State) : Out :=
  .next (s.fire t .u 0 (fun r => .lanes (fun _ => r.a (t.b.toNat % 8))))
/-- R236: the carry-in is lane 7 of b; the executing lanes up to L follow in lane order. -/
def execPfx (t : Trig) (s : State) : Out :=
  .next (s.fire t .b 0 (fun r => .lanes (fun l =>
    let ls := (List.range (l + 1)).filter r.act
    let v := ls.foldl (fun m k => pfxOp t.mod.toNat m (r.a k).v.toNat) (r.b 7).v.toNat
    laneOf (v, 0) (r.b 7 :: ls.map r.a))))

/-- The value of lred over the executing lanes, with its flags (R236). -/
def lredValue (t : Trig) (r : Fire) : Nat × FlagSet :=
  let code := t.b.toNat % 8
  let ls := (List.range 8).filter r.act
  if code ≤ 3 then
    let w := t.iw
    let step := fun (x y : Nat) =>
      if code = 0 then (x + y) % 2 ^ w else if code = 1 then x.xor y else if code = 2 then elMax t.m2 w x y else elMin t.m2 w x y
    (packLane w (fun j => (fold1 step (ls.map (fun l => elemAt w (r.a l).v.toNat j))).getD 0), 0)
  else
    let c := t.ft
    let w := fmtWidth c
    let read := fun (j l : Nat) => fpRead r.mode.ftz c (elemAt w (r.a l).v.toNat j)
    let el := fun (j l : Nat) => if r.act l then some (read j l) else none
    let one := fun (j : Nat) =>
      if code = 4 then (let q := fsumTree c r.mode (el j) 3 0; (q.1.getD 0, q.2))
      else ((fold1 (elFminmax (code == 5) c r.mode.ftz) (ls.map (read j))).getD 0, 0)
    (packLane w (fun j => (one j).1), orFlags (fun j => (one j).2) (32 / w))

/-- R236. -/
def execLred (t : Trig) (s : State) : Out :=
  .next (s.fire t .u 0 (fun r => .lanes (fun _ => laneOf (lredValue t r) (((List.range 8).filter r.act).map r.a))))
/-- R236. -/
def execClmul (t : Trig) (s : State) : Out := .next (s.fire t .b 0 (bin (fun _ x y => (clmulLane (t.mod != 0) x y, 0))))
/-- R236: the target width is mod[1:0], the sources twice as wide. -/
def execPack (t : Trig) (s : State) : Out := .next (s.fire t .b 0 (bin (fun _ x y => (packTwo t.m2 (2 * t.iw) x y, 0))))
/-- R236. -/
def execUnpack (t : Trig) (s : State) : Out := .next (s.fire t .u 0 (un (fun _ x => (unpackHalf t.m2 t.iw (t.b.toNat % 2) x, 0))))

/-! ### Tokens, signals and draws (R237) -/

/-- The token of enq and the flags it commits: a data token of a's executing lanes; a count token of a(0); an error token with a(0)[7:0]
in lane 0 and lanes 1 to 7 as in a. It is poisoned where an executing lane is (R211). DEDUCED, log 33. -/
def enqToken (kind : Nat) (r : Fire) : Token × FlagSet :=
  let all : Fire := { r with act := fun l => if kind = kindData then r.act l else kind != kindCount || l == 0 }
  let val := fun (l : Nat) => if kind = kindError ∧ l = 0 then (r.a 0).v.toNat % 256 else (r.a l).v.toNat
  (⟨all.dataOf val, r.bank, kind, r.anyAct (fun l => (r.a l).poison)⟩, all.orAct (fun l => (r.a l).df))

/-- R237. -/
def execEnq (t : Trig) (s : State) : Out := .next (s.fire t .u 0 (fun r => let q := enqToken (t.b.toNat % 4) r; .token q.1 q.2))
/-- R237. -/
def execStop (t : Trig) (s : State) : Out := .next (s.fire t .d 0 (fun r => .token (stopToken (t.b.toNat % 8) r.bank) 0))
/-- R237. -/
def execDeq (t : Trig) (s : State) : Out := .next (s.fire t .u 0 (fun _ => .nothing))
/-- R237. -/
def execTrigSig (t : Trig) (s : State) : Out := .next (s.fire t .z 0 (fun _ => .sig (t.b.toNat % 64)))
/-- R237: the eight Philox words of the bank's counter. -/
def execRnd (t : Trig) (s : State) : Out := .next (s.fire t .d 3 (fun r => .lanes (fun l => ⟨BitVec.ofNat 32 (r.word l), 0, false⟩)))
/-- R237. -/
def execTrigNop (t : Trig) (s : State) : Out := .next (s.fire t .z 0 (fun _ => .nothing))

end Sys2Proof.Machine
end

