-- ==== Sys2Proof/Machine/ElementCommands.lean ====
section
/-!
DEFINITION. The commands of the VE queue (spec 08, R223 to R229): plane images and their checks (spec 03, R61 to R63), constants, port
bindings, swaps, starting and stopping, register transfers, and the terminator at an element (R220).
-/
namespace Sys2Proof.Machine
open Sys2Proof

/-! ### Checks of a slot (R61 to R63, R203) -/

/-- Is a mod value one that Table 3.9 gives the op? `b` is the literal of lred. -/
def modOk (op mod b : Nat) : Bool :=
  let lane := mod % 4 != 3
  let plain := decide (mod < 3)
  if op ≤ 5 ∨ op = 0x0E ∨ op = 0x0F ∨ (0x10 ≤ op ∧ op ≤ 0x13) ∨ op = 0x23 ∨ (0x28 ≤ op ∧ op ≤ 0x2F) then lane
  else if (9 ≤ op ∧ op ≤ 0x0D) ∨ (0x14 ≤ op ∧ op ≤ 0x17) ∨ op = 0x19 then plain
  else if op = 0x18 ∨ op = 0x1B ∨ op = 0x24 then true
  else if op = 0x1A then decide (mod ≤ 6)
  else if op = 0x20 then mod % 4 == 0
  else if op = 0x32 then decide (mod ≤ 2)
  else if op = 0x33 then (if b % 8 ≤ 3 then lane else plain)
  else if op = 0x34 then decide (mod ≤ 1)
  else if op = 0x35 ∨ op = 0x36 then mod % 4 == 1 || mod % 4 == 2
  else mod == 0

/-- The checks of the literal b of an op whose shape gives b no name: the failing cause, if any. DESIGN CHOICE, log 83. -/
def literalBad (op b : Nat) : Option Cause :=
  let zeroAbove := fun (k : Nat) => if b < 2 ^ k then Option.none else some causeIllegalOp
  if op = 0x20 ∨ op = 0x24 then (if field b 9 5 ≤ 12 ∧ field b 4 0 ≤ 12 then Option.none else some causeConfig)
  else if op = 0x21 then
    (if 32 ≤ b then some causeIllegalOp else if 13 ≤ b ∧ b ≤ 16 then Option.none else some causeConfig)
  else if op = 0x31 ∨ op = 0x3A then zeroAbove 3
  else if op = 0x33 then (if b < 7 then Option.none else some causeIllegalOp)
  else if op = 0x36 then zeroAbove 1
  else if op = 0x38 then zeroAbove 8
  else if op = 0x39 then (if b < 4 ∧ b ≠ 1 then Option.none else some causeIllegalOp)
  else if op = 0x3D then zeroAbove 6
  else zeroAbove 0

/-- Is a register name implemented, P registers of its own in each bank and V shared ones (R59)? -/
def regImplemented (p v n : Nat) : Bool :=
  if n < 128 then decide (n < p) else if n < 256 then decide (n - 128 < v) else decide (n < 768) && decide ((n - 256) % 128 < p)

/-- May a name stand as an operand (Table 3.8, R203)? -/
def operandOk (p v : Nat) (ins : List Nat) (n : Nat) : Bool :=
  if n < 768 then regImplemented p v n else if n < 832 then ins.contains ((n - 768) % 32) else decide (n < 904)

/-- May a name stand as the destination of an op (Tables 3.8, 3.9, R61, R203)? -/
def destOk (p v : Nat) (outs : List Nat) (op n : Nat) : Bool :=
  let pred := decide (832 ≤ n) && decide (n < 840)
  let chan := decide (768 ≤ n) && decide (n < 800) && outs.contains (n - 768)
  if op = 0x18 ∨ op = 0x1A ∨ op = 0x38 ∨ op = 0x3C then pred
  else if op = 0x39 ∨ op = 0x3A then chan
  else if op = 0x0F ∨ op = 0x13 then decide (n < 768) && regImplemented p v n
  else if n < 768 then regImplemented p v n else chan

/-- May a name stand as the operand a of an op (R61)? -/
def firstOk (p v : Nat) (ins : List Nat) (op n : Nat) : Bool :=
  operandOk p v ins n && (if op = 0x3B then decide (768 ≤ n) && decide (n < 800)
    else if op = 0x3C then decide (768 ≤ n) && decide (n < 832) else true)

/-- The first failing check of a slot's word: the cause and the field code (R62, R63). -/
def slotBad (p v : Nat) (ins outs : List Nat) (w : Nat) : Option (Cause × Nat) :=
  let op := trigOp w
  let t := trigFields w
  match trigShape op with
  | none => some (causeIllegalOp, 0)
  | some sh =>
    let named := sh == .b || sh == .u
    let hasDest := sh != .z && op != 0x3B
    if !(modOk op t.mod.toNat t.b.toNat) then some (causeIllegalOp, 0)
    else if op = 0x24 ∧ 5 ≤ t.mod.toNat then some (causeConfig, 0)
    else if (t.pval &&& ~~~t.pcare) ≠ 0 ∨ (t.cen = false ∧ (t.chan ≠ 0 ∨ t.tkind ≠ 0)) then some (causeIllegalOp, 1)
    else if t.cen = true ∧ ins.contains t.chan.toNat = false then some (causeIllegalName, 1)
    else if (if hasDest then destOk p v outs op t.d.toNat else t.d == 0) = false then some (causeIllegalName, 2)
    else if (if named then firstOk p v ins op t.a.toNat else t.a == 0) = false then some (causeIllegalName, 3)
    else if sh = .b then
      (if operandOk p v ins t.b.toNat && !(t.a == t.b && decide (768 ≤ t.a.toNat) && decide (t.a.toNat < 800)) then Option.none
       else some (causeIllegalName, 4))
    else (literalBad op t.b.toNat).map (fun c => (c, 4))

/-- The first failing check of the valid slots of an image, from slot i on: the cause and csr_tval of R63. -/
def imageBad (p v : Nat) (ins outs : List Nat) (element valid : Nat) : Nat → List Nat → Option Refused
  | _, [] => none
  | i, w :: ws =>
    match if valid.testBit i then slotBad p v ins outs w else none with
    | some r => some (r.1, i + 2 ^ 4 * r.2 + 2 ^ 7 * element)
    | none => imageBad p v ins outs element valid (i + 1) ws

/-- The channels that a slot's word names as inputs, and as outputs. -/
def slotIns (w : Nat) : List Nat :=
  let t := trigFields w
  let name := fun (n : Nat) => if 768 ≤ n ∧ n < 832 then [(n - 768) % 32] else []
  (if t.cen then [t.chan.toNat] else [])
    ++ (match trigShape (trigOp w) with
        | some .b => name t.a.toNat ++ name t.b.toNat
        | some .u => name t.a.toNat
        | _ => [])
def slotOuts (w : Nat) : List Nat :=
  let d := (trigFields w).d.toNat
  if 768 ≤ d ∧ d < 800 then [d - 768] else []

/-- The port bindings that an image names (R328): its first four input channels and its first two output channels, in slot order. -/
def imagePorts (valid : Nat) (words : List Nat) : List Nat × List Nat :=
  let used := (words.zipIdx.filter (fun x => valid.testBit x.2)).map (·.1)
  (((used.flatMap slotIns).eraseDups).take 4, ((used.flatMap slotOuts).eraseDups).take 2)

/-! ### Reading images at dispatch (R224, R225) -/

/-- Bytes read at dispatch, or the state in which the instruction stops: trapped, or held until an answer comes. -/
inductive ImageRead where
  | got (b : List Byte) (s : State)
  | stop (s : State)

/-- n bytes at a global address read by the current strand after those it has, a page at a time, with the read and user rights; the
first poisoned byte traps. A part that lies in another device is asked for and holds the strand. -/
def State.readImage (s : State) (va n : Nat) : Nat → List Byte → ImageRead
  | 0, b => .got b s
  | fuel + 1, b =>
    let ea := va + b.length
    let left := n - b.length
    if left = 0 then .got b s
    else
      let size := Nat.min left (65536 - ea % 65536)
      let c := s.cur.core
      let r := s.scalarReach ea size needRead
      let s' := r.2
      let here := fun (l : Loc) (pa leaf : Nat) =>
        let s1 := s'.touchLine (clusterOf c) pa (leafPolicy leaf) false
        match (granules ea size).find? (fun g =>
            let a := Nat.max ea (32 * g)
            s'.poisonedAt (l.plus (a - ea)) 1 && !((List.range 32).all (fun j =>
              decide (32 * g + j < ea) || decide (ea + size ≤ 32 * g + j) || (s'.forward c (l.plus (32 * g + j - ea)) s.me.buffer).isSome))) with
        | some g => ImageRead.stop (s1.takeTrap causePoisonConsumed (BitVec.ofNat 64 (Nat.max ea (32 * g))))
        | none => s1.readImage va n fuel (b ++ s1.loadBytes c s.cur.strand l size)
      match r.1 with
      | .trap e => .stop (s'.takeTrap e (BitVec.ofNat 64 ea))
      | .cut dev => .stop (s'.cutTrap dev)
      | .wait => .stop (s'.holdWithheld ea)
      | .ok pa leaf =>
        match s'.cutOff (s'.locOf pa), s'.locOf pa with
        | some dev, _ => .stop (s'.cutTrap dev)
        | none, .remote dev a =>
          let seq := (s'.flow dev clsRequest).next
          .stop ((s'.send dev clsRequest opRead a [size, forStrand, c, s.cur.strand, seq] [] 0 c).holdResponse
            ⟨0, size, false, false, none, ea, pa, none, b, 4, s.time, seq⟩)
        | none, l => here l pa leaf

/-- n bytes at an address of a space, 0 global and 1 sp, given the bytes already read. -/
def State.readSpace (s : State) (space a n : Nat) (have' : List Byte) : ImageRead :=
  if space = 0 then s.readImage a n 3 have'
  else match s.blockRefusal a 1 n with
    | some r => .stop (s.refuse r)
    | none => .got (s.dispatchBytes a n) s

/-! ### Dispatch -/

/-- A command put into the VE queue by the current strand. -/
def State.pushVe (s : State) (c : VeCmd) (f : Reg) : State :=
  let w := s.mine
  (s.setMine { w with veq := w.veq ++ [⟨c, f.toNat, s.cur.strand, w.graph.period, false⟩] }).complete 4

/-- The frame of every element command: the guard, room in the queue, then its own work (R223). -/
def State.dispatchVe (s : State) (g : Pred) (k : State → State) : State :=
  if !(s.me.getP g) then s.complete 4 else if veDepth ≤ s.mine.veq.length then s else k s

/-- A plane of the idle configuration as the commands dispatched so far leave it. -/
def Crew.comingPlane (w : Crew) (e : Nat) : Plane := tget w.coming.planes e emptyPlane
def Crew.setComing (w : Crew) (e : Nat) (p : Plane) : Crew := { w with coming := { w.coming with planes := tset w.coming.planes e p } }

/-- The checks on an image read for ve.plane, and the command queued (R224). -/
def State.finishPlane (s : State) (b : List Byte) (e : Nat) (f : Reg) : State :=
  let w := s.mine
  let header := ofBytes (b.take 8)
  let words := (List.range 16).map (fun i => ofBytes ((b.drop (8 + 8 * i)).take 8))
  let valid := header % 2 ^ 16
  let p := w.comingPlane e
  let part := w.info.part.toNat
  if 2 ^ 18 ≤ header then s.refuse (configAt 0)
  else match imageBad (vprivOf part) (vsharedOf part) (portIns p.ports) (portOuts p.ports) e valid 0 words with
    | some r => s.refuse r
    | none =>
      let slots := (maskBits 16 valid).map (fun i => (i, words.getD i 0))
      let db := field header 17 16
      (s.setMine (w.setComing e { p with defbank := db, valid := valid, slots := slots })).pushVe (.plane e db valid slots) f

/-- ve.plane with the bytes of its image already read. -/
def State.loadPlane (s : State) (a b f : Reg) (have' : List Byte) : State :=
  let x := (s.me.getX a).toNat
  let v := (s.me.getX b).toNat
  if x % 8 ≠ 0 then s.refuse (causeMisaligned, x)
  else if 2 ^ 4 ≤ v then s.refuse configB
  else match s.readSpace (field v 3 3) x 136 have' with
    | .stop t => t
    | .got bytes t => t.finishPlane bytes (v % 8) f

/-- R224. -/
def execVePlane (a b f : Reg) (g : Pred) (s : State) : Out := .next (s.dispatchVe g (fun t => t.loadPlane a b f []))

/-- ve.konst with the bytes of its words already read (R225). -/
def State.loadKonst (s : State) (a b f : Reg) (have' : List Byte) : State :=
  let x := (s.me.getX a).toNat
  let v := (s.me.getX b).toNat
  let first := field v 9 4
  let n := field v 16 10
  if x % 4 ≠ 0 then s.refuse (causeMisaligned, x)
  else if 2 ^ 17 ≤ v ∨ n = 0 ∨ 64 < first + n then s.refuse configB
  else match s.readSpace (field v 3 3) x (4 * n) have' with
    | .stop t => t
    | .got bytes t => t.pushVe (.konst (v % 8) first ((List.range n).map (fun i => ofBytes ((bytes.drop (4 * i)).take 4)))) f

/-- R225. -/
def execVeKonst (a b f : Reg) (g : Pred) (s : State) : Out := .next (s.dispatchVe g (fun t => t.loadKonst a b f []))

/-- The channels that a slot's word consumes and produces (R203). -/
def wordIns (w : Nat) : List Nat :=
  let t := trigFields w
  (if t.cen then [t.chan.toNat] else []) ++ (match trigShape (trigOp w) with | some sh => t.reads sh | none => [])
def wordOuts (w : Nat) : List Nat := match (trigFields w).dest with | some c => [c] | none => []

/-- Is a port word well formed (R226)? -/
def bindWordOk (v : Nat) : Bool :=
  let chs := portIns v ++ portOuts v
  decide (v < 2 ^ 36) && (List.range 6).all (fun i => v.testBit (6 * i + 5) || field v (6 * i + 4) (6 * i) == 0)
    && chs.eraseDups.length == chs.length

/-- R226. -/
def execVeBind (a b f : Reg) (g : Pred) (s : State) : Out :=
  .next (s.dispatchVe g (fun t =>
    let x := (t.me.getX a).toNat
    let e := (t.me.getX b).toNat
    let w := t.mine
    let p := w.comingPlane (e % 8)
    let kept := p.slots.all (fun q => (wordIns q.2).all (fun c => (portIns x).contains c) && (wordOuts q.2).all (fun c => (portOuts x).contains c))
    let key := keyElement (e % 8)
    if !(bindWordOk x) then t.refuse configA
    else if 8 ≤ e then t.refuse configB
    else if !kept then t.refuse configA
    else match w.firstConflict w.coming false key [] (portIns x), w.firstConflict w.coming true key [] (portOuts x) with
      | some c, _ => t.refuse (causeChannel, c)
      | none, some c => t.refuse (causeChannel, c)
      | none, none => (t.setMine (w.setComing e { p with ports := x })).pushVe (.bind e x) f))

/-- R227. -/
def execVeSwap (a b f : Reg) (g : Pred) (s : State) : Out :=
  .next (s.dispatchVe g (fun t =>
    let x := (t.me.getX a).toNat
    let e := (t.me.getX b).toNat
    if 32 ≤ x then t.refuse configA else if 8 ≤ e then t.refuse configB else t.pushVe (.swap e x) f))

/-- R228. -/
def execVeStart (a f : Reg) (g : Pred) (s : State) : Out :=
  .next (s.dispatchVe g (fun t =>
    let x := (t.me.getX a).toNat
    if 256 ≤ x then t.refuse configA else t.pushVe (.start x) f))

/-- R228. -/
def execVeStop (a f : Reg) (g : Pred) (s : State) : Out :=
  .next (s.dispatchVe g (fun t =>
    let x := (t.me.getX a).toNat
    if 256 ≤ x then t.refuse configA else t.pushVe (.stop x) f))

/-- Are the names of a register transfer acceptable (R229)? -/
def transferOk (p v first n : Nat) : Bool :=
  if first = 832 then n == 1
  else
    let last := first + n - 1
    let shared := decide (128 ≤ first) && decide (last < 256)
    let own := decide (256 ≤ first) && decide (last < 768) && (first - 256) / 128 == (last - 256) / 128
    decide (1 ≤ n) && decide (n ≤ 128) && (shared || own) && regImplemented p v last

/-- The dispatch of ve.rd and ve.wr (R229). DESIGN CHOICE, log 103. -/
def State.dispatchTransfer (s : State) (a b f : Reg) (g : Pred) (mk : Nat → Nat → Nat → Nat → VeCmd) : State :=
  s.dispatchVe g (fun t =>
    let x := (t.me.getX a).toNat
    let v := (t.me.getX b).toNat
    let first := field v 12 3
    let n := field v 20 13
    let part := t.mine.info.part.toNat
    if x % 32 ≠ 0 then t.refuse (causeMisaligned, x)
    else if 2 ^ 21 ≤ v ∨ transferOk (vprivOf part) (vsharedOf part) first n = false then t.refuse configB
    else if t.mine.spSize < x + 32 * n then t.refuse (causeBounds, Nat.max x t.mine.spSize)
    else t.pushVe (mk x (v % 8) first n) f)

/-- R229. -/
def execVeRd (a b f : Reg) (g : Pred) (s : State) : Out := .next (s.dispatchTransfer a b f g .rd)
/-- R229. -/
def execVeWr (a b f : Reg) (g : Pred) (s : State) : Out := .next (s.dispatchTransfer a b f g .wr)

/-! ### The head of the VE queue (R223) -/

/-- The element of a command that writes a plane. -/
def VeCmd.writesPlane : VeCmd → Option Nat
  | .plane e _ _ _ => some e
  | .bind e _ => some e
  | .konst e _ _ => some e
  | _ => none

/-- The idle plane with a command's words. -/
def Plane.written (p : Plane) : VeCmd → Plane
  | .plane _ db valid slots => { p with defbank := db, valid := valid, slots := slots }
  | .bind _ ports => { p with ports := ports }
  | .konst _ first words => { p with consts := (List.range words.length).foldl (fun t i => tset t (first + i) (BitVec.ofNat 32 (words.getD i 0))) p.consts }
  | _ => p

/-- The head of the VE queue gone, with its signal. -/
def Crew.veDone (w : Crew) (sem : Nat) : Crew := ({ w with veq := w.veq.tail } : Crew).signal sem

/-- A swap armed, refused, or carried out at once (R219, R227). -/
def Crew.veSwap (w : Crew) (e ch sem : Nat) : Crew :=
  let x := w.elem e
  let u : Crew := { w with veq := w.veq.tail }
  if x.armed || !((portIns x.active.ports).contains ch) || x.idle.ports != x.active.ports then
    (u.setElem e { x with flags := flagsSet x.flags 8 }).signal sem
  else
    let y := { x.withState x.running true x.stopping ch with swapSem := sem }
    let u1 := u.setElem e y
    if !x.running || x.active.valid == 0 then u1.swapNow e else u1

/-- Elements of a mask changed. -/
def Crew.modElems (w : Crew) (mask : Nat) (f : Element → Element) : Crew := (maskBits 8 mask).foldl (fun u e => u.setElem e (f (u.elem e))) w

/-- One register written to the scratchpad, with its flags committed (R229). -/
def State.readOut (s : State) (core a e name : Nat) : State :=
  let x := (s.crew core).elem e
  let lanes := (List.range 8).map (x.reg name)
  let bytes := (lanes.map (fun l => bytesOf 4 l.v.toNat)).flatten
  (s.writeLoc (.pool core a) bytes (lanes.any Lane.poison)).modCrew core (fun w =>
    w.setElem e ((w.elem e).commit (lanes.foldl (fun f l => f ||| l.df) 0)))

/-- An element's register with the eight lanes of 32 bytes, clean or poisoned, and no deferred field. -/
def Element.fillReg (x : Element) (name : Nat) (b : List Byte) (poison : Bool) : Element :=
  (List.range 8).foldl (fun y l => y.setReg name l ⟨BitVec.ofNat 32 (ofBytes ((b.drop (4 * l)).take 4)), 0, poison⟩) x

/-- One register loaded from the scratchpad. -/
def State.readIn (s : State) (core a e name : Nat) : State :=
  let l := Loc.pool core a
  s.modCrew core (fun w => w.setElem e ((w.elem e).fillReg name (s.bytesAt l 32) (s.poisonedAt l 32)))

/-- The predicate block's bytes, and the block loaded from 32 bytes, clean or poisoned (R229). -/
def Element.predBytes (x : Element) : List Byte := (List.range 32).map (fun i => x.pred (i / 8) (i % 8))
def Element.fillPreds (x : Element) (b : List Byte) (poison : Bool) : Element :=
  if poison then { x with preds := [], flags := flagsSet x.flags 6 }
  else { x with preds := (List.range 32).map (fun i => (i, b.getD i 0)) }

/-- The predicate block loaded from the scratchpad. -/
def State.predIn (s : State) (core a e : Nat) : State :=
  let l := Loc.pool core a
  s.modCrew core (fun w => w.setElem e ((w.elem e).fillPreds (s.bytesAt l 32) (s.poisonedAt l 32)))

/-- A register transfer of a strand at the head of the queue as one action (R229), after the strand's earlier stores to its bytes (R306). -/
def State.veTransfer (s : State) (core strand : Nat) (c : VeCmd) : State :=
  match c with
  | .rd a e first n =>
    if first = 832 then (s.dispatchEdge core strand (.pool core a) 32).writeLoc (.pool core a) ((s.crew core).elem e).predBytes false
    else (List.range n).foldl (fun t i => t.readOut core (a + 32 * i) e (first + i)) (s.dispatchEdge core strand (.pool core a) (32 * n))
  | .wr a e first n =>
    if first = 832 then (s.dispatchEdge core strand (.pool core a) 32).predIn core a e
    else (List.range n).foldl (fun t i => t.readIn core (a + 32 * i) e (first + i)) (s.dispatchEdge core strand (.pool core a) (32 * n))
  | _ => s

/-- The head of the VE queue acts (R223 to R229). A wave entry leaves when its element passes. -/
def State.veHead (s : State) (core : Nat) : State :=
  let w := s.crew core
  match w.veq with
  | [] => s
  | c :: rest =>
    let plane := fun (e : Nat) =>
      if (w.elem e).armed then s
      else
        let x := w.elem e
        s.setCrew core ((w.setElem e { x with idle := x.idle.written c.cmd }).veDone c.sem)
    match c.cmd with
    | .plane e _ _ _ => plane e
    | .bind e _ => plane e
    | .konst e _ _ => plane e
    | .swap e ch => s.setCrew core (w.veSwap e ch c.sem)
    | .start m => s.setCrew core ((w.modElems m (fun x => x.withState true x.armed x.stopping x.swapch)).veDone c.sem)
    | .stop m =>
      if !c.begun then
        s.setCrew core { w.modElems m (fun x => if x.running then x.withState true x.armed true x.swapch else x) with veq := { c with begun := true } :: rest }
      else if (maskBits 8 m).any (fun e => (w.elem e).running) then s
      else s.setCrew core (w.veDone c.sem)
    | .wave _ => s
    | _ => if w.memReady c.period then (s.veTransfer core c.strand c.cmd).modCrew core (fun u => u.veDone c.sem) else s

/-- R228: a stopping element, with no firing in progress, becomes stopped. -/
def execElementStopComplete (core element : Nat) (s : State) : Out :=
  .next (s.engine core (fun w =>
    let x := w.elem element
    if x.stopping then some (w.setElem element (x.withState false x.armed false x.swapch)) else none))

/-! ### The terminator at an element (R205, R220) -/

/-- The wave entries that stand before every other command of the VE queue: the elements they name. -/
def wavesAhead : List VeEntry → List Nat
  | [] => []
  | c :: r => match c.cmd with | .wave e => e :: wavesAhead r | _ => []

/-- The first wave entry of an element gone from the queue. -/
def dropWave (e : Nat) : List VeEntry → List VeEntry
  | [] => []
  | c :: r => if c.cmd = .wave e then r else c :: dropWave e r

/-- The passage of an element: its markers consumed, those of its outputs placed, the planes switched and an armed swap disarmed. DEDUCED, log 71. -/
def Crew.elementPass (w : Crew) (v : Wave) (e : Nat) : Option Crew :=
  let x := w.elem e
  let ins := portIns x.active.ports
  if !((wavesAhead w.veq).contains e) || !(ins.all (fun c => (w.chan c).view == .marker)) then none
  else
    let u := (ins.foldl (fun t c => t.dequeue c) w).placeMarkers v (portOuts x.active.ports)
    let u1 : Crew := { u with veq := dropWave e u.veq }
    let u2 := if x.armed then (u1.setElem e x.disarm.switch).signal x.swapSem else u1.setElem e x.switch
    some u2

end Sys2Proof.Machine
end

