-- ==== Sys2Proof/Machine/Waves.lean ====
section
/-!
DEFINITION. Waves and the terminator's passage (spec 06, R153 to R159, R164).
-/
namespace Sys2Proof.Machine
open Sys2Proof

/-! ### wave (R164) -/

/-- The elements a wave's mask names. -/
def waveElements (mask : Nat) : List Nat := maskBits 8 (field mask 9 2)

/-- Have the queues that a wave's entries go to room? -/
def Crew.waveRoom (w : Crew) (mask : Nat) : Bool :=
  decide (w.streams.queue.length < smDepth)
    && (!(mask.testBit 1) || decide (w.array.cfgq.length < acDepth))
    && decide (w.veq.length + (waveElements mask).length ≤ veDepth)

/-- The bindings of the period that begins: those of the engines in the mask are the ones written for it. -/
def Crew.nextShadow (w : Crew) (mask : Nat) : Shadow where
  nodes := if mask.testBit 0 then w.coming.nodes else w.now.nodes
  maps := if mask.testBit 0 then w.coming.maps else w.now.maps
  array := if mask.testBit 1 then w.coming.array else w.now.array
  planes := (waveElements mask).foldl (fun t e => tset t e (w.comingPlane e)) w.now.planes

/-- The graph engine's account of periods after a wave's dispatch. -/
def Graph.addWave (g : Graph) (mask sem strand : Nat) (abandon : Bool) : Graph :=
  { g with
    waves := g.waves ++ [⟨mask, abandon, sem, strand, false, [], [], g.slotIns⟩]
    period := g.period + 1
    graphPeriod := g.graphPeriod + b2n (mask.testBit 0)
    slotIns := []
    smOuts := [] }

/-- A wave's entries placed in the queues of a crew, and its period ended. -/
def Crew.addWave (w : Crew) (mask sem strand : Nat) (abandon : Bool) : Crew :=
  let p := w.graph.period
  let sm : SmCmd := ⟨.wave, mask, b2n abandon, 0, strand, sem, [], 0, none, p⟩
  let ar : ArCmd := ⟨.wave, mask, b2n abandon, 0, [], sem, strand, w.array.nextSeq, w.array.period, p⟩
  let w1 := w.opened strand
  { w1 with
    graph := w1.graph.addWave mask sem strand abandon
    now := w1.nextShadow mask
    streams := { w1.streams with queue := w1.streams.queue ++ [sm] }
    array := if mask.testBit 1 then { w1.array with cfgq := w1.array.cfgq ++ [ar], period := w1.array.period + 1 } else w1.array
    veq := w1.veq ++ (waveElements mask).map (fun e => ⟨.wave e, sem, strand, p, false⟩) }

/-- R164. -/
def execWave (a b f : Reg) (g : Pred) (s : State) : Out :=
  .next
    (if !(s.me.getP g) then s.complete 4
     else
       let x := (s.me.getX a).toNat
       let y := (s.me.getX b).toNat
       match firstRefusal [(decide (x < 2 ^ 10), configA), (decide (y < 2), configB)] with
       | some r => if s.mine.smFull then s else s.refuse r
       | none =>
         if s.mine.waveRoom x then (s.setMine (s.mine.addWave x f.toNat s.cur.strand (y == 1))).complete 4 else s)

/-! ### The SM entry (R155) -/

/-- Does an engine of the mask that has not passed produce into a channel in the old period? -/
def Crew.oldProducer (w : Crew) (v : Wave) (ch : Nat) : Bool :=
  engineKeys.any (fun k => v.names k && !(smem v.passed k) && (w.active.uses true k).contains ch)

/-- The wave at the head changed. -/
def Crew.setWave (w : Crew) (v : Wave) : Crew := { w with graph := { w.graph with waves := v :: w.graph.waves.tail } }

/-- A node or gate in its new plane: its entry, its captured map, its state cleared, a gate's credit as its word gives it. -/
def Crew.switchNode (w : Crew) (key : Nat) : Crew :=
  let g := w.graph
  let entry := tfind g.idle.nodes key
  let plane : GraphPlane := { g.active with
    nodes := (match entry with | some x => tset g.active.nodes key x | none => tdel g.active.nodes key)
    maps := (match tfind g.idle.maps key with | some m => tset g.active.maps key m | none => tdel g.active.maps key) }
  { w with graph := { g with
      active := plane
      states := tdel g.states key
      credits := if key < 20 then g.credits
        else (match entry with | some x => tset g.credits key (field x 26 11) | none => tdel g.credits key) } }

/-- The graph engine past the terminator once all its nodes and gates are: the spill entries of the new plane, and the idle plane
its copy (R154). -/
def Crew.finishGraph (w : Crew) (v : Wave) : Crew :=
  if v.names 0 && !(smem v.passed 29) && (List.range 28).all (smem v.passed) then
    let plane : GraphPlane := { w.graph.active with spills := w.graph.idle.spills }
    let w1 := ({ w with graph := { w.graph with active := plane, idle := plane, graphPassed := w.graph.graphPassed + 1 } } : Crew).setWave
      { v with passed := sadd v.passed 29 }
    w1.settleSpills
  else w

/-- An engine of the moving wave noted as passed. -/
def Crew.notePassed (w : Crew) (v : Wave) (key : Nat) : Crew :=
  let v1 := { v with passed := sadd v.passed key }
  ((w.setWave v1).finishGraph v1).settleSpills

/-- A node or gate passes: its input markers consumed, its markers placed, its new plane entered (R155). -/
def Crew.nodePass (w : Crew) (v : Wave) (key : Nat) : Option Crew :=
  match tfind w.graph.active.nodes key with
  | none => some ((w.switchNode key).notePassed v key)
  | some wd =>
    let ins := nodeIns key wd
    let st := w.nodeState key
    if st.phase == .idle && st.buf.isEmpty && st.surplus.isNone && ins.all (fun c => (w.chan c).view == .marker) then
      let u := (ins.foldl (fun t c => t.dequeue c) w).placeMarkers v (nodeOuts key wd (tget w.graph.active.maps key []))
      some ((u.switchNode key).notePassed v key)
    else none

/-- The nodes and gates without an entry in the old plane pass at once. -/
def Crew.passDisabled (w : Crew) : Crew :=
  (List.range 28).foldl (fun u k =>
    match u.moving with
    | some v => if v.names k && (tfind u.graph.active.nodes k).isNone && !(smem v.passed k) then (u.nodePass v k).getD u else u
    | none => u) w

/-- The wave's SM entry at the head of its queue: the slots still at old work noted, and markers placed on the channels that have a
consumer and no producer in the old period. A wave in progress holds it (R159). -/
def Crew.waveEntry (w : Crew) : Option Crew :=
  match w.streams.queue, w.graph.waves with
  | c :: _, v :: _ =>
    if c.op == .wave && !v.begun then
      let v1 := { v with begun := true, slots := w.streams.slots.map (·.1) }
      let w1 := (w.setWave v1).popSm
      let free := (List.range 32).filter (fun ch => !(w1.oldStreamTo ch) && !(w1.oldProducer v1 ch))
      some (w1.placeMarkers v1 free).passDisabled
    else none
  | _, _ => none

/-- R155. -/
def execWaveSmEntry (core : Nat) (s : State) : Out := .next (s.engine core Crew.waveEntry)

/-! ### The passage of an engine (R155, R156) -/

/-- A channel that stream or NX commands of the old period took from: its marker consumed once none of them is left (R158). -/
def Crew.slotMarkers (w : Crew) (v : Wave) : Option Crew :=
  match v.slotIns.find? (fun ch => (w.chan ch).view == .marker && !(w.oldStreamFrom ch)) with
  | some ch => some ((w.dequeue ch).setWave { v with slotIns := sdel v.slotIns ch })
  | none => none

/-- Is a channel's consumer outside the mask: an engine the wave does not name, or an elastic endpoint? -/
def Crew.outsideConsumer (w : Crew) (v : Wave) (ch : Nat) : Bool :=
  (tfind w.endpoints ch).isSome || engineKeys.any (fun k => !(v.names k) && (w.active.uses false k).contains ch)

/-- A marker at the head of a channel whose consumer does not take part consumed without effect (R155). -/
def Crew.outsideMarkers (w : Crew) (v : Wave) : Option Crew :=
  match (List.range 32).find? (fun ch => (w.chan ch).view == .marker && w.outsideConsumer v ch) with
  | some ch => some (w.dequeue ch)
  | none => none

/-- One passage, by key: 0 to 27 nodes and gates, 28 the array, 29 the spill entries (which pass with the last node), 30 the stream
slots' input channels, 31 channels consumed outside the mask, 32 + e element e. -/
def Crew.passage (w : Crew) (core key : Nat) : Option Crew :=
  match w.moving with
  | none => none
  | some v =>
    if key = 30 then w.slotMarkers v
    else if key = 31 then w.outsideMarkers v
    else if !(v.names key) || smem v.passed key then none
    else if key < 28 then w.nodePass v key
    else if key = 28 then
      (w.arrayPass v core).map (fun u => if u.array.passed = w.array.passed then u else u.notePassed v key)
    else if 32 ≤ key ∧ key < 40 then (w.elementPass v (key - 32)).map (fun u => u.notePassed v key)
    else none

/-- R155, R156. Pending spare leaves of the core are moved with the passage of the array (R359). -/
def execTerminatorPassage (core engine : Nat) (s : State) : Out :=
  .next (if (s.core core).held then
      (match (s.crew core).passage core engine with
       | some w => let s1 := s.setCrew core w.settleSpills
         if engine = 28 then (s1.spareMoves core).mapRows core else s1
       | none => s)
    else s)

/-! ### Completion (R158) -/

/-- The engines that a wave's mask names, with the graph's spill entries. -/
def waveKeys (v : Wave) : List Nat := (engineKeys ++ [29]).filter v.names

/-- Has everything in the mask passed, and is every old-period channel's marker consumed? -/
def Crew.waveOver (w : Crew) (v : Wave) : Bool :=
  (waveKeys v).all (smem v.passed) && v.slots.isEmpty && v.slotIns.isEmpty
    && !(w.xgets.any (fun c => decide (c.period ≤ w.oldPeriod)))
    && (List.range 32).all (fun ch => !((w.chan ch).hasMarker))

/-- R158. -/
def execWaveComplete (core : Nat) (s : State) : Out :=
  .next (s.engine core (fun w =>
    match w.moving with
    | none => none
    | some v =>
      if w.waveOver v then
        some (({ w with graph := { w.graph with waves := w.graph.waves.tail } } : Crew).settleSpills.smDone v.strand v.sem)
      else none))

end Sys2Proof.Machine
end

