-- ==== Sys2Proof/Machine/Outbound.lean ====
section
/-!
DEFINITION. The dispatch of NX, collective and handover commands (spec 09, R239, R240, R243): their checks, and what they capture.
-/
namespace Sys2Proof.Machine
open Sys2Proof

/-! ### Blocks (R240) -/

/-- A field of a command's block. -/
def NxCmd.at' (c : NxCmd) (o n : Nat) : Nat := blkAt c.blk o n

/-- Bytes of a block that a command does not name: they must be zero, and the first that is not is reported. -/
def unused (blk o n : Nat) : Bool × Refused :=
  match (List.range n).find? (fun i => blkAt blk (o + i) 1 != 0) with
  | some i => (false, configAt (o + i))
  | none => (true, configAt o)

/-- A range of the scratchpad named by a command: [a, a + n) in [0, S), or BOUNDS with the lowest byte outside. -/
def Crew.within (w : Crew) (a n : Nat) : Bool × Refused :=
  (n == 0 || decide (a + n ≤ w.spSize), (causeBounds, Nat.max a w.spSize))

/-- The frame of every dispatch of these majors: the guard, room in the queue, and checks 1 and 2 of R93 on the block with its
poison (Table 11.4); then `k` with the block's address and the block. -/
def State.dispatchNx (s : State) (a : Reg) (g : Pred) (k : Nat → Nat → State) : State :=
  if !(s.me.getP g) then s.complete 4
  else if nxDepth ≤ s.mine.nxq.length then s
  else
    let x := (s.me.getX a).toNat
    match s.blockRefusal x 64 64 with
    | some r => s.refuse r
    | none => k x (ofBytes (s.dispatchBytes x 64))

/-- A command put into the NX queue by the current strand. -/
def State.pushNx (s : State) (op : NxOp) (addr blk chans : Nat) (list : List Nat) (f : Reg) : State :=
  let w := s.mine
  let c : NxCmd := ⟨op, addr, blk, chans, list, f.toNat, s.cur.strand, w.nxSeq, w.graph.period⟩
  (s.setMine { w with nxq := w.nxq ++ [c], nxSeq := w.nxSeq + 1 }).complete 4

/-- A command whose checks are a list of refusals. -/
def State.dispatchPlain (s : State) (op : NxOp) (a f : Reg) (g : Pred) (checks : Nat → List (Bool × Refused)) : State :=
  s.dispatchNx a g (fun x blk =>
    match firstRefusal (checks blk) with
    | some r => s.refuse r
    | none => s.pushNx op x blk 0 [] f)

/-! ### nx.put, nx.get (R245) -/

/-- The checks on a copy's block. -/
def Crew.copyChecks (w : Crew) (blk : Nat) : List (Bool × Refused) :=
  let len := blkAt blk 0x10 4
  let ctl := blkAt blk 0x14 4
  let faddr := blkAt blk 0x18 8
  [(decide (1 ≤ len) && decide (len ≤ 16777216), configAt 0x10),
   (decide (ctl < 32) && decide (field ctl 3 1 ≤ 5), configAt 0x14),
   (faddr % 8 == 0 && (ctl.testBit 4 || faddr == 0), configAt 0x18), unused blk 0x28 16,
   if ctl.testBit 0 then w.within (blkAt blk 0 8) len else (true, configA)]

/-- R245. -/
def execNxPut (a f : Reg) (g : Pred) (s : State) : Out := .next (s.dispatchPlain .put a f g s.mine.copyChecks)
/-- R245. -/
def execNxGet (a f : Reg) (g : Pred) (s : State) : Out := .next (s.dispatchPlain .get a f g s.mine.copyChecks)

/-! ### nx.xget (R246) -/

/-- The element size of an indexed remote read. -/
def xgetSize (blk : Nat) : Nat := 4 * 2 ^ field (blkAt blk 0x10 4) 7 6

/-- The checks on an indexed remote read: its block, its channel word, its channels. -/
def Crew.xgetChecks (w : Crew) (blk xb : Nat) : List (Bool × Refused) :=
  let ctl := blkAt blk 0x10 4
  let npeer := blkAt blk 0x18 4
  let ix := field xb 4 0
  let out := field xb 9 5
  [(blkAt blk 0 8 % xgetSize blk == 0, configAt 0), (blkAt blk 8 8 % 64 == 0, configAt 8),
   (decide (ctl < 512) && decide (field ctl 1 0 < 2), configAt 0x10),
   (decide (1 ≤ npeer) && decide (npeer ≤ 2048), configAt 0x18),
   (blkAt blk 0x1C 4 % xgetSize blk == 0, configAt 0x1C), unused blk 0x20 24, (decide (xb < 2 ^ 10), configB),
   (ix != out, (causeChannel, ix)), (!(w.roleTaken w.now false ix 99), (causeChannel, ix)),
   (!(w.roleTaken w.now true out 99) && !(smem w.graph.smOuts out), (causeChannel, out))]

/-- R246: the channels count as the period's (R244). -/
def execNxXget (a b f : Reg) (g : Pred) (s : State) : Out :=
  .next (s.dispatchNx a g (fun x blk =>
    let xb := (s.me.getX b).toNat
    match firstRefusal (s.mine.xgetChecks blk xb) with
    | some r => s.refuse r
    | none =>
      let w := s.mine
      let w1 := { w with graph := { w.graph with slotIns := sadd w.graph.slotIns (field xb 4 0) } }
      (s.setMine w1).pushNx .xget x blk xb [] f))

/-! ### nx.send, nx.route (R251, R252) -/

/-- R251. -/
def execNxSend (a f : Reg) (g : Pred) (s : State) : Out :=
  .next (s.dispatchPlain .send a f g (fun blk =>
    let len := blkAt blk 4 4
    [(decide (len ≤ 4032), configAt 4), (decide (blkAt blk 8 2 < 2048), configAt 8), unused blk 0xB 5, unused blk 0x18 32,
     s.mine.within (blkAt blk 0 4) len]))

/-- R252. -/
def execNxRoute (a f : Reg) (g : Pred) (s : State) : Out :=
  .next (s.dispatchPlain .route a f g (fun blk =>
    let n := blkAt blk 4 4
    let nexp := blkAt blk 0xC 4
    let w := s.mine
    [(decide (1 ≤ n) && decide (n ≤ 65536), configAt 4), (decide (1 ≤ nexp) && decide (nexp ≤ 255), configAt 0xC),
     (decide (blkAt blk 0x14 4 ≤ 4032), configAt 0x14), (blkAt blk 0x20 4 % 4 == 0, configAt 0x20),
     (decide (blkAt blk 0x24 4 < 4), configAt 0x24), unused blk 0x28 16,
     w.within (blkAt blk 0 4) (4 * n), w.within (blkAt blk 8 4) (4 * nexp),
     w.within (blkAt blk 0x1C 4) (nexp * blkAt blk 0x20 4 + 4 + 4 * n)]))

/-! ### nx.ring (R250) -/

/-- The pages of a ring's declaration translated: their frames, or the first failure. -/
def State.ringPages (s : State) (core : Nat) : List Nat → List Nat → Pages × List Nat × State
  | [], acc => (.ok [], acc, s)
  | va :: rest, acc =>
    let r := s.bindPage core va true true
    match r.1 with
    | .trap c => (if c = causeConfig then .class2 va else .trap c va, [], r.2)
    | .cut dev => (.trap causeFabricUnreachable (s.cutValue dev), [], r.2)
    | .wait => (.wait va, [], r.2)
    | .ok pa _ => r.2.ringPages core rest (acc ++ [pa])

/-- The first byte of every 64 KiB page of a range. -/
def pageStarts (base n : Nat) : List Nat :=
  (List.range ((base + n - 1) / 65536 + 1 - base / 65536)).map (fun i => Nat.max base ((base / 65536 + i) * 65536))

/-- R250. The list captured holds the control block's physical address, then the frames of the ring. A retiring nx.ring's fields have the same limits
(R240; DEDUCED, log 54). -/
def execNxRing (a f : Reg) (g : Pred) (s : State) : Out :=
  .next (s.dispatchNx a g (fun x blk =>
    let base := blkAt blk 0 8
    let ctrl := blkAt blk 8 8
    let z := blkAt blk 0x10 4
    let ctl := blkAt blk 0x14 4
    let en := ctl.testBit 0
    match firstRefusal [(base % 64 == 0, configAt 0), (ctrl % 64 == 0, configAt 8),
        (z == 2 ^ z.log2 && decide (4096 ≤ z) && decide (z ≤ 2 ^ 28), configAt 0x10),
        (decide (ctl < 2 ^ 10), configAt 0x14), unused blk 0x18 32] with
    | some r => s.refuse r
    | none =>
      if !en then s.pushNx .ring x blk 0 [] f
      else
        let r := s.ringPages s.cur.core (pageStarts base z ++ [ctrl]) []
        match r.1 with
        | .trap c va => r.2.2.refuse (c, va)
        | .class2 va => r.2.2.refuse (causeConfig, va)
        | .wait va => r.2.2.holdWithheld va
        | .ok _ =>
          let pas := r.2.1
          r.2.2.pushNx .ring x blk 0 (pas.getLastD 0 :: (pas.dropLast.map (fun p => p / 65536 * 65536))) f))

/-! ### nx.chan (R254) -/

/-- R254. A retiring nx.chan frees nothing at dispatch. -/
def execNxChan (a f : Reg) (g : Pred) (s : State) : Out :=
  .next (s.dispatchPlain .chan a f g (fun blk =>
    let ctl := blkAt blk 0 4
    let ch := field ctl 6 2
    let prod := ctl.testBit 1
    let w := s.mine
    let slots := w.streamHolds prod ch || (prod && smem w.graph.smOuts ch)
    [(decide (ctl < 128), configAt 0), (decide (blkAt blk 4 4 < 4096), configAt 4), unused blk 0xA 2, unused blk 0x10 40,
     (!(ctl.testBit 0) || !(w.roleTaken w.now prod ch 99 || w.roleTaken w.coming prod ch 99 || slots), (causeChannel, ch))]))

/-! ### Collectives (R258, R259) -/

/-- R258. -/
def execCollGrp (a f : Reg) (g : Pred) (s : State) : Out :=
  .next (s.dispatchPlain .grp a f g (fun blk =>
    let ctl := blkAt blk 0 4
    let nlocal := field ctl 20 9
    let ndev := blkAt blk 0x10 4
    [(decide (ctl < 2 ^ 21) && decide (1 ≤ nlocal) && decide (nlocal ≤ 448), configAt 0),
     (decide (blkAt blk 4 4 < nlocal), configAt 4),
     (decide (1 ≤ ndev) && decide (ndev ≤ 2048), configAt 0x10), unused blk 0x14 36]))

/-- The checks on a collective's block (R259). DEDUCED, log 52. -/
def Crew.collChecks (w : Crew) (op : NxOp) (blk : Nat) : List (Bool × Refused) :=
  let src := blkAt blk 0 4
  let dst := blkAt blk 4 4
  let len := blkAt blk 8 4
  let ctl := blkAt blk 0xC 4
  let flt := op == .flt
  let n := if flt then blkAt blk 0x18 4 else len
  let code := op == .red || op == .ar
  let root := op == .red || op == .bc
  [(src % 32 == 0, configAt 0), (dst % 32 == 0, configAt 4), (len % 32 == 0, configAt 8),
   (decide (ctl < 2 ^ 24) && (if code then decide (field ctl 11 8 < 8) else field ctl 11 8 == 0)
     && (root || field ctl 23 12 == 0), configAt 0xC),
   if flt then (n % 32 == 0, configAt 0x18) else unused blk 0x10 12, unused blk 0x1C 28,
   w.within src len, w.within dst n, (!(rangesMeet src len dst n) || len == 0 || n == 0, configAt 4)]

/-- R259. -/
def execCollRed (a f : Reg) (g : Pred) (s : State) : Out := .next (s.dispatchPlain .red a f g (s.mine.collChecks .red))
/-- R259. -/
def execCollBc (a f : Reg) (g : Pred) (s : State) : Out := .next (s.dispatchPlain .bc a f g (s.mine.collChecks .bc))
/-- R259. -/
def execCollFlt (a f : Reg) (g : Pred) (s : State) : Out := .next (s.dispatchPlain .flt a f g (s.mine.collChecks .flt))
/-- R259. -/
def execCollAr (a f : Reg) (g : Pred) (s : State) : Out := .next (s.dispatchPlain .ar a f g (s.mine.collChecks .ar))

/-! ### Handover (R264 to R266) -/

/-- The dispatch of a handover command: its own checks, then its page list read and captured. -/
def State.dispatchHand (s : State) (op : NxOp) (a f : Reg) (g : Pred) (own : Nat → List (Bool × Refused) × List (Bool × Refused)) :
    State :=
  s.dispatchNx a g (fun x blk =>
    let plist := blkAt blk 0 4
    let n := blkAt blk 4 4
    let o := own blk
    match firstRefusal ((decide (1 ≤ n) && decide (n ≤ 256), configAt 4) :: o.1 ++
        [(plist % 8 == 0, (causeMisaligned, plist)), s.mine.within plist (8 * n)] ++ o.2) with
    | some r => s.refuse r
    | none =>
      match s.dispatchPoison plist (8 * n) with
      | some p => s.refuse (causePoisonConsumed, p)
      | none =>
        let b := s.dispatchBytes plist (8 * n)
        let pages := (List.range n).map (fun i => ofBytes ((b.drop (8 * i)).take 8))
        match pages.find? (fun p => p % 65536 != 0) with
        | some p => s.refuse (causeMisaligned, p)
        | none => s.pushNx op x blk 0 pages f)

/-- R264. -/
def execHandRel (a f : Reg) (g : Pred) (s : State) : Out :=
  .next (s.dispatchHand .rel a f g (fun blk =>
    ([(decide (blkAt blk 8 4 < 56), configAt 8), unused blk 0xE 42], [])))

/-- R265. -/
def execHandAcq (a f : Reg) (g : Pred) (s : State) : Out :=
  .next (s.dispatchHand .acq a f g (fun blk => ([unused blk 0xC 44], [])))

/-- R266. -/
def execHandQuery (a f : Reg) (g : Pred) (s : State) : Out :=
  .next (s.dispatchHand .query a f g (fun blk =>
    ([(blkAt blk 8 4 % 8 == 0, configAt 8), unused blk 0xC 44], [s.mine.within (blkAt blk 8 4) (8 * blkAt blk 4 4)])))

end Sys2Proof.Machine
end

