-- ==== Sys2Proof/Machine/NxWork.lean ====
section
/-!
DEFINITION. The NX engine at work (spec 09, R239 to R252): remote copies, indexed remote reads, receive rings, messages, and expert
dispatch.
-/
namespace Sys2Proof.Machine
open Sys2Proof

/-! ### Commands in progress -/

def Crew.job (w : Crew) (key : Nat) : Option NxJob := tfind w.nx key
def Crew.setJob (w : Crew) (key : Nat) (j : NxJob) : Crew := { w with nx := tset w.nx key j }
def State.putJob (s : State) (core key : Nat) (j : NxJob) : State := s.modCrew core (fun w => w.setJob key j)

/-- A step of a command in progress on a held core; nothing where LATENCY_BROKEN holds it (R80). -/
def State.onJob (s : State) (core key : Nat) (f : NxJob → State) : State :=
  if (s.core core).held then
    (match (s.crew core).job key with
     | some j => if j.broken = none then f j else s
     | none => s)
  else s

/-- The first failure of a command kept as its status. -/
def NxJob.note (j : NxJob) (code detail : Nat) : NxJob := if j.code = 0 then { j with code := code, detail := detail % 2 ^ 24 } else j

/-- A command with nothing left but to complete. -/
def NxJob.finish (j : NxJob) : NxJob := { j with phase := .finished }
def NxJob.fail (j : NxJob) (code detail : Nat) : NxJob := (j.note code detail).finish

/-- Status codes (Table 9.3). -/
def nxOwner : Nat := 0x30
def nxUnreachable : Nat := 0x31
def nxRingFull : Nat := 0x32
def nxNoRing : Nat := 0x33
def nxXlate : Nat := 0x34
def nxMismatch : Nat := 0x35
def nxDegraded : Nat := 0x36
def nxStale : Nat := 0x37
def nxBusy : Nat := 0x38
def nxLater : Nat := 0x39
def nxHctl : Nat := 0x3A

/-- Is the command a collective, which takes no trap for UNREACHABLE (R242)? -/
def NxOp.isColl : NxOp → Bool
  | .grp | .red | .bc | .flt | .ar => true
  | _ => false

/-- The status word of a command (Table 9.2). -/
def NxJob.status (j : NxJob) : Nat := j.code % 256 + j.detail % 2 ^ 24 * 2 ^ 8 + j.count % 2 ^ 32 * 2 ^ 32

/-- The markers of an nx.xget of the old period, placed when it completes (R155, R244). -/
def Crew.xgetPassed (w : Crew) (c : NxCmd) : Crew :=
  match w.moving with
  | some v => if c.op == .xget && decide (c.period ≤ w.oldPeriod) then (w.placeMarkers v [c.output]).settleSpills else w
  | none => w

/-- A command completes: its status word written, its semaphore signalled, then the traps of R242. -/
def State.nxFinish (s : State) (core key : Nat) (j : NxJob) : State :=
  let c := j.cmd
  let s1 := s.modCrew core (fun w => ({ w with nx := tdel w.nx key } : Crew).xgetPassed c)
  let l := Loc.pool core (c.addr + 0x38)
  let s2 := ((s1.dispatchEdge core c.strand l 8).writeLoc l (bytesOf 8 j.status) false).modCrew core (fun w => w.signal c.sem)
  if j.code = nxUnreachable ∧ c.op.isColl = false then
    s2.modCrew core (fun w => w.postTrap c.strand causeFabricUnreachable (BitVec.ofNat 64 j.detail))
  else if j.code = nxOwner then
    s2.modCrew core (fun w => w.postTrap c.strand causeOwner (BitVec.ofNat 64 (j.ownerVa.getD 0)))
  else s2

/-- A command held at an address by a trap of its strand: LATENCY_BROKEN where the page is not resident (R80). -/
def State.nxBroken (s : State) (core key : Nat) (j : NxJob) (va : Nat) (cause : Cause) : State :=
  let w := s.crew core
  let k := (w.trapTarget j.cmd.strand).getD j.cmd.strand
  (s.setCrew core (w.postTrap j.cmd.strand cause (BitVec.ofNat 64 va))).putJob core key { j with broken := some (k, false) }

/-! ### What an address of the global space reaches for a command -/

/-- What a virtual address reaches. -/
inductive Target where
  | here (l : Loc) (pa policy : Nat)
  | remote (dev a : Nat)
  /-- a translation failure, with its code of Table 4.11 -/
  | xlate (code : Nat)
  | owner
  | unreachable (dev : Nat)
  /-- a trap of the strand that holds the command -/
  | broken (cause : Cause)
  | wait
  deriving DecidableEq, Repr

/-- A virtual address translated for a command (Table 4.5, R261, R270). The host window has no device identifier (DESIGN CHOICE, log 32). A line that a
sparse-update unit owns is waited for (R88). An access that software must not make is CONFIG (R7; DEDUCED, log 87). -/
def State.target (s : State) (core strand key va size : Nat) (n : Need) : Target × State :=
  let r := s.translate (clusterOf core) (s.crew core).info.ctx va n
  (match r.1 with
   | .absent => .xlate 0x02
   | .malformed => .xlate 0x04
   | .permission => .xlate 0x03
   | .notResident => .broken causeLatencyBroken
   | .withheld => .wait
   | .unreachable dev => .unreachable (dev.getD (s.freeNat 34))
   | .ok pa leaf =>
     if !(s.ownerOk (clusterOf core) pa leaf) then .owner
     else if s.saveBarred core strand va size n.write then .broken causeConfig
     else if s.mustWait core (32 + key) pa leaf size then .wait
     else match r.2.cutOff (r.2.locOf pa), r.2.locOf pa with
       | some dev, _ => .unreachable (dev.getD (s.freeNat 34))
       | none, .remote dev a => .remote dev a
       | none, l => if n.write && !(r.2.windowWritable core pa) then .xlate 0x03 else .here l pa (leafPolicy leaf), r.2)

/-- A failure at an address noted: the page's index is counted from the command's first page on that side. -/
def NxJob.noteTarget (j : NxJob) (t : Target) (start va : Nat) : NxJob :=
  match t with
  | .xlate c => j.note nxXlate c
  | .unreachable d => j.note nxUnreachable d
  | .owner => if j.code = 0 then { j.note nxOwner (va / 65536 - start / 65536) with ownerVa := some va } else j
  | _ => j

/-! ### Bytes brought to the engine -/

/-- n bytes at a place as pieces, one for each 32-byte granule touched, with its poison. -/
def State.piecesAt (s : State) (l : Loc) (a o n : Nat) : List (Nat × List Byte × Bool) :=
  (granules a n).map (fun g =>
    let lo := Nat.max a (32 * g)
    let hi := Nat.min (a + n) (32 * g + 32)
    (o + (lo - a), s.bytesAt (l.plus (lo - a)) (hi - lo), s.poisonedAt (l.plus (lo - a)) (hi - lo)))

/-- A range of addresses as runs within 64 KiB pages: offsets and lengths. -/
def pageRuns (a n : Nat) : List (Nat × Nat) :=
  (List.range ((a + n + 65535) / 65536 - a / 65536)).map (fun i =>
    let lo := Nat.max a ((a / 65536 + i) * 65536)
    let hi := Nat.min (a + n) ((a / 65536 + i + 1) * 65536)
    (lo - a, hi - lo))

/-- What bringing bytes in comes to. -/
inductive Brought where
  | ready | waiting | broken (va : Nat) (cause : Cause)
  deriving DecidableEq, Repr

/-- A command withheld at an address, keeping the time of its first wait (R80). -/
def State.withholdJob (s : State) (j : NxJob) (va : Nat) : NxJob :=
  match j.withheld with
  | some (v, _) => if v = va then j else { j with withheld := some (va, s.time) }
  | none => { j with withheld := some (va, s.time) }

/-- The runs of a range of the global space brought to a command: bytes of the device at once, bytes of another device asked for, a failing run
noted and left without bytes. The strand's stores made before the dispatch are seen (R306). -/
def State.bring (s : State) (core key start va : Nat) (j : NxJob) : List (Nat × Nat) → Brought × State × NxJob
  | [] => (.ready, s, j)
  | (o, n) :: rest =>
    if j.pieces.any (fun p => p.1 == o) then s.bring core key start va j rest
    else
      let r := s.target core j.cmd.strand key (va + o) n needRead
      match r.1 with
      | .here l pa policy =>
        let s0 := r.2.dispatchEdge core j.cmd.strand l n
        let s1 := s0.touchRange (clusterOf core) pa n policy false
        s1.bring core key start va { j with pieces := j.pieces ++ s0.piecesAt l (va + o) o n } rest
      | .remote dev a =>
        if j.asked.contains o then (.waiting, r.2, j)
        else if r.2.flowOpen dev clsRequest then
          (.waiting, (r.2.dispatchEdge core j.cmd.strand (.remote dev a) n).send dev clsRequest opRead a [n, forJob, core, key, o, (s.crew core).info.tag] [] 0 core, { j with asked := o :: j.asked })
        else (.waiting, r.2, j)
      | .broken c => (.broken (va + o) c, r.2, j)
      | .wait => (.waiting, r.2, s.withholdJob j (va + o))
      | t => r.2.bring core key start va { j.noteTarget t start (va + o) with pieces := j.pieces ++ [(o, [], false)] } rest

/-- The bytes of pieces one by one, with their offsets and poison. -/
def spread (ps : List (Nat × List Byte × Bool)) : List (Nat × Byte × Bool) :=
  (ps.map (fun p => (p.2.1.zipIdx).map (fun b => (p.1 + b.2, b.1, p.2.2)))).flatten

/-- The bytes of one granule written as one write: with gaps between them each byte in its own place. -/
def State.writePiece (s : State) (l : Loc) (own : List (Nat × Byte × Bool)) : State :=
  let bad := own.any (fun x => x.2.2)
  match own with
  | [] => s
  | b :: _ =>
    if own.zipIdx.all (fun x => x.1.1 == b.1 + x.2) then s.writeLoc (l.plus b.1) (own.map (fun x => x.2.1)) bad
    else own.foldl (fun t x => t.writeLoc (l.plus x.1) [x.2.1] bad) s

/-- Bytes written to a place granule by granule: each aligned granule of the destination is one write, poisoned where a byte of it
came from a poisoned granule (R245). -/
def State.writePieces (s : State) (l : Loc) (a : Nat) (bs : List (Nat × Byte × Bool)) (n : Nat) : State :=
  (granules a n).foldl (fun t g => t.writePiece l (bs.filter (fun b => (a + b.1) / 32 == g))) s

/-- The poison field of a packet: bit i for granule i of the destination range, the first granule that a byte goes to being 0 (Table
9.8). -/
def poisonMask (a : Nat) (bs : List (Nat × Byte × Bool)) : Nat :=
  let first := (bs.head?.map (·.1)).getD 0
  bs.foldl (fun m b => if b.2.2 then setBit m ((a + b.1) / 32 - (a + first) / 32) true else m) 0

/-! ### nx.put, nx.get (R245) -/

/-- The two sides of a copy: is the source, is the destination, in the scratchpad, and their addresses. -/
structure Copy where
  srcSp : Bool
  dstSp : Bool
  src : Nat
  dst : Nat
  len : Nat
  deriving DecidableEq, Repr

def NxCmd.copy (c : NxCmd) : Copy :=
  let lsp := c.blk.testBit 0xA0
  let l := c.at' 0 8
  let r := c.at' 8 8
  if c.op = .put then ⟨lsp, false, l, r, c.at' 0x10 4⟩ else ⟨false, lsp, r, l, c.at' 0x10 4⟩

/-- The length of the unit at a position: to the destination's next 4 KiB boundary. DEDUCED, log 53. -/
def Copy.unit (c : Copy) (pos : Nat) : Nat := Nat.min (c.len - pos) (4096 - (c.dst + pos) % 4096)

/-- The unit's bytes written or sent, and the copy past it. A packet to another device says which command and which packet it is, so that a refusal finds
it. -/
def State.copyOut (s : State) (core key : Nat) (j : NxJob) (c : Copy) : State :=
  let d := c.dst + j.pos
  let n := c.unit j.pos
  let bs := spread j.pieces
  let next := { j with pos := j.pos + n, pieces := [], asked := [], withheld := none }
  let landed := { next with count := j.count + bs.length }
  if c.dstSp then ((s.dispatchEdge core j.cmd.strand (.pool core d) n).writePieces (.pool core d) d bs n).putJob core key landed
  else
    let r := s.target core j.cmd.strand key d n needWrite
    match r.1 with
    | .here l pa policy =>
      (((r.2.dispatchEdge core j.cmd.strand l n).writePieces l d bs n).touchRange (clusterOf core) pa n policy true).putJob core key landed
    | .remote dev a =>
      if bs.isEmpty then r.2.putJob core key next
      else if r.2.flowOpen dev clsRequest then
        let s1 := r.2.dispatchEdge core j.cmd.strand (.remote dev a) n
        let seq := (s1.flow dev clsRequest).next
        (s1.send dev clsRequest opWrite (a + (bs.head?.map (·.1)).getD 0) [bs.length, forPacket, core, key, d, seq] (bs.map (fun b => b.2.1))
          (poisonMask d bs) core).putJob core key { next with sent := (4 * dev + clsRequest, seq) :: j.sent }
      else r.2.putJob core key j
    | .broken c => r.2.nxBroken core key j d c
    | .wait => r.2.putJob core key (s.withholdJob j d)
    | t => r.2.putJob core key (next.noteTarget t c.dst d)

/-- The flag store of a copy whose every byte has been performed (R245). -/
def State.copyFlag (s : State) (core key : Nat) (j : NxJob) : State :=
  let va := j.cmd.at' 0x18 8
  let bs := bytesOf 8 (j.cmd.at' 0x20 8)
  let r := s.target core j.cmd.strand key va 8 needWrite
  match r.1 with
  | .here l pa policy =>
    (((r.2.dispatchEdge core j.cmd.strand l 8).writeLoc l bs false).touchLine (clusterOf core) pa policy true).putJob core key j.finish
  | .remote dev a =>
    let s1 := r.2.dispatchEdge core j.cmd.strand (.remote dev a) 8
    let seq := (s1.flow dev clsRequest).next
    (s1.send dev clsRequest opWrite a [8, forPacket, core, key, va, seq] bs 0 core).putJob core key
      { j.finish with sent := [(4 * dev + clsRequest, seq)] }
  | .broken c => r.2.nxBroken core key j va c
  | .wait => r.2.putJob core key (s.withholdJob j va)
  | t => r.2.putJob core key (j.noteTarget t va va).finish

/-- One step of nx.put or nx.get: the next unit brought in and written; then the flag, once every byte is performed. -/
def State.copyStep (s : State) (core key : Nat) (j : NxJob) : State :=
  let c := j.cmd.copy
  if c.len ≤ j.pos then
    (if j.sent ≠ [] then s
     else if j.cmd.blk.testBit 0xA4 && j.count == c.len then s.copyFlag core key j
     else s.putJob core key j.finish)
  else
    let a := c.src + j.pos
    let n := c.unit j.pos
    if c.srcSp then
      let s1 := s.dispatchEdge core j.cmd.strand (.pool core a) n
      s1.copyOut core key { j with pieces := s1.piecesAt (.pool core a) a 0 n } c
    else
      let r := s.bring core key c.src a j (pageRuns a n)
      match r.1 with
      | .ready => r.2.1.copyOut core key r.2.2 c
      | .waiting => r.2.1.putJob core key r.2.2
      | .broken va c => r.2.1.nxBroken core key r.2.2 va c

/-! ### nx.xget (R246) -/

/-- Does another party hold a channel of an nx.xget in the same role? -/
def Crew.xgetBlocked (w : Crew) (j : NxJob) : Bool :=
  w.streams.slots.any (fun a => a.2.cmd.outs.contains j.cmd.output || a.2.cmd.ins.contains j.cmd.index)
    || w.nx.any (fun k => k.2.cmd.op == .xget && decide (k.2.cmd.seq < j.cmd.seq)
        && (k.2.cmd.output == j.cmd.output || k.2.cmd.index == j.cmd.index))

/-- Index slots of a token, and elements of an output token. -/
def NxCmd.ixWidth (c : NxCmd) : Nat := if field (c.at' 0x10 4) 1 0 = 0 then 16 else 32
def NxCmd.elemBits (c : NxCmd) : Nat := 8 * xgetSize c.blk

/-- The address an index names, or none where it lies outside the peers' windows. -/
def NxCmd.elementAt (c : NxCmd) (x : Nat) : Nat × Bool :=
  let sh := field (c.at' 0x10 4) 5 2
  let p := x / 2 ^ sh
  let o := x % 2 ^ sh
  (c.at' 0 8 + p * c.at' 8 8 + o * xgetSize c.blk,
    decide (p < c.at' 0x18 4) && decide ((o + 1) * xgetSize c.blk ≤ c.at' 0x1C 4))

/-- An indexed read at its end: the token in progress closed, and the rank-7 stop that endstop asks for. -/
def NxCmd.xgetEnd (c : NxCmd) (a : Active) : Active :=
  let x := a.closeOut
  { x with ended := true, send := x.send ++ (if (c.at' 0x10 4).testBit 8 then [stopToken 7 c.strand] else []) }

/-- Has the command taken its count of indices? -/
def NxCmd.counted (c : NxCmd) (a : Active) : Bool := c.at' 0x14 4 != 0 && decide (c.at' 0x14 4 ≤ a.pos)

/-- One index slot used. -/
def State.xgetNext (s : State) (core key : Nat) (j : NxJob) (a : Active) : State :=
  let c := j.cmd
  let x := { a with pos := a.pos + 1, sub1 := a.sub1 + 1 }
  let full := if x.outN * c.elemBits = 256 then x.closeOut else x
  let done' := c.counted full
  let last := decide (256 / c.ixWidth ≤ full.sub1) || done'
  let y := if last then { full with sub1 := 0 } else full
  let s1 := if last then s.modCrew core (fun w => w.dequeue c.index) else s
  s1.putJob core key { j with gather := some (if done' then c.xgetEnd y else y) }

/-- The device that an address of the fabric window names. -/
def State.deviceAt (s : State) (core strand key va : Nat) : Nat :=
  match (s.target core strand key va 1 needRead).1 with
  | .unreachable d => d
  | .remote d _ => d
  | _ => 0

/-- One index followed. -/
def State.xgetIndex (s : State) (core key : Nat) (j : NxJob) (a : Active) (t : Token) : State :=
  let c := j.cmd
  let x := t.data / 2 ^ (c.ixWidth * a.sub1) % 2 ^ c.ixWidth
  let e := c.elementAt x
  let w := c.elemBits
  if t.poison then s.xgetNext core key j (a.putOut w 0 true)
  else if !e.2 then (s.countMade core a 0x01).xgetNext core key j (a.failOut 0x01 e.1)
  else
    let q := s.readElem (clusterOf core) core (64 + key) 0 a e.1 (w / 8)
    match q.1 with
    | .value v p => q.2.1.xgetNext core key j (q.2.2.putOut w v p)
    | .held =>
      let b := q.2.2
      q.2.1.putJob core key { j with gather := some { b with broken := none }, broken := b.broken, withheld := b.withheld }
    | .error code =>
      let code' := if code = 0x07 then nxUnreachable else code
      let j' := if code = 0x07 then j.note nxUnreachable (s.deviceAt core c.strand key e.1)
        else if code = 0x30 then (if j.code = 0 then { j.note nxOwner (a.pos % 2 ^ 24) with ownerVa := some e.1 } else j)
        else j.note nxXlate code
      (q.2.1.countMade core a code').xgetNext core key j' (q.2.2.failOut code' e.1)

/-- A token of an nx.xget sent, if its output has room. -/
def Crew.xgetFlush (w : Crew) (key : Nat) (j : NxJob) (a : Active) : Crew :=
  match a.send with
  | [] => w
  | t :: r =>
    if w.canSend t j.cmd.output && w.mayWrite (w.isNew j.cmd.period) 99 j.cmd.output then
      (w.enqueue t j.cmd.output).setJob key { j with gather := some { a with send := r } }
    else w

/-- One step of nx.xget. In a save it holds, as a source does. -/
def State.xgetStep (s : State) (core key : Nat) (j : NxJob) : State :=
  let c := j.cmd
  let w := s.crew core
  match j.gather with
  | none => s
  | some a =>
    let put := fun (t : State) (x : Active) => t.putJob core key { j with gather := some x }
    if w.xgetBlocked j || w.stopped then s
    else if a.send ≠ [] then s.modCrew core (fun u => u.xgetFlush key j a)
    else if a.ended then s.putJob core key j.finish
    else if a.outN = 0 ∧ w.creditFor c.output = false then s
    else if !(w.mayRead (w.isNew c.period) 99 c.index) then s
    else match (w.chan c.index).head with
    | none => s
    | some t =>
      let taken := s.modCrew core (fun u => u.dequeue c.index)
      if t.isStop then
        (if t.rank = 0 then taken
         else if t.rank = 7 then put taken (c.xgetEnd a)
         else
           let x := a.closeOut
           put taken { x with send := x.send ++ [stopToken t.rank c.strand] })
      else if t.kind = kindCount then taken
      else if t.kind = kindError then
        let x := a.closeOut
        let y := { x with send := x.send ++ [{ t with bank := c.strand }], pos := a.pos + 256 / c.ixWidth }
        put taken (if c.counted y then c.xgetEnd y else y)
      else s.xgetIndex core key j a t

/-! ### Receive rings (R247 to R250) -/

/-- The physical address of position p of a ring, in wrap mode beyond Z at its start. -/
def RecvRing.place (r : RecvRing) (p : Nat) : Nat :=
  let o := r.offset + p % r.size
  r.frames.getD (o / 65536) 0 + o % 65536

/-- 64-byte lines written into a ring from position p on; a granule whose number from the record's start is listed is poisoned. -/
def State.writeRing (s : State) (r : RecvRing) (p : Nat) (bs : List Byte) (poison : List Nat) : State :=
  (List.range ((bs.length + 31) / 32)).foldl (fun t i =>
    let pa := r.place (p + 32 * i)
    (t.recall pa 32).writeLoc (t.locOf pa) ((bs.drop (32 * i)).take 32) (poison.contains i)) s

/-- A record's header (Table 9.5). -/
def ringHeader (len kind choice dev seq tile tag : Nat) : List Byte :=
  bytesOf 4 len ++ bytesOf 1 kind ++ bytesOf 1 choice ++ bytesOf 2 dev ++ bytesOf 4 seq ++ bytesOf 4 tile ++ bytesOf 8 tag ++ bytesOf 40 0

/-- A message: payload bytes with their poisoned granules, and the header fields that its sender gives. -/
structure Message where
  payload : List Byte
  poison : List Nat
  choice : Nat
  dev : Nat
  tile : Nat
  tag : Nat
  deriving DecidableEq, Repr

/-- Bytes of a message's record. -/
def Message.recordLength (m : Message) : Nat := 64 + 64 * ((m.payload.length + 63) / 64)

/-- The record of a message under a sequence number, and its poisoned granules. -/
def Message.record (m : Message) (seq : Nat) : List Byte × List Nat :=
  let b := ringHeader m.payload.length 1 m.choice m.dev seq m.tile m.tag ++ m.payload
  (b ++ List.replicate (m.recordLength - b.length) 0, m.poison.map (· + 2))

/-- The free bytes of a ring as its consumer's head gives them. -/
def State.ringFree (s : State) (r : RecvRing) : Nat :=
  let h := ofBytes (s.bytesAt (s.locOf (r.ctrl + 8)) 8)
  let f : Int := (r.size : Int) - ((r.tail : Int) - (h : Int))
  if f < 0 ∨ (r.size : Int) < f then 0 else f.toNat

/-- Tail published. -/
def State.publishTail (s : State) (r : RecvRing) : State :=
  (s.recall r.ctrl 8).writeLoc (s.locOf r.ctrl) (bytesOf 8 r.tail) false

/-- The strand's earlier stores to a ring of this device and to its control block performed before a command that it dispatched reads the ring's head or writes a
record into it (R306). -/
def State.ringEdges (s : State) (core strand id : Nat) : State :=
  match tfind s.rings id with
  | some r =>
    r.frames.foldl (fun t f => t.dispatchEdge core strand (t.locOf f) 65536) (s.dispatchEdge core strand (s.locOf r.ctrl) 16)
  | none => s

/-- Admit of R248 at this device: a status code and its detail, for an admitted record its position. -/
def State.letIn (s : State) (id : Nat) (m : Message) : (Nat × Nat) × State :=
  match tfind s.rings id with
  | none => ((nxNoRing, id), s)
  | some r =>
    let rec' := m.recordLength
    let free := s.ringFree r
    let pos := r.tail % r.size
    let pad := if r.contiguous && decide (r.size < pos + rec') then r.size - pos else 0
    if free < pad + rec' then ((nxRingFull, Nat.min free (2 ^ 24 - 1)), s)
    else
      let s1 := if pad = 0 then s else s.writeRing r pos (ringHeader pad 2 0 0 r.seq 0 0) []
      let r1 := if pad = 0 then r else { r with tail := r.tail + pad, seq := (r.seq + 1) % 2 ^ 32 }
      let b := m.record r1.seq
      let s2 := s1.writeRing r1 (r1.tail % r1.size) b.1 b.2
      let r2 := { r1 with tail := r1.tail + rec', seq := (r1.seq + 1) % 2 ^ 32 }
      ((0, r1.tail % r.size), ({ s2 with rings := tset s2.rings id r2 } : State).publishTail r2)

/-- nx.ring at work (R250). DEDUCED, log 54. -/
def State.ringStep (s : State) (core key : Nat) (j : NxJob) : State :=
  let c := j.cmd
  let ctl := c.at' 0x14 4
  let id := field ctl 9 2
  let me := (s.crew core).info
  match tfind s.rings id with
  | some r =>
    if ctl.testBit 0 then s.putJob core key (j.fail nxBusy id)
    else if r.launch = me.launch ∧ r.tile = me.tile then
      ({ s with rings := tdel s.rings id } : State).putJob core key j.finish
    else s.putJob core key (j.fail nxNoRing id)
  | none =>
    if ctl.testBit 0 then
      let ctrl := c.list.headD 0
      let r : RecvRing := ⟨me.launch, me.tile, c.at' 0 8 % 65536, c.list.tail, c.at' 0x10 4, ctl.testBit 1, ctrl, 0, 0⟩
      let s1 := ((s.dispatchEdge core c.strand (s.locOf ctrl) 16).recall ctrl 16).writeLoc (s.locOf ctrl) (bytesOf 16 0) false
      ({ s1 with rings := tset s1.rings id r } : State).putJob core key j.finish
    else s.putJob core key (j.fail nxNoRing id)

/-! ### Messages (R249, R251) -/

/-- The message of a payload in the scratchpad, with poison by granule of the payload. -/
def State.messageOf (s : State) (core a n choice tag : Nat) : Message :=
  let l := Loc.pool core a
  ⟨s.bytesAt l n, (List.range ((n + 31) / 32)).filter (fun i => s.poisonedAt (l.plus (32 * i)) (Nat.min 32 (n - 32 * i))),
    choice, s.sys.devid, (s.crew core).info.tile, tag⟩

/-- Must a command's admissions wait for those of an earlier command of the engine (R249)? -/
def Crew.admitsLater (w : Crew) (j : NxJob) : Bool :=
  w.nx.any (fun k => decide (k.2.cmd.seq < j.cmd.seq) && k.2.phase != .finished &&
    (k.2.cmd.op == .route || (k.2.cmd.op == .send && k.2.phase == .run)))

/-- What sending a message to a ring of a device comes to. -/
inductive Sending where
  /-- the answer of this device's own ring: code and detail -/
  | answered (code detail : Nat)
  | sent
  | noRoute
  | wait
  deriving DecidableEq, Repr

/-- A message of a command of a strand sent to a ring: admitted here, or its record sent as an admission request with its poison field. -/
def State.sendMessage (s : State) (core strand key dev ring : Nat) (m : Message) : Sending × State :=
  if dev = s.sys.devid then
    let r := (s.ringEdges core strand ring).letIn ring m
    (.answered r.1.1 r.1.2, r.2)
  else if !(s.routeUp dev) then (.noRoute, s)
  else if !(s.flowOpen dev clsAtomic) then (.wait, s)
  else
    let b := m.record 0
    (.sent, s.send dev clsAtomic opAdmit ring [m.payload.length, m.choice, m.tile, m.tag, 4, core, key] b.1
      (b.2.foldl (fun x i => setBit x i true) 0) core)

/-- The message that nx.send captured when it started. -/
def NxJob.message (j : NxJob) (dev tile : Nat) : Message :=
  let ps := j.pieces
  ⟨(ps.map (fun p => p.2.1)).flatten, (ps.filter (fun p => p.2.2)).map (fun p => p.1 / 32), 0, dev, tile, j.cmd.at' 0x10 8⟩

/-- The answer of an admission to nx.send. -/
def NxJob.answered (j : NxJob) (code detail : Nat) : NxJob :=
  if code = 0 then { j with phase := .finished, count := 1 } else j.fail code detail

/-- nx.send's admission (R248, R251). -/
def State.sendStep (s : State) (core key : Nat) (j : NxJob) : State :=
  if j.phase ≠ .run ∨ (s.crew core).admitsLater j = true then s
  else
    let dev := j.cmd.at' 8 2
    let r := s.sendMessage core j.cmd.strand key dev (j.cmd.at' 0xA 1) (j.message s.sys.devid (s.crew core).info.tile)
    match r.1 with
    | .answered c d => r.2.putJob core key (j.answered c d)
    | .sent => r.2.putJob core key { j with phase := .waiting, sent := [(4 * dev + clsAtomic, (s.flow dev clsAtomic).next)] }
    | .noRoute => r.2.putJob core key (j.fail nxUnreachable dev)
    | .wait => s

/-! ### nx.route (R252) -/

/-- The fields of a route's block. -/
structure Route where
  asg : Nat
  count : Nat
  etab : Nat
  nexp : Nat
  rows : Nat
  rowlen : Nat
  rowstride : Nat
  sl : Nat
  slstride : Nat
  second : Bool
  deriving DecidableEq, Repr

def NxCmd.route (c : NxCmd) : Route :=
  ⟨c.at' 0 4, c.at' 4 4, c.at' 8 4, c.at' 0xC 4, c.at' 0x10 4, c.at' 0x14 4, c.at' 0x18 4, c.at' 0x1C 4, c.at' 0x20 4, c.blk.testBit 0x121⟩

/-- An n32 of a core's scratchpad. -/
def State.poolWord (s : State) (core a : Nat) : Nat := ofBytes (s.bytesAt (.pool core a) 4)

/-- An assignment: token, first and second choice. -/
def assignment (w : Nat) : Nat × Nat × Nat := (field w 15 0, field w 23 16, field w 31 24)

/-- The strand's stores made before the dispatch performed before the route unit reads an assignment, the expert table and a row (R306). -/
def State.routeEdges (s : State) (core strand : Nat) (r : Route) (i : Nat) : State :=
  let s1 := (s.dispatchEdge core strand (.pool core (r.asg + 4 * i)) 4).dispatchEdge core strand (.pool core r.etab) (4 * r.nexp)
  let t := (assignment (s1.poolWord core (r.asg + 4 * i))).1
  s1.dispatchEdge core strand (.pool core (r.rows + t * r.rowstride)) r.rowlen

/-- The expert table's entry of an expert that is valid. -/
def State.expert (s : State) (core : Nat) (r : Route) (e : Nat) : Option Nat :=
  if e < r.nexp then
    let w := s.poolWord core (r.etab + 4 * e)
    if w.testBit 19 then some w else none
  else none

/-- An entry appended to a send list, its count after it; the engine's counts stand in `asked`. -/
def State.appendList (s : State) (core key : Nat) (j : NxJob) (r : Route) (d entry : Nat) (admitted : Bool) : State :=
  let n := j.asked.getD d 0
  let a := r.sl + d * r.slstride
  let s1 := ((s.dispatchEdge core j.cmd.strand (.pool core a) (4 * n + 8)).writeLoc (.pool core (a + 4 + 4 * n)) (bytesOf 4 entry) false).writeLoc (.pool core a) (bytesOf 4 (n + 1)) false
  s1.putJob core key { j with asked := j.asked.set d (n + 1), pos := j.pos + 1, count := j.count + b2n admitted, phase := .run }

/-- An assignment that no send admitted, its entry in the overflow list; were the experts it tried valid? -/
def State.routeOverflow (s : State) (core key : Nat) (j : NxJob) (word : Nat) (bad : Bool) : State :=
  let r := j.cmd.route
  let a := assignment word
  let invalid := bad || (r.second && (s.expert core r a.2.2).isNone)
  s.appendList core key j r r.nexp (a.1 + 2 ^ 17 * b2n invalid) false

/-- A message of an assignment sent to its choice n, 1 or 2; what follows where it is not admitted, and where the flow has no room for it. -/
def State.routeSend (s : State) (core key : Nat) (j : NxJob) (n e entry word : Nat) (bad : Bool) (otherwise : State → NxJob → State) (full : State) : State :=
  let r := j.cmd.route
  let a := assignment word
  let m := s.messageOf core (r.rows + a.1 * r.rowstride) r.rowlen n (a.1 + 2 ^ 16 * e)
  let dev := field entry 10 0
  let q := s.sendMessage core j.cmd.strand key dev (field entry 18 11) m
  match q.1 with
  | .answered c _ => if c = 0 then q.2.appendList core key j r e (a.1 + 2 ^ 16 * (n - 1)) true else otherwise q.2 j
  | .sent => q.2.putJob core key { j with phase := .choice n dev word bad, sent := [(4 * dev + clsAtomic, (s.flow dev clsAtomic).next)] }
  | .noRoute => otherwise q.2 (j.note nxUnreachable dev)
  | .wait => full

/-- The second choice, where the command allows one and it is valid; else the overflow list. A flow without room leaves it for a later step. -/
def State.routeSecond (s : State) (core key : Nat) (j : NxJob) (word : Nat) (bad : Bool) : State :=
  let r := j.cmd.route
  let a := assignment word
  match (if r.second then s.expert core r a.2.2 else none) with
  | some entry => s.routeSend core key j 2 a.2.2 entry word bad (fun t k => t.routeOverflow core key k word bad)
      (s.putJob core key { j with phase := .second word bad })
  | none => s.routeOverflow core key j word bad

/-- The next assignment resolved as far as it can be (R252). -/
def State.routeNext (s : State) (core key : Nat) (j : NxJob) : State :=
  let r := j.cmd.route
  if r.count ≤ j.pos then
    s.putJob core key (if j.code = 0 then { j.finish with detail := j.asked.getD r.nexp 0 % 2 ^ 24 } else j.finish)
  else
    let word := s.poolWord core (r.asg + 4 * j.pos)
    let a := assignment word
    let row := r.rows + a.1 * r.rowstride
    if (s.crew core).spSize < row + r.rowlen then s.appendList core key j r r.nexp (a.1 + 2 ^ 18) false
    else match s.expert core r a.2.1 with
      | some entry => s.routeSend core key j 1 a.2.1 entry word false (fun t k => t.routeSecond core key k word false) s
      | none => s.routeSecond core key j word true

/-- The answer to a choice of the assignment in progress: admitted, refused, or given up for want of a route. -/
def State.routeAnswered (s : State) (core key : Nat) (j : NxJob) (admitted : Bool) : State :=
  let r := j.cmd.route
  match j.phase with
  | .choice n _ word bad =>
    let a := assignment word
    if admitted then s.appendList core key j r (if n = 1 then a.2.1 else a.2.2) (a.1 + 2 ^ 16 * (n - 1)) true
    else if n = 1 then s.routeSecond core key j word bad
    else s.routeOverflow core key j word bad
  | _ => s

/-- One step of nx.route: an assignment, or the second choice of the one in progress, also where its first choice has been given up for want of a route. -/
def State.routeStep (s : State) (core key : Nat) (j : NxJob) : State :=
  if (s.crew core).admitsLater j then s
  else
    let s1 := s.routeEdges core j.cmd.strand j.cmd.route j.pos
    match j.phase with
    | .run => s1.routeNext core key j
    | .second word bad => s1.routeSecond core key j word bad
    | .choice _ _ _ _ => if j.sent = [] then s1.routeAnswered core key j false else s
    | _ => s

/-- R252: an assignment of nx.route. -/
def execRouteResolve (core entry : Nat) (s : State) : Out :=
  .next (s.onJob core entry (fun j => if j.cmd.op = .route then s.routeStep core entry j else s))

/-- R248: the admission of nx.send's message, by this device or by its ring's. -/
def execRingAdmission (core entry : Nat) (s : State) : Out :=
  .next (s.onJob core entry (fun j => if j.cmd.op = .send then s.sendStep core entry j else s))

end Sys2Proof.Machine
end

