-- ==== Sys2Proof/Machine/Handover.lean ====
section
/-!
DEFINITION. Handover of pages between clusters (spec 09, R260 to R266), and elastic channels (R147, R253, R254).
-/
namespace Sys2Proof.Machine
open Sys2Proof

/-! ### Pages of a handover command -/

/-- What a page of a handover command is: its physical address and record, a failure, or a wait. A page that is not resident has no code of
its own in Table 4.11 and takes that of an absent entry (DEDUCED, log 34). -/
inductive HandPage where
  | page (pa : Nat) (h : Handover)
  | plain
  | xlate (code : Nat)
  | wait
  deriving DecidableEq, Repr

/-- A page translated for a handover command; no ownership is needed to look. DESIGN CHOICE, log 104. -/
def State.handPage (s : State) (core va : Nat) : HandPage × State :=
  let r := s.translate (clusterOf core) (s.crew core).info.ctx va needRead
  (match r.1 with
   | .absent => .xlate 0x02
   | .notResident => .xlate 0x02
   | .malformed => .xlate 0x04
   | .permission => .xlate 0x03
   | .unreachable _ => .xlate 0x07
   | .withheld => .wait
   | .ok pa leaf =>
     if leafHctl leaf then (match r.2.handover pa with | some h => .page (pa / 65536 * 65536) h | none => .plain) else .plain, r.2)

/-- Every page of a list looked at in order. -/
def State.handPages (s : State) (core : Nat) : List Nat → List HandPage × State
  | [] => ([], s)
  | va :: rest =>
    let r := s.handPage core va
    let q := r.2.handPages core rest
    (r.1 :: q.1, q.2)

/-- A command withheld at the first page of its list that is not present, as it began to wait there (Table 4.5, R80); with none it is not withheld. -/
def State.withholdPages (s : State) (j : NxJob) (ps : List HandPage) : NxJob :=
  match (List.zip ps j.cmd.list).find? (fun x => x.1 == .wait) with
  | some x => s.withholdJob j x.2
  | none => { j with withheld := none }

def State.setHandover (s : State) (pa : Nat) (h : Handover) : State := { s with handovers := tset s.handovers (pa / 65536) h }

/-! ### hand.rel (R262, R264) -/

/-- Is an access of a cluster that was translated to a page and not performed left: an update on its way? -/
def State.pageBusy (s : State) (cluster pa : Nat) : Bool :=
  let inPage := fun (x : BufAddr) => match x with | .phys p => p / 65536 == pa / 65536 | .sp _ => false
  s.suu.any (fun q => q.2.any (fun u => clusterOf u.core == cluster && inPage u.addr))
    || s.cores.any (fun k => k.2.crew.puu.any (fun u => clusterOf u.core == cluster && inPage u.addr))

/-- The handover point of a page (R262): the translations of the page in the old owner's cluster invalidated, the record changed. To the
owner itself there is nothing to push. -/
def State.handPoint (s : State) (target layer pa : Nat) : State :=
  match s.handover pa with
  | none => s
  | some h =>
    let k := s.cluster h.owner
    let s1 := s.setCluster h.owner { k with tlb := k.tlb.filter (fun e => !(e.level == 0 && s.ownHbm (leafFrame e.leaf) == pa)) }
    s1.setHandover pa ⟨target, layer, (h.count + 1) % 65536, 1, if target = h.owner then 512 else 0⟩

/-- The first failure of a release: code, detail, and the address of a page owned by another cluster. -/
def relFailure (cluster : Nat) : Nat → List HandPage → List Nat → Option (Nat × Nat × Option Nat)
  | i, p :: ps, v :: vs =>
    (match p with
     | .xlate c => some (nxXlate, c, none)
     | .plain => some (nxHctl, i, none)
     | .page _ h => if h.owner = cluster then relFailure cluster (i + 1) ps vs else some (nxOwner, i, some v)
     | .wait => relFailure cluster (i + 1) ps vs)
  | _, _, _ => none

/-- hand.rel (R264). The buffers of the cluster's strands are performed with the points. DEDUCED, log 55. -/
def State.relStep (s : State) (core key : Nat) (j : NxJob) : State :=
  let cl := clusterOf core
  let r := s.handPages core j.cmd.list
  let s1 := r.2
  match relFailure cl 0 r.1 j.cmd.list with
  | some (c, d, va) => s1.putJob core key { j.fail c d with ownerVa := va }
  | none =>
    let held := r.1.any (fun p => match p with | .wait => true | .page pa h => h.state == 1 || s1.pageBusy cl pa | _ => false)
    if held then s1.putJob core key (s.withholdPages j r.1)
    else
      let s2 := s1.drainCluster cl
      let pas := r.1.filterMap (fun p => match p with | .page pa _ => some pa | _ => none)
      (pas.foldl (fun t pa => t.handPoint (j.cmd.at' 8 4) (j.cmd.at' 0xC 2) pa) s2).putJob core key
        { j.finish with count := j.cmd.at' 4 4, withheld := none }

/-! ### hand.acq (R265) -/

/-- The pages of an acquire looked at in order: those that meet it are set to owned and their indices noted in `asked`; a failure ends it. -/
def State.acqPages (s : State) (core : Nat) (j : NxJob) : Nat → List Nat → State × NxJob
  | _, [] => (s, j)
  | i, va :: rest =>
    if j.asked.contains i then s.acqPages core j (i + 1) rest
    else
      let want := j.cmd.at' 8 2
      let r := s.handPage core va
      match r.1 with
      | .wait => r.2.acqPages core j (i + 1) rest
      | .xlate c => (r.2, j.fail nxXlate c)
      | .plain => (r.2, j.fail nxHctl i)
      | .page pa h =>
        let ahead := (h.count + 65536 - want) % 65536
        if 1 ≤ ahead ∧ ahead ≤ 32767 then (r.2, j.fail nxStale i)
        else if h.count = want ∧ h.layer ≠ j.cmd.at' 0xA 2 then (r.2, j.fail nxLater i)
        else if h.count = want ∧ h.owner = clusterOf core ∧ h.state ≠ 1 then
          (r.2.setHandover pa { h with state := 0 }).acqPages core { j with asked := i :: j.asked, count := j.count + 1 } (i + 1) rest
        else r.2.acqPages core j (i + 1) rest

def State.acqStep (s : State) (core key : Nat) (j : NxJob) : State :=
  let r := s.acqPages core j 0 j.cmd.list
  r.1.putJob core key (if r.2.asked.length = r.2.cmd.list.length then r.2.finish else s.withholdPages r.2 (s.handPages core j.cmd.list).1)

/-! ### hand.query (R266) -/

/-- The image of a handover record (Table 9.7). -/
def Handover.image (h : Handover) : Nat := h.count % 65536 * 2 ^ 48 + h.layer % 65536 * 2 ^ 32 + h.state % 4 * 2 ^ 6 + h.owner % 64

def HandPage.image : HandPage → Nat
  | .page _ h => h.image
  | _ => 2 ^ 64 - 1

def State.queryStep (s : State) (core key : Nat) (j : NxJob) : State :=
  let r := s.handPages core j.cmd.list
  if r.1.any (fun p => p == .wait) then r.2.putJob core key (s.withholdPages j r.1)
  else
    let code := r.1.findSome? (fun p => match p with | .xlate c => some c | _ => none)
    let bs := (r.1.map (fun p => bytesOf 8 p.image)).flatten
    let j1 := match code with | some c => j.note nxXlate c | none => j
    let l := Loc.pool core (j.cmd.at' 8 4)
    ((r.2.dispatchEdge core j.cmd.strand l bs.length).writeLoc l bs false).putJob core key { j1.finish with count := j.cmd.at' 4 4, withheld := none }

/-! ### The handover engine (R263) -/

/-- The next line of a page in transit pushed into its new owner's slice, where it takes a way of its set (R84), dirty data with it; the page is present
after its last. -/
def State.pushLine (s : State) (page : Nat) : State :=
  match tfind s.handovers page with
  | none => s
  | some h =>
    if h.state ≠ 1 then s
    else if 512 ≤ h.pushed then { s with handovers := tset s.handovers page { h with state := 2 } }
    else
      let n := page * 512 + h.pushed
      let d := s.line n
      let line : DirLine := ⟨[h.owner], if d.dirty then some h.owner else none, d.dirty⟩
      let s1 := ({ s with lines := tset s.lines n line } : State).allocate h.owner n 0
      let h1 : Handover := { h with pushed := h.pushed + 1, state := if h.pushed + 1 = 512 then 2 else 1 }
      { s1 with handovers := tset s1.handovers page h1 }

/-- R263: `page` is PA[51:16]. -/
def execHandoverPush (page : Nat) (s : State) : Out := .next (s.pushLine page)

/-! ### Finding crews -/

/-- The crews of the device changed, those on cores and those suspended. -/
def State.mapCrews (s : State) (f : Crew → Crew) : State :=
  { s with
    cores := s.cores.map (fun k => (k.1, if k.2.held then { k.2 with crew := f k.2.crew } else k.2))
    cp := { s.cp with gangs := s.cp.gangs.map (fun g => (g.1, { g.2 with crews := g.2.crews.map f })) } }

/-- Every crew of the device, on a core or suspended. -/
def State.allCrews (s : State) : List Crew :=
  (s.cores.filter (fun k => k.2.held)).map (fun k => k.2.crew) ++ (s.cp.gangs.map (fun g => g.2.crews)).flatten

/-- The crew of a tile of a launch. -/
def State.crewOf (s : State) (launch tile : Nat) : Option Crew :=
  s.allCrews.find? (fun w => w.info.launch == launch && w.info.tile == tile)

/-- One crew changed, by launch and tile. -/
def State.modCrewOf (s : State) (launch tile : Nat) (f : Crew → Crew) : State :=
  s.mapCrews (fun w => if w.info.launch = launch ∧ w.info.tile = tile then f w else w)

/-! ### Elastic channels (R147, R253, R254) -/

/-- The domain tag of a launch. -/
def State.dtagOf (s : State) (launch : Nat) : Nat := match tfind s.cp.launches launch with | some l => l.dtag | none => 0

/-- Do two launches share their channel identifiers: one launch, or launches of one domain launch? -/
def State.sameDomain (s : State) (a b : Nat) : Bool := a == b || (s.dtagOf a != 0 && s.dtagOf a == s.dtagOf b)

/-- The tokens that a consumer-side channel takes: its slots, and its spill ring's capacity. -/
def Crew.elasticRoom (w : Crew) (ch : Nat) : Nat :=
  16 + (match tfind w.graph.active.spills ch with | some e => e.capacity | none => 0)

/-- Is an identifier declared on a side of a launch already? -/
def State.chanDeclared (s : State) (launch id : Nat) (consumer : Bool) : Bool :=
  s.allCrews.any (fun w => s.sameDomain w.info.launch launch &&
    w.endpoints.any (fun e => e.2.id == id && decide (32 ≤ e.1) == consumer))

/-- nx.chan at work (R254). A device that no route reaches ends it: UNREACHABLE, and nothing stays declared (R270). DEDUCED, log 57. -/
def State.chanStep (s : State) (core key : Nat) (j : NxJob) : State :=
  let c := j.cmd
  let id := c.at' 4 4
  let k := c.chanKey
  let w := s.crew core
  match j.phase with
  | .run =>
    if c.chanEn then
      if s.chanDeclared w.info.launch id (decide (32 ≤ k)) then s.putJob core key (j.fail nxBusy id)
      else s.setCrew core ({ w with endpoints := tset w.endpoints k ⟨id, c.at' 8 2, c.at' 0xC 4, false, 0, [], false⟩ }.setJob key
        { j with phase := .waiting })
    else (match tfind w.endpoints k with
      | some e => if e.id = id then s.setCrew core ({ w with endpoints := tset w.endpoints k { e with retiring := true } }.setJob key
          { j with phase := .waiting }) else s.putJob core key j.finish
      | none => s.putJob core key j.finish)
  | .waiting =>
    (match tfind w.endpoints k with
     | none => s.putJob core key j.finish
     | some e =>
       if c.chanEn then
         (if e.paired then s.putJob core key j.finish
          else if e.dev ≠ s.sys.devid ∧ s.routeUp e.dev = false then
            s.setCrew core ({ w with endpoints := tdel w.endpoints k }.setJob key (j.fail nxUnreachable e.dev))
          else s)
       else if e.dev ≠ s.sys.devid ∧ s.routeUp e.dev = false ∧ k < 32 ∧ (w.chan k).drained = false then s.putJob core key (j.fail nxUnreachable e.dev)
       else
         let clear := if 32 ≤ k then e.buffer.isEmpty else (w.chan k).drained
         if clear then s.setCrew core ({ w with endpoints := tdel w.endpoints k }.setJob key j.finish) else s)
  | _ => s

/-- The other endpoint of a pair on this device, in the same launch (R253): its crew, and its key. -/
def State.peerOf (s : State) (w : Crew) (k : Nat) (e : Endpoint) : Option (Crew × Nat × Endpoint) :=
  s.allCrews.findSome? (fun v =>
    if v.info.tile = e.tile ∧ v.info.launch = w.info.launch then
      (v.endpoints.find? (fun f => f.2.id == e.id && decide (32 ≤ f.1) != decide (32 ≤ k) && f.2.dev == s.sys.devid
        && f.2.tile == w.info.tile)).map (fun f => (v, f.1, f.2))
    else none)

/-- The pairing of two endpoints of this device: the producer side's credit and the demand the consumer side has sent. -/
def Crew.pairEndpoint (w : Crew) (k credit : Nat) : Crew :=
  match tfind w.endpoints k with
  | some e => { w with endpoints := tset w.endpoints k { e with paired := true, credit := credit } }
  | none => w

/-- R253: the endpoint under `endpoint` (its local channel, plus 32 on the consumer side) pairs with its match, or tells the device
that its match is on. Only launches of a domain launch have matches on other devices. -/
def execElasticPair (core endpoint : Nat) (s : State) : Out :=
  .next (if (s.core core).held then
      (let w := s.crew core
       match tfind w.endpoints endpoint with
       | none => s
       | some e =>
         if e.paired then s
         else if e.dev = s.sys.devid then
           (match s.peerOf w endpoint e with
            | some (v, k, _) =>
              let room := if 32 ≤ endpoint then w.elasticRoom (endpoint - 32) else v.elasticRoom (k - 32)
              (s.modCrewOf v.info.launch v.info.tile (fun u => u.pairEndpoint k room)).modCrewOf w.info.launch w.info.tile
                (fun u => u.pairEndpoint endpoint room)
            | none => s)
         else if s.dtagOf w.info.launch != 0 && s.routeUp e.dev && s.flowOpen e.dev clsRequest then
           s.send e.dev clsRequest opPair e.id
             [if 32 ≤ endpoint then 1 else 0, w.info.tile, e.tile, s.dtagOf w.info.launch,
              if 32 ≤ endpoint then w.elasticRoom (endpoint - 32) else 0] [] 0 core
         else s)
    else s)

/-- A token that has come for a consumer-side endpoint: it waits in its buffer. -/
def Crew.arrive (w : Crew) (k : Nat) (t : Token) : Crew :=
  match tfind w.endpoints k with
  | some e =>
    let e1 : Endpoint := { e with buffer := e.buffer ++ [t], credit := if t.isStop then e.credit else e.credit - 1 }
    { w with endpoints := tset w.endpoints k e1 }
  | none => w

/-- Demand that has come for a producer-side endpoint. -/
def Crew.demand (w : Crew) (k n : Nat) : Crew :=
  match tfind w.endpoints k with
  | some e => { w with endpoints := tset w.endpoints k { e with credit := bump32 e.credit n } }
  | none => w

/-- A token of a producer-side endpoint crosses: into the buffer of its peer, or over the fabric. -/
def State.crossOut (s : State) (core k : Nat) (e : Endpoint) : State :=
  let w := s.crew core
  match (w.chan k).head with
  | none => s
  | some t =>
    if e.dev = s.sys.devid then
      (match s.peerOf w k e with
       | some (v, q, _) => (s.modCrew core (fun u => u.dequeue k)).modCrewOf v.info.launch v.info.tile (fun u => u.arrive q t)
       | none => s)
    else if s.routeUp e.dev && s.flowOpen e.dev clsRequest then
      (s.modCrew core (fun u => u.dequeue k)).send e.dev clsRequest opToken e.id
        [w.info.tile, e.tile, s.dtagOf w.info.launch, t.bank + 4 * t.kind + 16 * b2n t.poison] (bytesOf 32 t.data) 0 core
    else s

/-- A token of a consumer-side endpoint's buffer enqueued on its channel, where no save holds it back; then demand for the slots that are free. -/
def State.crossIn (s : State) (core k : Nat) (e : Endpoint) : State :=
  let w := s.crew core
  let ch := k - 32
  let w1 := match e.buffer with
    | t :: r => if w.canSend t ch && !(w.stopped) then { (w.enqueue t ch) with endpoints := tset (w.enqueue t ch).endpoints k { e with buffer := r } } else w
    | [] => w
  let e1 := (tfind w1.endpoints k).getD e
  let used := (w1.chan ch).count + (w1.chan ch).ringCount + e1.buffer.length + e1.credit
  let owed := w1.elasticRoom ch - used
  let s1 := s.setCrew core w1
  if owed = 0 then s1
  else
    let w2 := { w1 with endpoints := tset w1.endpoints k { e1 with credit := e1.credit + owed } }
    if e.dev = s.sys.devid then
      (match s.peerOf w k e with
       | some (v, q, _) => (s.setCrew core w2).modCrewOf v.info.launch v.info.tile (fun u => u.demand q owed)
       | none => s1)
    else if s1.routeUp e.dev && s1.flowOpen e.dev clsRequest then
      (s1.setCrew core w2).send e.dev clsRequest opDemand e.id [w.info.tile, e.tile, s.dtagOf w.info.launch, owed] [] 0 core
    else s1

/-- R147: one token of an elastic channel moves at the endpoint under `endpoint`; on the consumer side demand goes upstream. -/
def execElasticTokenCross (core endpoint : Nat) (s : State) : Out :=
  .next (if (s.core core).held then
      (match tfind (s.crew core).endpoints endpoint with
       | some e => if !e.paired then s else if 32 ≤ endpoint then s.crossIn core endpoint e else s.crossOut core endpoint e
       | none => s)
    else s)

end Sys2Proof.Machine
end

