-- ==== Sys2Proof/Machine/Collectives.lean ====
section
/-!
DEFINITION. Groups and collectives (spec 09, R255 to R259), and the NX queue (R239).
-/
namespace Sys2Proof.Machine
open Sys2Proof

/-! ### Groups (R255, R258) -/

def State.group (s : State) (g : Nat) : Option CollGroup := tfind s.groups g
def State.setGroup (s : State) (g : Nat) (e : CollGroup) : State := { s with groups := tset s.groups g e }

/-- An entry with one joining member. -/
def newGroup (launch nlocal : Nat) (devs : List Nat) (m : CollMember) : CollGroup where
  launch := launch
  nlocal := nlocal
  devs := devs
  members := [m]
  complete := false
  mismatch := false
  told := false
  lost := []
  generation := 0
  chunks := 0
  lostAt := 0
  turns := 0
  parts := []
  kept := []
  readyTold := false
  ready := []

/-- Members of a group, and the rank of a member of this device (R255). -/
def CollGroup.size (e : CollGroup) : Nat := e.devs.length * e.nlocal
def State.rankOf (s : State) (e : CollGroup) (lr : Nat) : Nat := e.devs.idxOf s.sys.devid * e.nlocal + lr

/-- The ranks that have not been lost. -/
def CollGroup.live (e : CollGroup) : List Nat := (List.range e.size).filter (fun k => !(smem e.lost k))

/-- The other devices of a group that still have a live member. -/
def State.groupPeers (s : State) (e : CollGroup) : List Nat :=
  e.devs.filter (fun d => d != s.sys.devid && (List.range e.nlocal).any (fun i => !(smem e.lost (e.devs.idxOf d * e.nlocal + i))))

/-- Is a device list ascending and distinct? -/
def ascending : List Nat → Bool
  | [] => true
  | [_] => true
  | a :: b :: r => decide (a < b) && ascending (b :: r)

/-- The group of a command's block. -/
def NxCmd.groupId (c : NxCmd) : Nat := if c.op = .grp then field (c.at' 0 4) 7 0 else field (c.at' 0xC 4) 7 0

/-- A join with its device list read: the member entered, or the entry in use, or a disagreement (R258). A list that breaks its limits
disagrees. -/
def State.joinGroup (s : State) (core key : Nat) (j : NxJob) (devs : List Nat) : State :=
  let c := j.cmd
  let g := c.groupId
  let me := (s.crew core).info
  let nlocal := field (c.at' 0 4) 20 9
  let m : CollMember := ⟨c.at' 4 4, me.launch, me.tile, 0, false⟩
  let bad := !(ascending devs) || !(devs.contains s.sys.devid)
  let wait := fun (t : State) => t.putJob core key { j with phase := .waiting, pieces := [], asked := [] }
  match s.group g with
  | none => if bad then s.putJob core key (j.fail nxMismatch 0) else wait (s.setGroup g (newGroup me.launch nlocal devs m))
  | some e =>
    if e.launch ≠ me.launch then s.putJob core key (j.fail nxBusy g)
    else
      let differs := bad || e.nlocal != nlocal || e.devs != devs || e.members.any (fun x => x.rank == m.rank)
      if e.complete then s.putJob core key (j.fail nxMismatch 0)
      else wait (s.setGroup g { e with members := e.members ++ [m], mismatch := e.mismatch || differs })

/-- A member gone: the entry is freed with its last local member. -/
def State.leaveGroup (s : State) (g launch tile : Nat) : State :=
  match s.group g with
  | none => s
  | some e =>
    let rest := e.members.filter (fun m => !(m.launch == launch && m.tile == tile))
    if rest.isEmpty then { s with groups := tdel s.groups g } else s.setGroup g { e with members := rest }

/-- coll.grp at work. -/
def State.grpStep (s : State) (core key : Nat) (j : NxJob) : State :=
  let c := j.cmd
  if j.phase ≠ .run then s
  else if !((c.at' 0 4).testBit 8) then
    (s.leaveGroup c.groupId (s.crew core).info.launch (s.crew core).info.tile).putJob core key j.finish
  else
    let va := c.at' 8 8
    let n := 2 * c.at' 0x10 4
    let r := s.bring core key va va j (pageRuns va n)
    match r.1 with
    | .ready =>
      if r.2.2.code ≠ 0 then r.2.1.putJob core key r.2.2.finish
      else
        let b := (spread r.2.2.pieces).map (fun x => x.2.1)
        r.2.1.joinGroup core key r.2.2 ((List.range (n / 2)).map (fun i => ofBytes ((b.drop (2 * i)).take 2)))
    | .waiting => r.2.1.putJob core key r.2.2
    | .broken v c => r.2.1.nxBroken core key r.2.2 v c

/-- The join commands of a group that wait, in every crew, completed with a status code. -/
def Crew.endJoins (w : Crew) (g code : Nat) : Crew :=
  { w with nx := w.nx.map (fun k => (k.1,
      if k.2.cmd.op = .grp ∧ k.2.phase = .waiting ∧ k.2.cmd.groupId = g then (if code = 0 then k.2.finish else k.2.fail code 0) else k.2)) }

/-- Do the reports of other devices for a group disagree with its entry? One that the entry does not list has this device in its own list, or would not report. -/
def State.reportsDiffer (s : State) (g : Nat) (e : CollGroup) : Bool :=
  s.reports.any (fun r => r.1 == g && (r.2.2.1 != e.nlocal || r.2.2.2 != e.devs))

/-- Have all other devices with a live member reported the same values? -/
def State.reportsIn (s : State) (g : Nat) (e : CollGroup) : Bool :=
  (s.groupPeers e).all (fun d => s.reports.any (fun r => r == (g, d, e.nlocal, e.devs)))

/-- The devices that an entry's disagreement is told to: those of its list, and those that reported to this group; not one that told of a disagreement
itself, whose report names no member. -/
def State.mismatchPeers (s : State) (g : Nat) (e : CollGroup) : List Nat :=
  ((e.devs ++ (s.reports.filter (fun r => r.1 == g)).map (fun r => r.2.1)).eraseDups).filter (fun d =>
    d != s.sys.devid && !(s.reports.any (fun r => r.1 == g && r.2.1 == d && r.2.2.1 == 0)))

/-- An entry that ends in a disagreement: every joining crew completes with MISMATCH, here and on the other devices, and the entry is empty (R258). -/
def State.endMismatch (s : State) (g : Nat) (e : CollGroup) : State :=
  let s1 := (s.mismatchPeers g e).foldl (fun t d => if t.routeUp d then t.send d clsCollective opGroup g [0, 0] [] 0 nobody else t) s
  ({ s1 with groups := tdel s1.groups g, reports := s1.reports.filter (fun r => r.1 != g) } : State).mapCrews (fun w => w.endJoins g nxMismatch)

/-- R258: an entry whose local members have all joined is reported to the other devices; once theirs are complete with the same values, or
on a disagreement, every join completes. -/
def execGroupJoinComplete (group : Nat) (s : State) : Out :=
  .next (match s.group group with
    | none => s
    | some e =>
      if e.complete then s
      else if e.mismatch || s.reportsDiffer group e then s.endMismatch group e
      else if e.members.length < e.nlocal then s
      else if !e.told then
        (let peers := s.groupPeers e
         if peers.all (fun d => s.flowOpen d clsCollective) then
           (peers.foldl (fun t d => t.send d clsCollective opGroup group [e.nlocal, e.devs.length]
             ((e.devs.map (bytesOf 2)).flatten) 0 nobody) s).setGroup group { e with told := true }
         else s)
      else if s.reportsIn group e then
        ({ s with reports := s.reports.filter (fun r => r.1 != group) } : State).setGroup group { e with complete := true }
          |>.mapCrews (fun w => w.endJoins group 0)
      else s)

/-! ### Combining (R256) -/

/-- Bytes of an element of a combine operation (Table 9.6). -/
def combineSize (code : Nat) : Nat := if code = 1 then 2 else if code = 2 then 8 else 4

/-- One node's operation on two elements. -/
def combineNode (code x y : Nat) : Nat :=
  match code with
  | 0 => addFloat 6 x y
  | 1 => addFloat 7 x y
  | 2 => addFloat 17 x y
  | 3 => (x + y) % 2 ^ 32
  | 4 => elFminmax false 6 false x y
  | 5 => elFminmax true 6 false x y
  | 6 => if sintOf 32 y < sintOf 32 x then y else x
  | _ => if sintOf 32 x < sintOf 32 y then y else x

/-- TreeSum of R34 with a combine operation: NONE is neutral. -/
def combineTree (code : Nat) (value : Nat → Option Nat) : Nat → Nat → Option Nat
  | 0, lo => value lo
  | k + 1, lo =>
    match combineTree code value k lo, combineTree code value k (lo + 2 ^ k) with
    | some x, some y => some (combineNode code x y)
    | some x, none => some x
    | none, r => r

/-- A chunk of the reduction of the members' parts: n bytes. -/
def combineParts (code size n : Nat) (parts : List CollPart) : List Byte :=
  let w := combineSize code
  let value := fun (i k : Nat) => match parts.find? (fun p => p.rank == k) with
    | some p => some (ofBytes ((p.bytes.drop (w * i)).take w))
    | none => none
  ((List.range (n / w)).map (fun i => bytesOf w ((combineTree code (value i) (ceilLog2 size) 0).getD 0))).flatten

/-! ### Chunks (R257, R259) -/

/-- Bytes of a chunk. -/
def chunkBytes : Nat := 1048576

/-- The collectives by number: 1 red, 2 bc, 3 flt, 4 ar. -/
def NxOp.collKind : NxOp → Nat
  | .red => 1
  | .bc => 2
  | .flt => 3
  | .ar => 4
  | _ => 0

/-- Chunks of a collective: at least one, in which its members meet. -/
def chunkCount (len : Nat) : Nat := Nat.max 1 ((len + chunkBytes - 1) / chunkBytes)

def NxCmd.collLen (c : NxCmd) : Nat := c.at' 8 4
def NxCmd.collRoot (c : NxCmd) : Nat := field (c.at' 0xC 4) 23 12
def NxCmd.collCode (c : NxCmd) : Nat := field (c.at' 0xC 4) 11 8

/-- Bytes of chunk i of a length. -/
def chunkLength (len i : Nat) : Nat := Nat.min chunkBytes (len - i * chunkBytes)

/-- Bytes that a member's part of a chunk holds: in a broadcast the root's alone. -/
def CollPart.expected (p : CollPart) : Nat :=
  if p.kind = 2 ∧ p.rank ≠ p.root then 0 else chunkLength p.len p.chunk

/-- A member's part of its chunk, read from its scratchpad. -/
def State.partOf (s : State) (core : Nat) (j : NxJob) (rank seq : Nat) : CollPart :=
  let c := j.cmd
  let head : CollPart := ⟨rank, j.turn, j.pos, seq, c.op.collKind, c.collCode, c.collLen, c.collRoot, [], []⟩
  let l := Loc.pool core (c.at' 0 4 + j.pos * chunkBytes)
  let n := head.expected
  { head with
    bytes := s.bytesAt l n
    poison := (List.range (n / 32)).filter (fun i => s.poisonedAt (l.plus (32 * i)) 32) }

/-- The packets that carry a part to another device: their address holds the group, the number of the packet, the rank and the chunk. -/
def State.sendPart (s : State) (core g gen dev : Nat) (p : CollPart) : State :=
  (List.range (Nat.max 1 ((p.bytes.length + 4095) / 4096))).foldl (fun t i =>
    let b := (p.bytes.drop (4096 * i)).take 4096
    let mask := (p.poison.filter (fun x => decide (128 * i ≤ x) && decide (x < 128 * i + 128))).foldl (fun m x => setBit m (x - 128 * i) true) 0
    t.send dev clsCollective opChunk (g + 2 ^ 8 * i + 2 ^ 16 * p.rank + 2 ^ 36 * p.chunk) [gen, p.turn, p.kind, p.code, p.len, p.root, p.seq] b mask core) s

/-- A part that has come, or the next bytes of one. -/
def CollGroup.addPart (e : CollGroup) (p : CollPart) : CollGroup :=
  let same := fun (x : CollPart) => x.rank == p.rank && x.turn == p.turn && x.chunk == p.chunk
  if e.parts.any same then
    { e with parts := e.parts.map (fun x => if same x then
        { x with bytes := x.bytes ++ p.bytes, poison := x.poison ++ p.poison.map (· + x.bytes.length / 32) } else x) }
  else { e with parts := e.parts ++ [p] }

/-- The local member of a crew. -/
def CollGroup.memberOf (e : CollGroup) (i : CrewInfo) : Option CollMember :=
  e.members.find? (fun m => m.launch == i.launch && m.tile == i.tile && !m.ended)

/-- A collective at its first step: its number among its member's on the group, in the order of dispatch (R259). -/
def State.enrol (s : State) (core key : Nat) (j : NxJob) (g : Nat) (e : CollGroup) (m : CollMember) : State :=
  let w := s.crew core
  if w.nx.any (fun k => k.2.cmd.op.collKind != 0 && k.2.cmd.groupId == g && decide (k.2.cmd.seq < j.cmd.seq) && k.2.phase == .run) then s
  else
    let e1 := { e with members := e.members.map (fun x => if x.rank = m.rank then { x with issued := x.issued + 1 } else x) }
    (s.setGroup g e1).putJob core key { j with phase := .waiting, turn := m.issued }

/-- A member's part of the chunk in progress given to the group and sent to its other devices. -/
def State.giveChunk (s : State) (core key : Nat) (j : NxJob) (g : Nat) (e : CollGroup) (m : CollMember) : State :=
  let dst := if j.cmd.op = .flt then j.cmd.at' 0x18 4 else j.cmd.collLen
  let s0 := (s.dispatchEdge core j.cmd.strand (.pool core (j.cmd.at' 0 4)) j.cmd.collLen).dispatchEdge core j.cmd.strand (.pool core (j.cmd.at' 4 4)) dst
  let p := s0.partOf core j (s.rankOf e m.rank) e.chunks
  let peers := s.groupPeers e
  let n := Nat.max 1 ((p.bytes.length + 4095) / 4096)
  if peers.all (fun d => decide ((s.flow d clsCollective).unacked.length + n ≤ 1024)) then
    ((peers.foldl (fun t d => t.sendPart core g e.generation d p) s0).setGroup g (e.addPart p)).putJob core key { j with given := true }
  else s

/-- The collective in progress of each live local member: core, key and rank; a member off its core has none. -/
def State.collJobs (s : State) (g : Nat) (e : CollGroup) : List (Nat × Nat × Nat × NxJob) :=
  (e.members.filter (fun m => !m.ended)).filterMap (fun m =>
    (s.cores.find? (fun k => k.2.held && k.2.crew.info.launch == m.launch && k.2.crew.info.tile == m.tile)).bind (fun k =>
      (k.2.crew.nx.find? (fun x => x.2.cmd.op.collKind != 0 && x.2.cmd.groupId == g && x.2.turn == e.turns && x.2.phase == .waiting)).map
        (fun x => (k.1, x.1, s.rankOf e m.rank, x.2))))

/-- Do the blocks that meet in a collective disagree in operation, length or root, or name a root that no member has? -/
def CollGroup.disagree (e : CollGroup) (ps : List CollPart) : Bool :=
  match ps with
  | [] => false
  | p :: rest =>
    rest.any (fun q => q.kind != p.kind || q.code != p.code || q.len != p.len || q.root != p.root)
      || ((p.kind == 1 || p.kind == 2) && decide (e.size ≤ p.root))

/-- Poisoned granules written back over a result. -/
def State.writeResult (s : State) (core a : Nat) (bs : List Byte) (poison : Nat → Bool) : State :=
  (List.range (bs.length / 32)).foldl (fun t i =>
    t.writeLoc (.pool core (a + 32 * i)) ((bs.drop (32 * i)).take 32) (poison i)) s

/-- A record of a filtered exchange with its key and poison. -/
def partRecords (p : CollPart) : List (Nat × List Byte × Bool) :=
  (List.range (p.bytes.length / 32)).map (fun i =>
    let b := (p.bytes.drop (32 * i)).take 32
    (ofBytes (b.take 4), b, smem p.poison i))

/-- The records a member takes, by source rank and source position, up to its capacity. -/
def takenRecords (e : CollGroup) (c : NxCmd) (turn : Nat) : List (List Byte × Bool) :=
  let own := (List.range e.size).map (fun k =>
    ((List.range (chunkCount c.collLen)).map (fun i =>
      ((e.parts.filter (fun p => p.rank == k && p.turn == turn && p.chunk == i)).map partRecords).flatten)).flatten)
  let keyed := own.flatten.filter (fun r => decide (c.at' 0x10 4 ≤ r.1) && decide (r.1 < c.at' 0x14 4))
  (keyed.map (fun r => r.2)).take (c.at' 0x18 4 / 32)

/-- A member's result of the chunk written to its scratchpad; the bytes a filtered exchange delivered. -/
def State.deliverChunk (s : State) (e : CollGroup) (ps : List CollPart) (last : Bool) (x : Nat × Nat × Nat × NxJob) : State × Nat :=
  let c := x.2.2.2.cmd
  let i := x.2.2.2.pos
  let a := c.at' 4 4 + i * chunkBytes
  let n := chunkLength c.collLen i
  let any := fun (g : Nat) => ps.any (fun p => smem p.poison g)
  match c.op with
  | .flt =>
    if last then
      let rs := takenRecords e c x.2.2.2.turn
      (rs.zipIdx.foldl (fun t r => t.writeLoc (.pool x.1 (c.at' 4 4 + 32 * r.2)) r.1.1 r.1.2) s, 32 * rs.length)
    else (s, 0)
  | .bc =>
    (match ps.find? (fun p => p.rank == c.collRoot) with
     | some p => (s.writeResult x.1 a p.bytes any, 0)
     | none => (s, 0))
  | .red =>
    if x.2.2.1 = c.collRoot then (s.writeResult x.1 a (combineParts c.collCode e.size n ps) any, 0) else (s, 0)
  | _ => (s.writeResult x.1 a (combineParts c.collCode e.size n ps) any, 0)

/-- The status of a member that completes: DEGRADED where members are lost (R257). -/
def CollGroup.status (e : CollGroup) (j : NxJob) (bytes : Nat) : NxJob :=
  if e.lost.isEmpty then { j.finish with count := bytes }
  else { j.fail nxDegraded e.lost.length with count := e.lostAt }

/-- How far a sequence number of the group's chunks lies ahead of another, modulo 2^32 (R257). -/
def seqAhead (a b : Nat) : Nat := (a + 2 ^ 32 - b % 2 ^ 32) % 2 ^ 32

/-- The parts of the chunk in flight from the members that are left, and whether each of those has given all of its part. -/
def CollGroup.partsNow (e : CollGroup) : List CollPart := e.parts.filter (fun p => p.seq == e.chunks && !(smem e.lost p.rank))
def CollGroup.partsIn (e : CollGroup) : Bool :=
  e.live.all (fun k => e.partsNow.any (fun p => p.rank == k && decide (p.expected ≤ p.bytes.length)))

/-- Has a device gone past the chunk in flight: it has said so, or given a part of the next? -/
def CollGroup.passed (e : CollGroup) : Bool :=
  let past := fun (q : Nat) => let d := seqAhead q e.chunks; decide (0 < d) && decide (d < 2 ^ 31)
  e.ready.any (fun r => past r.2.2) || e.parts.any (fun p => past p.seq)

/-- Do the other devices hold every part of the chunk in flight, of this generation? -/
def State.peersReady (s : State) (e : CollGroup) : Bool := (s.groupPeers e).all (fun d => tfind e.ready d == some (e.generation, e.chunks))

/-- The chunk in flight combined: the results written, and the members' collectives moved on or completed (R257, R259). -/
def State.commitChunk (s : State) (g : Nat) (e : CollGroup) (jobs : List (Nat × Nat × Nat × NxJob)) (j : NxJob) (ps : List CollPart) : State :=
  let next := (e.chunks + 1) % 2 ^ 32
  let e1 := { e with chunks := next, lostAt := if e.lostAt = e.chunks ∧ e.kept = ps then next else e.lostAt, kept := [], readyTold := false }
  if e.disagree ps then
    let s1 := jobs.foldl (fun t x => t.putJob x.1 x.2.1 (x.2.2.2.fail nxMismatch 0)) s
    s1.setGroup g { e1 with turns := e.turns + 1, parts := e.parts.filter (fun p => p.turn != e.turns) }
  else
    let last := decide (chunkCount j.cmd.collLen ≤ j.pos + 1)
    let s1 := jobs.foldl (fun t x =>
      let r := t.deliverChunk e ps last x
      let y := { x.2.2.2 with pos := x.2.2.2.pos + 1, given := false }
      r.1.putJob x.1 x.2.1 (if last then e1.status y r.2 else y)) s
    let keep := e.parts.filter (fun p => p.turn != e.turns || p.seq != e.chunks || (j.cmd.op == .flt && !last))
    s1.setGroup g { e1 with turns := e.turns + b2n last, parts := if last then keep.filter (fun p => p.turn != e.turns) else keep }

/-- The chunk in flight: once every live member has given its part the other devices are told, and once they hold every part too it is combined. A chunk
that another device has combined is combined here from the parts that were all here before a member was lost. Every local member must be on its core. -/
def State.combineChunk (s : State) (g : Nat) (e : CollGroup) : State :=
  let jobs := s.collJobs g e
  let here := e.members.filter (fun m => !m.ended)
  match jobs with
  | [] => s
  | (_, _, _, j) :: _ =>
    let peers := s.groupPeers e
    if jobs.length ≠ here.length then s
    else if !e.kept.isEmpty && e.passed then s.commitChunk g { e with parts := e.parts.filter (fun p => p.seq != e.chunks) ++ e.kept } jobs j e.kept
    else if !e.partsIn then s
    else if e.readyTold = false ∧ peers ≠ [] then
      (peers.foldl (fun t d => t.send d clsCollective opReady g [e.generation, e.chunks] [] 0 nobody) s).setGroup g { e with readyTold := true }
    else if s.peersReady e || e.passed then s.commitChunk g e jobs j e.partsNow
    else s

/-- R257: one step of a collective: its member enrolled, its part of the chunk given, or the chunk combined. A command on a group that is
not complete, or of which its crew is no member, waits. DEDUCED, log 56. -/
def execCollChunk (core entry : Nat) (s : State) : Out :=
  .next (s.onJob core entry (fun j =>
    let g := j.cmd.groupId
    if j.cmd.op.collKind = 0 ∨ j.phase = .finished then s
    else match s.group g with
      | none => s
      | some e =>
        match e.memberOf (s.crew core).info with
        | none => s
        | some m =>
          if !e.complete then s
          else if j.phase = .run then s.enrol core entry j g e m
          else if j.turn ≠ e.turns then s
          else if !j.given then s.giveChunk core entry j g e m
          else s.combineChunk g e))

/-- Members lost: the ranks leave the tree, the generation rises by their number, and every survivor gives the chunk in flight again; parts that were all here
stay, for a chunk that another device has combined already (R257). -/
def State.loseRanks (s : State) (g : Nat) (ranks : List Nat) : State :=
  match s.group g with
  | none => s
  | some e =>
    let fresh := ranks.filter (fun k => decide (k < e.size) && !(smem e.lost k))
    if fresh.isEmpty then s
    else
      let old := fun (p : CollPart) => let d := seqAhead e.chunks p.seq; decide (0 < d) && decide (d < 2 ^ 31)
      let e1 := { e with
        lost := fresh.foldl sadd e.lost
        generation := e.generation + fresh.length
        lostAt := if e.lost.isEmpty then e.chunks else e.lostAt
        kept := if e.readyTold then e.partsNow else e.kept
        readyTold := false
        parts := e.parts.filter old }
      (s.setGroup g e1).mapCrews (fun w => { w with nx := w.nx.map (fun k => (k.1,
        if k.2.cmd.op.collKind ≠ 0 ∧ k.2.cmd.groupId = g then { k.2 with given := false } else k.2)) })

/-- The other devices of a group told which of its ranks are lost. -/
def State.tellLoss (s : State) (g : Nat) (ranks : List Nat) : State :=
  match s.group g with
  | none => s
  | some e => (s.groupPeers e).foldl (fun t d => ranks.foldl (fun u k => u.send d clsCollective opLoss g [k] [] 0 nobody) t) s

/-- The members whose crews the monitor ended gone from an entry; it is freed with its last local member (R258). -/
def State.dropEnded (s : State) (g : Nat) : State :=
  match s.group g with
  | none => s
  | some e =>
    let rest := e.members.filter (fun m => !m.ended)
    if rest.isEmpty then { s with groups := tdel s.groups g } else s.setGroup g { e with members := rest }

/-- R257: the members of a device that no route reaches, or on this device those whose crews the monitor has ended, are lost; the other devices are
told. -/
def execMemberLoss (group device : Nat) (s : State) : Out :=
  .next (match s.group group with
    | none => s
    | some e =>
      if device = s.sys.devid then
        (let ranks := ((e.members.filter (fun m => m.ended)).map (fun m => s.rankOf e m.rank)).filter (fun k => !(smem e.lost k))
         ((s.loseRanks group ranks).tellLoss group ranks).dropEnded group)
      else if s.routeUp device || !(e.devs.contains device) then s
      else
        let ranks := ((List.range e.nlocal).map (fun i => e.devs.idxOf device * e.nlocal + i)).filter (fun k => !(smem e.lost k))
        (s.loseRanks group ranks).tellLoss group ranks)

/-! ### The NX queue (R239) -/

/-- A command at the start of its work. -/
def NxJob.start (c : NxCmd) : NxJob where
  cmd := c
  phase := .run
  pos := 0
  sent := []
  pieces := []
  asked := []
  code := 0
  detail := 0
  count := 0
  ownerVa := none
  gather := none
  broken := none
  withheld := none
  turn := 0
  given := false

/-- The stream state that gathers an nx.xget's elements. -/
def NxCmd.gatherStart (c : NxCmd) : Active := Active.start ⟨.ind, c.addr, 0, 0, c.strand, 63, [], 0, none, c.period⟩

/-- The head of the NX queue of a core started, where fewer than 16 commands are in progress, whatever their periods (R244):
nx.send's payload is read, after its strand's earlier stores to it (R251, R306), nx.route's lists are emptied. -/
def State.nxStart (s : State) (core : Nat) : State :=
  let w := s.crew core
  if !(s.core core).held then s
  else match w.nxq, (List.range 16).find? (fun k => (tfind w.nx k).isNone) with
  | c :: rest, some k =>
    let s0 := if c.op = .send then s.dispatchEdge core c.strand (.pool core (c.at' 0 4)) (c.at' 4 4) else s
    let s1 := s0.modCrew core (fun u => { u with nxq := rest })
    let j := NxJob.start c
    (match c.op with
     | .send => s1.putJob core k { j with pieces :=
         (List.range ((c.at' 4 4 + 31) / 32)).map (fun i =>
           let n := Nat.min 32 (c.at' 4 4 - 32 * i)
           let l := Loc.pool core (c.at' 0 4 + 32 * i)
           (32 * i, s0.bytesAt l n, s0.poisonedAt l n)) }
     | .route =>
       let r := c.route
       ((List.range (r.nexp + 1)).foldl (fun t d =>
         (t.dispatchEdge core c.strand (.pool core (r.sl + d * r.slstride)) 4).writeLoc (.pool core (r.sl + d * r.slstride)) (bytesOf 4 0) false) s1).putJob core k
         { j with asked := List.replicate (r.nexp + 1) 0 }
     | .xget => s1.putJob core k { j with gather := some c.gatherStart }
     | _ => s1.putJob core k j)
  | _, _ => s

/-- R239: a command in progress does its next piece of work; with nothing left, and every packet of it acknowledged, it completes. Sends, routes
and collectives work by RING_ADMISSION, ROUTE_RESOLVE and COLL_CHUNK. -/
def execNxCommandComplete (core entry : Nat) (s : State) : Out :=
  .next (s.onJob core entry (fun j =>
    if j.phase = .finished then (if j.sent.isEmpty then s.nxFinish core entry j else s)
    else match j.cmd.op with
      | .put => s.copyStep core entry j
      | .get => s.copyStep core entry j
      | .xget => s.xgetStep core entry j
      | .ring => s.ringStep core entry j
      | .chan => s.chanStep core entry j
      | .grp => s.grpStep core entry j
      | .rel => s.relStep core entry j
      | .acq => s.acqStep core entry j
      | .query => s.queryStep core entry j
      | _ => s))

end Sys2Proof.Machine
end

