-- ==== Sys2Proof/Machine/Packets.lean ====
section
/-!
DEFINITION. Packets that arrive, acknowledgements, and failing routes (spec 09, R267 to R270). What a packet of each operation carries is
the model's own (DESIGN CHOICE, log 31).
-/
namespace Sys2Proof.Machine
open Sys2Proof

/-! ### A packet as the event gives it -/

/-- The packet of a list of numbers: class, operation, length, acknowledgement, route, address, poison, the operation fields as one number, CRC, the
payload's bytes. None where a field exceeds its width, the CRC fails, or the length is not the payload's (R267). -/
def packetOf (dst src seq : Nat) (l : List Nat) : Option Packet :=
  match l with
  | cls :: op :: len :: ack :: route :: addr :: poison :: aux :: crc :: rest =>
    let p : Packet := ⟨dst, src, cls, op, seq, addr, poison, aux, rest.map (BitVec.ofNat 8), 0, ack, route⟩
    if cls < 4 ∧ op < 256 ∧ ack < 65536 ∧ route < 65536 ∧ addr < 2 ^ 64 ∧ poison < 2 ^ 128 ∧ aux < 2 ^ 160 ∧ len ≤ 4096 ∧ rest.length = len ∧ crc = p.crc then some p
    else none
  | _ => none

/-- The HBM byte of this device that a packet names: its offset (Table 9.8; R71). -/
def Packet.place (p : Packet) : Nat := p.addr % 2 ^ 40

/-- Is granule i of the payload poisoned? -/
def Packet.marked (p : Packet) (i : Nat) : Bool := p.poison.testBit i

/-- The payload's bytes with their offsets and poison, by granule of the destination (Table 9.8). -/
def Packet.bytes (p : Packet) : List (Nat × Byte × Bool) :=
  p.payload.zipIdx.map (fun b => (b.2, b.1, p.marked ((p.place + b.2) / 32 - p.place / 32)))

/-! ### Requests served at their home -/

/-- Is every byte of n at an HBM address in a trained stack? -/
def State.homeUp (s : State) (a n : Nat) : Bool :=
  (List.range (n / 4096 + 2)).all (fun i => let x := Nat.min (a + 4096 * i) (a + n - 1); s.stackUp x)

/-- Why the home refuses an access: OWNER for a page with a handover record (R261), 0x03 for a write to a window that does not take it (R122); 0 where it
serves it. Each 64 KiB frame touched counts. -/
def State.homeRefusal (s : State) (a n : Nat) (write : Bool) : Nat :=
  let runs := pageRuns a n
  if runs.any (fun r => (s.handover (a + r.1)).isSome) then 0x30
  else if write && runs.any (fun r => match windowByte s.windows (a + r.1) with | some (w, _) => !w.rwrite | none => false) then 0x03
  else 0

/-- n bytes at HBM addresses, each from its point of coherence (R122). -/
def State.homeBytes (s : State) (a n : Nat) : List Byte := (pageRuns a n).flatMap (fun r => s.bytesAt (s.hbmLoc (a + r.1)) r.2)

/-- Is the granule of an HBM address poisoned? -/
def State.homePoison (s : State) (a : Nat) : Bool := s.poisonedAt (s.hbmLoc a) 1

/-- Bytes written at offsets from an HBM address, each frame's at its point of coherence. -/
def State.homeWrite (s : State) (a n : Nat) (bs : List (Nat × Byte × Bool)) : State :=
  (pageRuns a n).foldl (fun t r =>
    t.writePieces (t.hbmLoc (a + r.1)) (a + r.1) ((bs.filter (fun b => decide (r.1 ≤ b.1) && decide (b.1 < r.1 + r.2))).map (fun b => (b.1 - r.1, b.2))) r.2) s

/-- A response packet to a source (R269): the code, then the fields of the request that say what asked for it. While no route reaches the source it stays in the
retry buffer. -/
def State.respondTo (s : State) (p : Packet) (code : Nat) (bs : List Byte) (poison : Nat) : State :=
  s.send p.src clsResponse opAnswer p.addr [code, p.field 1, p.field 2, p.field 3, p.field 4, p.field 5] bs poison nobody

/-- A read served: the bytes as they stand at their points of coherence. -/
def State.serveRead (s : State) (p : Packet) : State :=
  let n := p.field 0
  let a := p.place
  let code := s.homeRefusal a n false
  if code ≠ 0 then s.respondTo p code [] 0
  else
    let s1 := s.recall a n
    let mask := (granules a n).foldl (fun m g => if s.homePoison (Nat.max a (32 * g)) then setBit m (g - a / 32) true else m) 0
    s1.respondTo p 0 (s.homeBytes a n) mask

/-- The bytes of a write: a stream's says in field 5 which bytes of the payload are written (R299). -/
def Packet.written (p : Packet) : List (Nat × Byte × Bool) :=
  if p.field 1 = forToken then p.bytes.filter (fun b => (p.field 5).testBit b.1) else p.bytes

/-- A write served; a refused one is answered with its code. DEDUCED, log 47. -/
def State.serveWrite (s : State) (p : Packet) : State :=
  let n := p.payload.length
  let code := s.homeRefusal p.place n true
  if code ≠ 0 then (if p.field 1 ≠ forNobody then s.respondTo p code [] 0 else s)
  else (s.recall p.place n).homeWrite p.place n p.written

/-- An atomic executed at its home (R133, R134): the answer, and the state after it. -/
def State.serveAtomic (s : State) (p : Packet) : Nat × State :=
  let op := p.field 0
  let n := p.field 1
  let code := s.homeRefusal p.place (n / 8) true
  let l := s.hbmLoc p.place
  let m := ofBytes (s.bytesAt l (n / 8))
  if code ≠ 0 then (atomicAnswer 0 false code 0, s)
  else if s.poisonedAt l (n / 8) then (atomicAnswer 0 true 0 0, s)
  else if op = 9 ∧ m ≠ p.field 3 then (atomicAnswer m false 0 0, s)
  else (atomicAnswer m false 0 0,
    (s.recall p.place (n / 8)).writeLoc l (bytesOf (n / 8) (atomicNew op n m (p.field 2) (p.field 3))) false)

/-- An update handed to the unit that applies it; its answer follows (R88, R125). -/
def State.serveUpdate (s : State) (p : Packet) : State :=
  let code := s.homeRefusal p.place 1 true
  if code ≠ 0 then s.answerAtomic p.src p.seq (atomicAnswer 0 false code 0)
  else
    let u : Update := ⟨.phys p.place, p.field 0, p.field 1, p.field 2 != 0, p.field 3, p.field 4, p.field 5, p.field 6, some (p.src, p.seq)⟩
    match s.hbmLoc p.place with
    | .pool c q => s.modCrew c (fun w => { w with puu := w.puu ++ [{ u with addr := .sp q }] })
    | _ =>
      let k := stackOf p.place
      { s with suu := tset s.suu k (tget s.suu k [] ++ [u]) }

/-- A message admitted, or refused, at the ring that its address names (R248). -/
def State.serveAdmit (s : State) (p : Packet) : State :=
  let n := p.field 0
  let m : Message := ⟨(p.payload.drop 64).take n, ((List.range ((n + 31) / 32)).filter (fun i => p.marked (i + 2))), p.field 1, p.src, p.field 2, p.field 3⟩
  let r := s.letIn p.addr m
  r.2.answerAtomic p.src p.seq (atomicAnswer 0 false r.1.1 r.1.2)

/-! ### Endpoints and members of other devices -/

/-- The endpoint that a packet of another device's endpoint names: the crew of a tile under a domain tag, and the key. -/
def State.endpointFor (s : State) (p : Packet) (tile peer dtag : Nat) (consumer : Bool) : Option (Crew × Nat × Endpoint) :=
  s.allCrews.findSome? (fun w =>
    if dtag ≠ 0 ∧ w.info.tile = tile ∧ s.dtagOf w.info.launch = dtag then
      (w.endpoints.find? (fun e => e.2.id == p.addr && decide (32 ≤ e.1) == consumer && e.2.dev == p.src && e.2.tile == peer)).map
        (fun e => (w, e.1, e.2))
    else none)

/-- An endpoint of another device is on (R253): its match pairs, and tells it so. -/
def State.servePair (s : State) (p : Packet) : State :=
  let fromConsumer := p.field 0 != 0
  match s.endpointFor p (p.field 2) (p.field 1) (p.field 3) (!fromConsumer) with
  | none => s
  | some (w, k, e) =>
    if e.paired then s
    else
      let room := if fromConsumer then p.field 4 else w.elasticRoom (k - 32)
      let s1 := s.modCrewOf w.info.launch w.info.tile (fun u => u.pairEndpoint k room)
      if s.routeUp p.src then
        s1.send p.src clsRequest opPair p.addr [b2n (!fromConsumer), p.field 2, p.field 1, p.field 3, if fromConsumer then 0 else room] [] 0 nobody
      else s1

/-- A token of another device's endpoint (R147). -/
def State.serveToken (s : State) (p : Packet) : State :=
  let tag := p.field 3
  match s.endpointFor p (p.field 1) (p.field 0) (p.field 2) true with
  | some (w, k, _) => s.modCrewOf w.info.launch w.info.tile (fun u =>
      u.arrive k ⟨ofBytes (p.payload.take 32), tag % 4, tag / 4 % 4, tag.testBit 4⟩)
  | none => s

/-- Demand of another device's endpoint. -/
def State.serveDemand (s : State) (p : Packet) : State :=
  match s.endpointFor p (p.field 1) (p.field 0) (p.field 2) false with
  | some (w, k, _) => s.modCrewOf w.info.launch w.info.tile (fun u => u.demand k (p.field 3))
  | none => s

/-- An arrival of another device at a generation of a barrier: the latest of a device is kept, as the first generation not arrived at (R332). A device that
still waits for a launch that is over here is told so. -/
def State.serveJoin (s : State) (p : Packet) : State :=
  let h : Heard := ⟨p.field 0, p.field 3, p.field 1, p.field 2 + 1, p.src⟩
  let rest := s.cp.domain.filter (fun d => !(d.tag == h.tag && d.run == h.run && d.id == h.id && d.dev == h.dev))
  let s1 := { s with cp := { s.cp with domain := h :: rest } }
  if h.id != domainOver && s1.domainPast h.tag h.run then s1.tellDevice h.dev h.tag h.run domainOver 0 else s1

/-- Another device's group entry whose local members have joined, or a disagreement it has met (R258), which concerns an entry of this device that is still to
complete. One whose values differ from those of a complete entry is told of the disagreement. DESIGN CHOICE, log 107. -/
def State.serveGroup (s : State) (p : Packet) : State :=
  let l := (List.range (p.payload.length / 2)).map (fun i => ofBytes ((p.payload.drop (2 * i)).take 2))
  let kept := { s with reports := (p.addr, p.src, p.field 0, l) :: s.reports.filter (fun r => !(r.1 == p.addr && r.2.1 == p.src)) }
  match s.group p.addr with
  | none => if p.field 0 = 0 then s else kept
  | some e =>
    if !e.complete then kept
    else if p.field 0 = 0 then s
    else if p.field 0 != e.nlocal || l != e.devs then
      (if s.routeUp p.src then s.send p.src clsCollective opGroup p.addr [0, 0] [] 0 nobody else s)
    else kept

/-- Bytes of another member's part of a chunk (R257); a part of a generation that is over is dropped, and the device of a part of a chunk that has been
combined here is told so. -/
def State.serveChunk (s : State) (p : Packet) : State :=
  let g := p.addr % 256
  match s.group g with
  | none => s
  | some e =>
    let behind := seqAhead e.chunks (p.field 6)
    if e.complete = false ∨ p.field 0 ≠ e.generation then s
    else if 0 < behind ∧ behind < 2 ^ 31 then s.send p.src clsCollective opReady g [e.generation, e.chunks] [] 0 nobody
    else
      s.setGroup g (e.addPart ⟨Machine.field p.addr 35 16, p.field 1, p.addr / 2 ^ 36, p.field 6, p.field 2, p.field 3, p.field 4, p.field 5, p.payload,
        (List.range ((p.payload.length + 31) / 32)).filter p.marked⟩)

/-- Another device holds every part of a chunk (R257). -/
def State.serveReady (s : State) (p : Packet) : State :=
  match s.group p.addr with
  | some e => if e.complete then s.setGroup p.addr { e with ready := tset e.ready p.src (p.field 0, p.field 1) } else s
  | none => s

/-- Has the unit that applies an update at an HBM address room for it (R88, R125)? -/
def State.updateRoom (s : State) (a : Nat) : Bool :=
  match s.hbmLoc a with
  | .pool c _ => s.puuRoom c
  | _ => s.suuRoom (stackOf a)

/-- Is the receiver able to take a part of a chunk, or word of one, now? Not where its entry, which its source has reported to, is still to complete or to come to
the generation. One of a group that is gone is accepted without effect (R268): what its source sends of a later group of the number follows the source's report. -/
def State.takesPart (s : State) (p : Packet) : Bool :=
  let g := p.addr % 256
  match s.group g with
  | some e => if e.complete then decide (p.field 0 ≤ e.generation) else !(s.reports.any (fun r => r.1 == g && r.2.1 == p.src))
  | none => true

/-- Is the receiver able to take the packet now? One that names an untrained stack, a line that a sparse-update unit owns, a unit without room, a byte with a
pending update, or a part that has to wait is not accepted yet, and is replayed. -/
def State.takes (s : State) (p : Packet) : Bool :=
  let a := p.place
  if p.op = opChunk ∨ p.op = opReady then s.takesPart p
  else if p.op = opRead ∨ p.op = opFetch then s.homeUp a (p.field 0) && !(s.suuHolds a (p.field 0))
  else if p.op = opWrite then s.homeUp a p.payload.length && !(s.suuHolds a p.payload.length)
  else if p.op = opAtomic then s.homeUp a 1 && !(s.suuHolds a (p.field 1 / 8)) && !(s.updatePending (s.hbmLoc a) (p.field 1 / 8))
  else if p.op = opUpdate then s.homeUp a 1 && s.updateRoom a
  else true

/-! ### Answers -/

/-- A strand's access refused or poisoned at its home: its trap. -/
def codeCause (code : Nat) : Cause := if code = 0x30 then causeOwner else causePermission

/-- Does an instruction read a strand record or an image? -/
def longRead (i : Instr) : Bool :=
  match i with
  | .ctxRest _ _ => true
  | .vePlane _ _ _ _ => true
  | .veKonst _ _ _ _ => true
  | _ => false

/-- The bytes of a long read of a strand: a strand record for ctx.rest, or a part of an image (R224, R225, R368). A strand whose
instruction is not at hand executes it again. -/
def State.respondLong (s : State) (core k : Nat) (p : Pending) (r : Packet) : State :=
  let t := s.strandAt core k
  let idle := s.setStrandAt core k { t with hold := .none }
  let bad := ((granules p.ea p.size).find? (fun g => r.marked (g - p.ea / 32))).map (fun g => Nat.max p.ea (32 * g))
  let go := fun (g : Pred) (f : State → State) =>
    match bad with
    | some a => s.takeTrapAt core k causePoisonConsumed (BitVec.ofNat 64 a) t.pc
    | none => (idle.at core k).dispatchVe g f
  match s.cachedInstr core k with
  | some (.ctxRest _ _) =>
    idle.restoreRecord core k (BitVec.ofNat 64 p.ea) r.payload bad
  | some (.vePlane a b f g) => go g (fun u => u.loadPlane a b f (p.bytes ++ r.payload))
  | some (.veKonst a b f g) => go g (fun u => u.loadKonst a b f (p.bytes ++ r.payload))
  | _ => idle

/-- Is a response the one that a strand's hold waits for? -/
def Pending.meets (p : Pending) (r : Packet) : Bool :=
  isFabricPa p.pa && Machine.field p.pa 50 40 == r.src && p.pa % 2 ^ 40 == r.addr && r.field 4 == p.seq

/-- A response to a strand (R128). -/
def State.answerStrand (s : State) (r : Packet) : State :=
  let core := r.field 2
  let k := r.field 3
  match (s.strandAt core k).hold with
  | .response p =>
    if !(p.meets r) then s
    else if r.field 0 ≠ 0 then s.takeTrapAt core k (codeCause (r.field 0)) (BitVec.ofNat 64 p.ea) (s.strandAt core k).pc
    else if p.store || r.payload.length != p.size then s
    else if (s.cachedInstr core k).any longRead = false ∧ p.size ≤ 8 then
      s.respond core k p (BitVec.ofNat 64 (ofBytes r.payload)) (r.marked 0)
    else s.respondLong core k p r
  | _ => s

/-- An element asked for by a stream that has come, or by an nx.xget under its slot 64 + key. -/
def Active.answered (a : Active) (ea : Nat) (r : Packet) : Active :=
  if a.asked.contains ea then
    { a with
      asked := a.asked.filter (· != ea)
      fetched := tset a.fetched ea (ofBytes r.payload, r.poison != 0, r.field 0) }
  else a

/-- A token whose write another device refused, counted once (R100). -/
def Crew.countRefused (w : Crew) (mark code : Nat) : Crew :=
  if w.streams.refused.contains mark then w
  else
    let u := w.countError code
    { u with streams := { u.streams with refused := (mark :: u.streams.refused).take 1024 } }

/-- A response to a stream; a refused write is counted as its token's error (R100). -/
def State.answerStream (s : State) (r : Packet) : State :=
  let core := r.field 2
  let n := r.field 3
  if r.field 1 = forToken then s.modCrew core (fun w => w.countRefused (r.field 4) (r.field 0))
  else if (s.crew core).info.tag ≠ r.field 5 then s
  else if n < 64 then
    s.modCrew core (fun w => match tfind w.streams.slots n with | some a => w.setSlot n (a.answered (r.field 4) r) | none => w)
  else
    s.modCrew core (fun w => match w.job (n - 64) with
      | some j => w.setJob (n - 64) { j with gather := j.gather.map (fun a => a.answered (r.field 4) r) }
      | none => w)

/-- Where the bytes that a command brings in start: the first address of the command, and that of the unit in progress. -/
def NxJob.source (j : NxJob) : Nat × Nat :=
  if j.cmd.op = .grp then (j.cmd.at' 8 8, j.cmd.at' 8 8) else (j.cmd.copy.src, j.cmd.copy.src + j.pos)

/-- A run of bytes that a command asked for: its pieces, one for each granule, or its failure. -/
def NxJob.brought (j : NxJob) (o : Nat) (r : Packet) : NxJob :=
  if !(j.asked.contains o) then j
  else
    let k := { j with asked := j.asked.filter (· != o) }
    let src := j.source
    if r.field 0 ≠ 0 then
      { k.noteTarget (if r.field 0 = 0x30 then .owner else .xlate (r.field 0)) src.1 (src.2 + o) with pieces := k.pieces ++ [(o, [], false)] }
    else
      { k with pieces := k.pieces ++ (granules r.addr r.payload.length).map (fun g =>
          let lo := Nat.max r.addr (32 * g)
          let hi := Nat.min (r.addr + r.payload.length) (32 * g + 32)
          (o + (lo - r.addr), (r.payload.drop (lo - r.addr)).take (hi - lo), r.marked (g - r.addr / 32))) }

/-- A write of a command refused at its home: its bytes are not copied (R245). -/
def NxJob.refused (j : NxJob) (flow : Nat) (r : Packet) : NxJob :=
  if j.sent.contains (flow, r.field 5) then
    { j.noteTarget (if r.field 0 = 0x30 then .owner else .xlate (r.field 0)) j.cmd.copy.dst (r.field 4) with
      sent := j.sent.filter (· != (flow, r.field 5)) }
  else j

/-- A response to a command: bytes brought, or a write refused at its home. -/
def State.answerJob (s : State) (r : Packet) : State :=
  let core := r.field 2
  let key := r.field 3
  if r.field 1 = forPacket then s.mapCrews (fun w => { w with nx := w.nx.map (fun x => (x.1, x.2.refused (4 * r.src + clsRequest) r)) })
  else match (s.crew core).job key with
  | none => s
  | some j =>
    if (s.crew core).info.tag = r.field 5 then s.putJob core key (j.brought (r.field 4) r)
    else s

/-- A strand of a cluster held at a fetch whose word is poisoned traps (R45, R128). -/
def State.poisonFetch (s : State) (cl n : Nat) : State :=
  (List.range 32).foldl (fun t i =>
    let core := 8 * cl + i / 4
    let k := i % 4
    match (t.strandAt core k).hold with
    | .fetch va _ =>
      (match (t.cluster cl).tlb.find? (fun e => e.hits (t.crew core).info.ctx va) with
       | some e => if t.leafPlace e.level e.leaf va / 4 = n then
           t.takeTrapAt core k causePoisonConsumed (BitVec.ofNat 64 va) (t.strandAt core k).pc else t
       | none => t)
    | _ => t) s

/-- A word of code of another device (R45). -/
def State.answerFetch (s : State) (r : Packet) : State :=
  let cl := clusterOf (r.field 2)
  let n := r.field 4
  if r.field 0 ≠ 0 then s
  else if r.marked 0 then s.poisonFetch cl n
  else s.fillIcache cl n (BitVec.ofNat 32 (ofBytes (r.payload.take 4)))

/-- A read of the CP answered. -/
def CpRead.answered (x : CpRead) (r : Packet) : CpRead :=
  if x.queue = r.field 4 ∧ x.dev = r.src ∧ x.addr = r.addr ∧ x.answer = none then { x with answer := some (r.field 0, r.payload, r.poison) } else x
def State.answerCp (s : State) (r : Packet) : State :=
  { s with cp := { s.cp with remote := s.cp.remote.map (fun x => x.answered r) } }

/-- A response packet accepted. -/
def State.serveResponse (s : State) (r : Packet) : State :=
  if r.field 1 = forFetch then s.answerFetch r
  else if r.field 1 = forStrand then s.answerStrand r
  else if r.field 1 = forStream ∨ r.field 1 = forToken then s.answerStream r
  else if r.field 1 = forCp then s.answerCp r
  else s.answerJob r

/-! ### Acceptance (R268, R269) -/

/-- An accepted packet takes effect. -/
def State.deliver' (s : State) (p : Packet) : State :=
  if p.cls = clsResponse then s.serveResponse p
  else if p.op = opRead then s.serveRead p
  else if p.op = opFetch then s.serveRead p
  else if p.op = opWrite then s.serveWrite p
  else if p.op = opPair then s.servePair p
  else if p.op = opToken then s.serveToken p
  else if p.op = opDemand then s.serveDemand p
  else if p.op = opJoin then s.serveJoin p
  else if p.op = opGroup then s.serveGroup p
  else if p.op = opChunk then s.serveChunk p
  else if p.op = opReady then s.serveReady p
  else if p.op = opLoss then s.loseRanks p.addr [p.field 0]
  else s

/-- An accepted packet of the atomic class takes effect; its answer is its acknowledgement. -/
def State.deliverAtomic (s : State) (p : Packet) : State :=
  if p.op = opAtomic then (let r := s.serveAtomic p; r.2.answerAtomic p.src p.seq r.1)
  else if p.op = opUpdate then s.serveUpdate p
  else if p.op = opAdmit then s.serveAdmit p
  else s.answerAtomic p.src p.seq 0

/-- The acknowledgement of every packet of a flow before the expected number, over a route to its source. -/
def State.acknowledge (s : State) (src cls : Nat) : State :=
  let n := s.lastAccepted src cls
  if s.routeUp src then s.reply ⟨src, s.sys.devid, cls, opAck, n, 0, 0, 0, [], 0, n, s.routeTag src⟩ else s

/-! ### Answers of the atomic class -/

/-- The answer to a strand's atomic (R128, R133). -/
def State.answerAtomicStrand (s : State) (q : Packet) (value : Nat) (poison : Bool) (code : Nat) : State :=
  let core := q.field 5
  let k := q.field 6
  match (s.strandAt core k).hold with
  | .response p =>
    if p.atomic.isNone || p.seq != q.seq || p.pa % 2 ^ 40 != q.addr || Machine.field p.pa 50 40 != q.dst then s
    else if code ≠ 0 then s.takeTrapAt core k (codeCause code) (BitVec.ofNat 64 p.ea) (s.strandAt core k).pc
    else s.respond core k p (BitVec.ofNat 64 value) poison
  | _ => s

/-- An update of a stream refused at its home, or given up: an error token in its return's place (R100). -/
def Crew.updateFailed (w : Crew) (slot pos ea code : Nat) : Crew :=
  match tfind w.streams.slots slot with
  | some a =>
    (w.countError code).setSlot slot (({ a with outstanding := a.outstanding - 1 } : Active).deliver pos (some (memoryError code ea a.cmd.strand)))
  | none => w

/-- The answer to a command's admission (R248). -/
def State.answerAdmit (s : State) (core key flow seq code detail : Nat) : State :=
  match (s.crew core).job key with
  | some j =>
    if j.sent.contains (flow, seq) then
      let k := { j with sent := [] }
      (if j.cmd.op = .send then s.putJob core key (k.answered code detail) else s.routeAnswered core key k (code == 0))
    else s
  | none => s

/-- The answer to an atomic-class packet of this device: what waited for it goes on. The packet stays in the retry buffer until it is acknowledged, and a
second answer to it is dropped (R268, R269). -/
def State.atomicAnswered (s : State) (p : Packet) : State :=
  let f := s.flow p.src clsAtomic
  match f.unacked.find? (fun q => q.seq == p.seq && !(f.answered.contains p.seq)) with
  | none => s
  | some q =>
    let s1 := s.setFlow p.src clsAtomic { f with answered := p.seq :: f.answered }
    let value := ofBytes (p.payload.take 8)
    let poison := p.poison != 0
    let code := p.field 0
    if q.op = opAtomic then s1.answerAtomicStrand q value poison code
    else if q.op = opUpdate then
      s1.modCrew (q.field 3) (fun w =>
        if q.issuer ≠ w.info.tag + 1 then w
        else if code ≠ 0 then w.updateFailed (q.field 4) (q.field 5) (q.field 6) code
        else w.updateDone ⟨.phys q.addr, q.field 0, q.field 1, q.field 2 != 0, q.field 3, q.field 4, q.field 5, q.field 6, none⟩ value poison)
    else if q.op = opVoid then s1
    else s1.answerAdmit (q.field 5) (q.field 6) (4 * p.src + clsAtomic) p.seq code (p.field 1)

/-! ### Acknowledgements (R268) -/

/-- A write acknowledged to a strand: an unposted store completes (R127). -/
def State.storeDone (s : State) (q : Packet) : State :=
  let core := q.field 2
  let k := q.field 3
  match (s.strandAt core k).hold with
  | .response p =>
    if p.store && p.seq == q.seq && p.pa % 2 ^ 40 == q.addr && Machine.field p.pa 50 40 == q.dst then s.setStrandAt core k ((s.strandAt core k).complete p.len) else s
  | _ => s

/-- A packet acknowledged to a stream, and to a command, which has then performed its bytes. -/
def Active.packetDone (a : Active) (flow seq : Nat) : Active := { a with sent := a.sent.filter (· != (flow, seq)) }
def NxJob.packetDone (j : NxJob) (flow seq n : Nat) : NxJob :=
  let g := j.gather.map (fun a => a.packetDone flow seq)
  if j.sent.contains (flow, seq) then
    { j with sent := j.sent.filter (· != (flow, seq)), count := if j.phase = .finished then j.count else j.count + n, gather := g }
  else { j with gather := g }
def Crew.packetDone (w : Crew) (flow seq n : Nat) : Crew :=
  { w with
    streams := { w.streams with slots := w.streams.slots.map (fun a => (a.1, a.2.packetDone flow seq)) }
    nx := w.nx.map (fun j => (j.1, j.2.packetDone flow seq n)) }

/-- A packet of a flow acknowledged. -/
def State.packetDone (s : State) (q : Packet) : State :=
  if q.op = opWrite then
    (if q.field 1 = forStrand then s.storeDone q
     else s.mapCrews (fun w => w.packetDone (4 * q.dst + q.cls) q.seq q.payload.length))
  else if q.refuses.isSome then s.acknowledge q.dst clsRequest
  else s


/-- Every packet of a flow up to a number acknowledged; `dest` is 4 * device + class. Of the atomic class one leaves with those before it, once they have all
been answered: a replay must fetch an answer that is missing (R269). -/
def State.ackFlow (s : State) (dest seq : Nat) : State :=
  let f := tget s.fabric.out dest emptyFlow
  if !((f.unacked.take 1024).any (fun q => q.seq == seq)) then s
  else
    let upTo := f.unacked.takeWhile (fun q => q.seq != seq) ++ (f.unacked.find? (fun q => q.seq == seq)).toList
    let done := if dest % 4 = clsAtomic then upTo.takeWhile (fun q => f.answered.contains q.seq) else upTo
    let s1 := { s with
      fabric := { s.fabric with
        out := tset s.fabric.out dest { f with
          unacked := f.unacked.drop done.length
          answered := f.answered.filter (fun n => !(done.any (fun q => q.seq == n))) } } }
    done.foldl (fun t q => t.packetDone q) s1

/-- R268: an acknowledgement arrives. -/
def execAckReceive (dest seq : Nat) (s : State) : Out := .next (s.ackFlow dest seq)

/-! ### Arrival (R268, R269) -/

/-- A packet that is not an answer: accepted in its turn, or discarded. -/
def State.receive (s : State) (p : Packet) : State :=
  let key := 4 * p.src + p.cls
  let want := tget s.fabric.expect key 0
  let behind := (want + 65536 - p.seq % 65536) % 65536
  if behind = 0 then
    (if s.takes p then
      let s1 := { s with fabric := { s.fabric with expect := tset s.fabric.expect key ((want + 1) % 65536) } }
      if p.cls = clsAtomic then s1.deliverAtomic p else (s1.deliver' p).acknowledge p.src p.cls
    else s)
  else if behind ≤ 32768 then
    (if p.cls = clsAtomic then
      (match tfind (tget s.fabric.cache p.src []) p.seq with | some a => s.sendAnswer p.src p.seq a | none => s)
     else s.acknowledge p.src p.cls)
  else s

/-- R268, R269: a packet arrives from a source; its header acknowledges the reverse flow. While devid is unlocked no packet passes (R373). -/
def execPacketReceive (source seq : Nat) (payload : List Nat) (s : State) : Out :=
  .next (if !s.sys.lock || !(decide (source < 2048)) || source == s.sys.devid then s
    else match packetOf s.sys.devid source (seq % 65536) payload with
      | none => s
      | some p =>
        let s1 := if p.cls = clsAtomic ∧ p.op = opAnswer then s.atomicAnswered p else s.receive p
        s1.ackFlow (4 * source + p.cls) p.ack)

/-! ### Failing routes (R270) -/

/-- The packets that each crew caused among those replayed, counted in its csr_replay, which stops at its largest value. -/
def State.countReplays (s : State) (dev : Nat) : State :=
  let ps := (List.range 4).flatMap (fun c => (s.flow dev c).unacked.take 1024)
  s.mapCrews (fun w => { w with
    replay := BitVec.ofNat 64 (Nat.min (2 ^ 64 - 1) (w.replay.toNat + (ps.filter (fun q => q.issuer == w.info.tag + 1)).length)) })

/-- A packet whose request has ended: it is never replayed (R133), and one without effect keeps its number. DEDUCED, log 48. -/
def Packet.giveUp (p : Packet) : Packet :=
  if p.op = opRead ∨ p.op = opFetch ∨ p.op = opWrite ∨ p.op = opAtomic ∨ p.op = opUpdate ∨ p.op = opAdmit then
    { p with op := opVoid, addr := 0, poison := 0, aux := 0, payload := [] }
  else p

/-- The unacknowledged packets to a device take the route in use now (R270). -/
def State.reroute (s : State) (dev : Nat) : State :=
  (List.range 4).foldl (fun t c =>
    let f := t.flow dev c
    if f.unacked.isEmpty then t else t.setFlow dev c { f with unacked := f.unacked.map (fun q => { q with route := s.routeTag dev }) }) s

/-- Strands that wait for a device trap (R128). -/
def State.strandsUnreachable (s : State) (dev : Nat) : State :=
  s.cores.foldl (fun t c => (List.range 4).foldl (fun u k =>
    match (u.strandAt c.1 k).hold with
    | .response p => if c.2.held && isFabricPa p.pa && field p.pa 50 40 == dev then
        u.takeTrapAt c.1 k causeFabricUnreachable (BitVec.ofNat 64 dev) (u.strandAt c.1 k).pc else u
    | _ => u) t) s

/-- The tokens with writes of a crew's streams to a device that are not acknowledged. -/
def State.lostTokens (s : State) (tag dev : Nat) : List Nat :=
  (((s.flow dev clsRequest).unacked.filter (fun q => q.op == opWrite && q.field 1 == forToken && q.issuer == tag + 1)).map (fun q => q.field 4)).eraseDups

/-- Streams of a crew that wait for a device: elements asked for are tried again and then fail; tokens with writes not acknowledged count as
errors of code 0x07. -/
def Crew.streamsUnreachable (w : Crew) (dev : Nat) (lost : List Nat) : Crew :=
  let slots := w.streams.slots.map (fun a => (a.1, { a.2 with asked := [], sent := a.2.sent.filter (fun x => x.1 / 4 != dev) }))
  lost.foldl (fun u m => u.countRefused m 0x07) { w with streams := { w.streams with slots := slots } }

/-- A command of a crew that waits for a device (Table 9.3). -/
def NxJob.unreachable (j : NxJob) (dev : Nat) : NxJob :=
  let rest := j.sent.filter (fun x => x.1 / 4 != dev)
  let k := if rest.length < j.sent.length then { j.note nxUnreachable dev with sent := rest } else j
  match j.cmd.op with
  | .put => { k with asked := [] }
  | .get => { k with asked := [] }
  | .grp => { k with asked := [] }
  | .xget => { k with gather := k.gather.map (fun a => { a with asked := [] }) }
  | .send => if rest.length < j.sent.length then k.finish else k
  | _ => k

/-- Streams and commands of a crew, on a core or suspended, that wait for a device. A choice of nx.route given up goes on to its next when the route unit
comes to it. -/
def Crew.commandsUnreachable (w : Crew) (dev : Nat) (lost : List Nat) : Crew :=
  let u := w.streamsUnreachable dev lost
  { u with nx := u.nx.map (fun x => (x.1, x.2.unreachable dev)) }

/-- Updates on their way to a device given up (Table 4.11, code 0x07). -/
def State.updatesUnreachable (s : State) (dev : Nat) : State :=
  ((s.flow dev clsAtomic).unacked.filter (fun q => q.op == opUpdate && !((s.flow dev clsAtomic).answered.contains q.seq))).foldl (fun t q =>
    t.modCrew (q.field 3) (fun w => if q.issuer = w.info.tag + 1 then w.updateFailed (q.field 4) (q.field 5) (q.field 6) 0x07 else w)) s

/-- No route to a device is left: everything that waits on its flows ends. A domain launch in progress that it is a member of has lost it (R332). DEDUCED, log 46. -/
def State.allRoutesLost (s : State) (dev : Nat) : State :=
  let s1 := (s.updatesUnreachable dev).strandsUnreachable dev
  let s2 := (s1.mapCrews (fun w => w.commandsUnreachable dev (s1.lostTokens w.info.tag dev)))
  let s3 := (List.range 4).foldl (fun t c => let f := t.flow dev c; t.setFlow dev c { f with unacked := f.unacked.map Packet.giveUp }) s2
  let reads := s3.cp.remote.map (fun x => if x.dev = dev ∧ x.answer = none then { x with answer := some (0x07, [], 0) } else x)
  { s3 with
    cp := { s3.cp with
      launches := s3.cp.launches.map (fun l =>
        (l.1, if l.2.dtag ≠ 0 ∧ s3.domainMember l.2.dtag l.2.run l.2.ndev dev = true then { l.2 with degraded := true } else l.2))
      remote := reads } }

/-- A route marked failed; if it was the one in use, its packets are replayed on the next, or there is none. -/
def State.failRoute (s : State) (dev i : Nat) : State :=
  let used := s.routeInUse dev == some i
  let k := 4 * dev + i
  let s1 := { s with fabric := { s.fabric with routes := tset s.fabric.routes k (setBit (tget s.fabric.routes k 0) 21 true) } }
  if !used then s1
  else if s1.routeUp dev then (s1.countReplays dev).reroute dev
  else s1.allRoutesLost dev

/-- A route of the ephemeris written by the control plane, its failed bit kept (R270; DESIGN CHOICE, log 19). One that was the last to a device and is not valid
any more ends what waits for it. -/
def State.writeRoute (s : State) (dev i word : Nat) : State :=
  if dev < 2048 ∧ i < 4 then
    let k := 4 * dev + i
    let t := { s with fabric := { s.fabric with routes := tset s.fabric.routes k (setBit (word % 2 ^ 21) 21 ((tget s.fabric.routes k 0).testBit 21)) } }
    if s.routeUp dev && !(t.routeUp dev) then t.allRoutesLost dev else t.reroute dev
  else s

/-- R270: the routes through a Nueth port fail as its link goes down. -/
def execLinkDown (link : Nat) (s : State) : Out :=
  let s1 := (s.fabric.routes.filter (fun r => r.2.testBit 20 && !(r.2.testBit 21) && field r.2 3 0 == link)).foldl
    (fun t r => t.failRoute (r.1 / 4) (r.1 % 4)) s
  .next { s1 with sys := { s1.sys with ports := sdel s1.sys.ports link } }

/-- R270: an acknowledgement of a device has been missing for 5 µs: the route in use to it fails. -/
def execAckTimeout (dest : Nat) (s : State) : Out :=
  .next (match s.routeInUse dest with
    | some i => if (List.range 4).any (fun c => !((s.flow dest c).unacked.isEmpty)) then s.failRoute dest i else s
    | none => s)

end Sys2Proof.Machine
end

