-- ==== Sys2Proof/Machine/Ending.lean ====
section
/-!
DEFINITION. How a crew leaves its core: ending, retirement, the watchdog (spec 12, R335; spec 13, R345, R346).
-/
namespace Sys2Proof.Machine
open Sys2Proof

/-! ### Launches and cores -/

def State.launch (s : State) (l : Nat) : Option Launch := tfind s.cp.launches l
/-- A launch in progress changed. -/
def State.modLaunch (s : State) (l : Nat) (f : Launch → Launch) : State :=
  match s.launch l with
  | some x => { s with cp := { s.cp with launches := tset s.cp.launches l (f x) } }
  | none => s

/-- A core freed: no crew, no test pending, and the time noted (R361). -/
def State.freeCore (s : State) (core : Nat) : State :=
  (s.setCore core { s.core core with held := false, crew := emptyCrew }).setHealth core { s.health core with freed := s.time }

/-- A crew counted as retired, with the cause of its ending if it was ended (R336, R345). -/
def Launch.countRetired (l : Launch) (failed : Option Cause) : Launch :=
  { l with retired := l.retired + 1, failed := match l.failed with | some c => some c | none => failed }

/-! ### What a crew holds outside its core -/

/-- The windows of a core unregistered (R123). -/
def State.dropWindows (s : State) (core : Nat) : State :=
  (s.windows.filter (fun x => x.core == core)).foldl (fun t x => t.dropWindow x) s

/-- The rings a crew declared retired (R250). -/
def State.dropRings (s : State) (i : CrewInfo) : State :=
  { s with rings := s.rings.filter (fun r => !(r.2.launch == i.launch && r.2.tile == i.tile)) }

/-- The groups a crew joined left (R258). -/
def State.leaveGroups (s : State) (i : CrewInfo) : State :=
  s.groups.foldl (fun t g => t.leaveGroup g.1 i.launch i.tile) s

/-- The groups of a crew that the monitor ends: of a complete one its member is lost (R257), of another it leaves. -/
def State.endMembers (s : State) (i : CrewInfo) : State :=
  s.groups.foldl (fun t g =>
    if g.2.complete then
      t.setGroup g.1 { g.2 with members := g.2.members.map (fun m => if m.launch = i.launch ∧ m.tile = i.tile then { m with ended := true } else m) }
    else t.leaveGroup g.1 i.launch i.tile) s

/-- A step made a number of times. -/
def repeatStep (f : State → State) : Nat → State → State
  | 0, s => s
  | n + 1, s => repeatStep f n (f s)

/-- Is an update one of a core's streams? -/
def Update.isOf (u : Update) (core : Nat) : Bool := u.core == core && u.remote.isNone

/-- Accesses already issued performed and requests dropped (R345): the units that hold updates of a core's streams, and the core's own unit, apply
what they hold. -/
def State.settleCore (s : State) (core : Nat) : State :=
  let s1 := s.dropRequests core 0xFFFF
  let s2 := s1.suu.foldl (fun t (q : Nat × List Update) =>
    if q.2.any (fun u => u.isOf core) then repeatStep (fun v => v.suuApply q.1) q.2.length t else t) s1
  s2.cores.foldl (fun t c =>
    if c.1 = core ∨ c.2.crew.puu.any (fun u => u.isOf core) = true then repeatStep (fun v => v.puuApply c.1) c.2.crew.puu.length t else t) s2

/-! ### Ending (R345) -/

/-- The crew of a core ended with a cause, its launch told. -/
def State.endCrew (s : State) (core : Nat) (cause : Cause) : State :=
  let i := (s.crew core).info
  let s1 := (s.drainCore core).settleCore core
  let s2 := ((s1.dropWindows core).dropRings i).endMembers i
  let s3 := s2.rasCrew 0x000A core ⟨cause.toNat, i.seq, 0, 0⟩
  (s3.freeCore core).modLaunch i.launch (fun l => l.countRetired (some cause))

/-- R345: the ending that the monitor has decided; a save in progress is waited for. -/
def execEndCrew (core : Nat) (cause : BitVec 8) (s : State) : Out :=
  .next (if (s.core core).held && (s.crew core).ending == some cause && (s.crew core).saving.isNone then s.endCrew core cause else s)

/-! ### Retirement (R335, Tables 6.7, 7.5, 8.4, R244) -/

/-- Has the graph drained: no SM command open, nothing on its way to or from a ring, and no node or gate able to move a token? -/
def Crew.graphDrained (w : Crew) : Bool :=
  w.streams.queue.isEmpty && w.streams.slots.isEmpty && w.streams.open_.all (fun k => k.2 == 0)
    && w.chans.all (fun c => (firstStaged c.2.ring).isNone && (c.2.noRing || decide (Config.chanDepth ≤ c.2.count)))
    && (List.range 8).all (fun k => (w.linkMove k).isNone)
    && (List.range 4).all (fun k => (w.repeatMove (8 + k)).isNone && (w.steerMove (12 + k)).isNone && (w.mergeMove (16 + k)).isNone)
    && (List.range 12).all (fun k => (w.joinAlign (8 + k)).isNone)
    && (List.range 8).all (fun k => (w.demandMove (20 + k) 0).isNone)

/-- Has the array drained? -/
def Crew.arrayDrained (w : Crew) : Bool :=
  let r := w.array
  r.cfgq.isEmpty && r.feedq.isEmpty && r.drainq.isEmpty && r.feeding.isEmpty && r.spans.isEmpty && r.slices.isEmpty
    && r.cells.all (fun c => !c.2.fires)

/-- Have the elements drained: is no slot of an active plane ready, whether or not its element runs (R206, R222)? -/
def Crew.elementsDrained (w : Crew) : Bool :=
  w.veq.isEmpty && (List.range 8).all (fun e => (w.pickSlot e).isNone)

/-- Has the NX engine drained, and can the elastic endpoints be retired (R244, R254)? -/
def Crew.nxDrained (w : Crew) : Bool :=
  w.nxq.isEmpty && w.nx.isEmpty && w.endpoints.all (fun e => if 32 ≤ e.1 then e.2.buffer.isEmpty else (w.chan e.1).drained)

/-- May a crew retire? -/
def Crew.mayRetire (w : Crew) : Bool :=
  w.strands.all (fun k => !k.2.present || k.2.halted) && w.strands.any (fun k => k.2.present)
    && w.graphDrained && w.arrayDrained && w.elementsDrained && w.nxDrained && w.puu.isEmpty
    && w.ending.isNone && w.saving.isNone

/-- R335. -/
def execCrewRetire (core : Nat) (s : State) : Out :=
  .next (if (s.core core).held && (s.crew core).mayRetire then
      (let i := (s.crew core).info
       let s1 := ((s.dropWindows core).dropRings i).leaveGroups i
       (s1.freeCore core).modLaunch i.launch (fun l => l.countRetired none))
    else s)

/-! ### The watchdog (R346) -/

/-- A second in units of 1/13 ns. -/
def unitsSecond : Nat := 13000000000

/-- R346: csr_tval is the count of cc without progress. -/
def execWatchdog (core : Nat) (s : State) : Out :=
  let w := s.crew core
  .next (if (s.core core).held && w.ending.isNone && w.saving.isNone && !w.excused && decide (unitsSecond ≤ s.time - w.progress) then
      s.setCrew core (w.postTrap 0 causeWatchdog (BitVec.ofNat 64 (Nat.min (2 ^ 64 - 1) ((w.cycle - w.progressCycle) / 20))))
    else s)

end Sys2Proof.Machine
end

