-- ==== Sys2Proof/Machine/Saves.lean ====
section
/-!
DEFINITION. Saving and resuming gangs (spec 13, R347 to R356; spec 12, R331, R335).
-/
namespace Sys2Proof.Machine
open Sys2Proof

/-! ### Gangs on cores -/

/-- The cores that hold the crews of a gang, in ascending order. -/
def State.gangCores (s : State) (launch gang : Nat) : List Nat :=
  (s.cores.filter (fun k => k.2.held && k.2.crew.info.launch == launch && k.2.crew.info.gang == gang)).map (·.1)

/-- The cores of the gang of a core's crew. -/
def State.mates (s : State) (core : Nat) : List Nat := s.gangCores (s.crew core).info.launch (s.crew core).info.gang

/-- Every crew of a list of cores changed. -/
def State.onCores (s : State) (cores : List Nat) (f : Crew → Crew) : State := cores.foldl (fun t c => t.modCrew c f) s

/-- The most an engine image of a crew of a side takes (R353). -/
def imageBytes (side : Nat) : Nat := if side = 1 then 1310720 else 786432

/-- The places of the region, each of the largest size, and those taken by the images of suspended crews and of those being saved. -/
def imagePlace : Nat := 1310720
def State.imagesHeld (s : State) : List Nat :=
  s.cp.gangs.flatMap (fun g => g.2.images) ++ s.cores.filterMap (fun k => if k.2.held then k.2.crew.saving.map (fun v => v.image) else none)

/-- The n lowest free places of the region; fewer where it has no room for n (R353). -/
def State.imagePlaces (s : State) (n : Nat) : List Nat :=
  ((List.range (s.sys.imageRoom / imagePlace)).filter (fun i => !(s.imagesHeld.contains i))).take n

/-- Is there room for the engine images of the gang of a core's crew (R353)? -/
def State.imageFits (s : State) (core : Nat) : Bool :=
  decide ((s.imagePlaces (s.mates core).length).length = (s.mates core).length)

/-- May the gang of a core's crew be saved: it has a save area, there is room for its images, no save is in progress and no ending decided (R345,
R349, R353)? -/
def State.maySave (s : State) (core : Nat) : Bool :=
  (s.core core).held && (s.crew core).info.saveSize != 0 && s.imageFits core
    && (s.mates core).all (fun c => (s.crew c).saving.isNone && (s.crew c).ending.isNone)

/-- A save of the gang of a core's crew requested (R348). DEDUCED, log 51. -/
def State.beginSave (s : State) (core reason wva : Nat) : State :=
  if s.maySave core then
    (List.zip (s.mates core) (s.imagePlaces (s.mates core).length)).foldl (fun t x =>
      t.modCrew x.1 (fun w => { w with saving := some ⟨reason, false, false, s.time, wva, x.2, []⟩ })) s
  else s

/-- Does a cluster own a handover record (R263)? -/
def State.ownsPages (s : State) (cl : Nat) : Bool := s.handovers.any (fun h => h.2.owner == cl)

/-! ### Step 1: quiesce -/

/-- Is a strand at an instruction boundary in kernel mode, with no access of its own sent (R341)? -/
def Strand.quiet (t : Strand) : Bool :=
  !t.present || t.halted || (!t.monitor && (match t.hold with | .response _ => false | _ => true))

/-- Is every strand of a crew quiet? One that the monitor has decided to end has stopped (R345). -/
def Crew.quiet (w : Crew) : Bool := w.ending.isSome || w.strands.all (fun k => k.2.quiet)

/-! ### Step 2: the snapshot (R139, R350) -/

/-- Does a node or gate of the graph produce into a channel, or consume from it? -/
def Crew.nodeUses (w : Crew) (prod : Bool) (ch : Nat) : Bool := (List.range 28).any (fun k => (w.active.uses prod k).contains ch)

/-- Has a channel a consumer or something in it? -/
def Crew.chanInUse (w : Crew) (ch : Nat) : Bool :=
  w.nodeUses false ch || !((w.chan ch).fifo.isEmpty) || !((w.chan ch).noRing) || w.streams.slots.any (fun a => a.2.cmd.ins.contains ch)

/-- Snapshot markers placed at every source: on the channels in use that no node of the graph produces into. DEDUCED, log 50. -/
def Crew.placeSnaps (w : Crew) : Crew :=
  (List.range 32).foldl (fun u ch => if w.chanInUse ch && !(w.nodeUses true ch) then u.setChan ch ((u.chan ch).push (.snap 0)) else u) w

/-- Snapshot markers at the heads of channels that leave the graph removed (R350). -/
def Crew.sinkSnaps (w : Crew) : Crew :=
  (List.range 32).foldl (fun u ch =>
    match (u.chan ch).fifo with
    | .snap _ :: _ => if w.nodeUses false ch then u else u.dequeue ch
    | _ => u) w

/-- Every snapshot marker of the engine removed (R350). -/
def Crew.dropSnaps (w : Crew) : Crew :=
  { w with
    chans := w.chans.map (fun c => (c.1, { c.2 with
      fifo := c.2.fifo.filter (fun i => !(isSnap i))
      ring := c.2.ring.filter (fun i => !(isRingSnap i))
      later := c.2.later.filter (fun i => !(isRingSnap i)) }))
    graph := { w.graph with states := w.graph.states.map (fun n => (n.1, { n.2 with buf := n.2.buf.filter (fun t => !(placedZero t)) })) } }

/-! ### Step 3: tile boundaries -/

/-- Can a stream go no further, though it stands off a multiple of 4,096: held by a withheld page, by an input that nothing can fill, since every source holds back
and no node has anything to do, by the credit of its output, or as a gather by its output's space? What a request or an update stream sends beyond its
channels' space goes to the image (R103). DEDUCED, log 51. -/
def Crew.tileStuck (w : Crew) (a : Active) : Bool :=
  a.broken.isSome || a.withheld.isSome
    || (w.snapOver && w.graphStill && (a.cmd.ins.any (fun c => (w.streamHead a c).isNone)
      || (match a.cmd.op with
          | .isx => !(w.iseReady a)
          | .upd => !(w.streamCovers a (a.outstanding + a.returns.length + a.send.length))
          | _ => !(w.streamCredit a))
      || (a.cmd.op == .ind && (match a.send with | t :: _ => !(w.streamCanSend a t) | [] => false))))

/-- Is a stream at a tile boundary or its end, or can it go no further (R348 step 3)? -/
def Crew.atTile (w : Crew) (a : Active) : Bool := !(a.cmd.op.tiled) || a.ended || a.pos % 4096 == 0 || w.tileStuck a

/-- Has a stream nothing on its way: no write or update unacknowledged? -/
def Active.settled (a : Active) : Bool := a.sent.isEmpty && a.outstanding == 0

/-- Has every check failure of the array replayed to its end (R356)? -/
def Array.replayed (r : Array) : Bool := r.cells.all (fun c => c.2.fails == 0) && r.spans.all (fun x => x.fails == 0) && r.combineFails == 0

/-- May the state of a crew be copied (R348 steps 2 to 4)? A message whose admission is with another device is waited for. A crew that ends is not copied. -/
def Crew.mayCopy (w : Crew) : Bool :=
  w.ending.isSome || w.streams.slots.all (fun a => a.2.settled && w.atTile a.2) && w.puu.isEmpty && w.array.replayed
    && w.nx.all (fun j => j.2.sent.all (fun x => x.1 % 4 != clsAtomic))
    && w.snapOver

/-! ### Step 5: the image (R352 to R354) -/

/-- The bytes of [lo, lo + n) of a memory, counted from lo. -/
def memSlice (m : Memory) (lo n : Nat) : Memory :=
  (m.filter (fun b => decide (lo ≤ b.1) && decide (b.1 < lo + n))).map (fun b => (b.1 - lo, b.2))

/-- A memory with n bytes at a replaced by those given. -/
def memSplice (m : Memory) (a n : Nat) (b : Memory) : Memory := b.foldl (fun t x => mset t (a + x.1) x.2) (mclear m a (a + n))

/-- Poison marks without those of [a, a + n). -/
def unmark (t : NatSet) (a n : Nat) : NatSet := t.filter (fun g => decide (g < a / 32) || decide ((a + n) / 32 ≤ g))

/-- A 4 KiB unit of an image written at a virtual address for a crew; a unit whose page cannot be reached is left out (DESIGN CHOICE, log 36). -/
def State.saveUnit (s : State) (core va : Nat) (b : Memory) : State :=
  let r := s.reach core whoMonitor va 4096 ⟨false, true, false, true, true⟩
  match r.1 with
  | .ok pa leaf =>
    let t := r.2.touchLine (clusterOf core) pa (leafPolicy leaf) true
    (match r.2.locOf pa with
     | .hbm a => { t with hbm := memSplice t.hbm a 4096 b, hbmPoison := unmark t.hbmPoison a 4096 }
     | .host a => if t.hostUp then { t with host := memSplice t.host a 4096 b, hostPoison := unmark t.hostPoison a 4096 } else t
     | .pool c a => t.modCrew c (fun w => ({ w with pool := memSplice w.pool a 4096 b, poolPoison := unmark w.poolPoison a 4096 } : Crew).wrote a 4096)
     | .remote dev a => if t.routeUp dev then t.send dev clsRequest opWrite a [4096, forNobody] (mgetN b 0 4096) 0 core else t
     | .none _ => t)
  | _ => r.2

/-- The code of a unit in a coded image (R354). -/
def unitCode (b : Memory) : Nat :=
  if b.isEmpty then 1
  else
    let w := mgetN b 0 8
    if (List.range 512).all (fun i => mgetN b (8 * i) 8 == w) then 2 else 3

/-- Is unit u of the pool image in the region of a window of the core? -/
def State.unitInWindow (s : State) (core u : Nat) : Bool :=
  s.windows.any (fun x => x.core == core && decide (x.spoff ≤ 4096 * u) && decide (4096 * u < x.spoff + 65536 * x.frames.length))

/-- The code of a unit of a core's pool: 0 where nothing has written it since launch (R354). -/
def Crew.poolCode (w : Crew) (u : Nat) : Nat := if smem w.units u then unitCode (memSlice w.pool (4096 * u) 4096) else 0

/-- The bytes of a section whose form the implementation chooses (R352): free, n of them from the offset o of a core's image. -/
def State.imageForm (s : State) (core o n : Nat) : List Byte := (List.range n).map (fun i => BitVec.ofNat 8 (s.freeNat (2 ^ 24 + 2 ^ 23 * core + o + i)))
def State.formUnit (s : State) (core u : Nat) : Memory := msetN [] 0 (s.imageForm core (4096 * u) 4096)

/-- A unit written as its code says: only codes 2 and 3 are written, code 2 as its value; in a full save the whole unit. -/
def State.saveCoded (s : State) (core u code : Nat) (coded : Bool) (b : Memory) : State :=
  let va := (s.crew core).info.saveBase.toNat + 4096 * u
  if !coded || code == 3 then s.saveUnit core va b
  else if code = 2 then (s.storeBlock core va (mgetN b 0 8) true).getD s
  else s

/-- The image of a core's pool written, unit by unit. -/
def State.savePool (s : State) (core : Nat) (coded : Bool) (skip : Nat → Bool) : State :=
  let w := s.crew core
  (List.range 1024).foldl (fun t u => if skip u then t else t.saveCoded core u (w.poolCode u) coded (memSlice w.pool (4096 * u) 4096)) s

/-- The sections of open form written (Table 13.3). -/
def State.saveSections (s : State) (core : Nat) (coded : Bool) : State :=
  (List.range 61).foldl (fun t i => t.saveCoded core (1027 + i) (unitCode (s.formUnit core (1027 + i))) coded (s.formUnit core (1027 + i))) s

/-- The unit map of a coded image: units by what they hold, the header and strand state written whole. -/
def State.unitMap (s : State) (core : Nat) (skip : Nat → Bool) : List Byte :=
  let w := s.crew core
  let code := fun (u : Nat) =>
    if u < 1024 then (if skip u then 0 else w.poolCode u)
    else if u < 1026 then 3 else if u = 1026 then (if w.framed then 3 else 0) else unitCode (s.formUnit core u)
  (List.range 272).map (fun i => BitVec.ofNat 8 (code (4 * i) + 4 * code (4 * i + 1) + 16 * code (4 * i + 2) + 64 * code (4 * i + 3)))

/-- The physical address of an engine image by its place. -/
def State.imageAddress (s : State) (place : Nat) : Nat := s.sys.imageBase + imagePlace * place

/-- The save header (Table 13.4). -/
def State.saveHeader (s : State) (core : Nat) (v : Save) (coded : Bool) (skip : Nat → Bool) : List Byte :=
  let w := s.crew core
  let i := w.info
  let b := bytesOf 4 1 ++ bytesOf 1 v.reason ++ bytesOf 1 (b2n coded) ++ bytesOf 1 i.side ++ bytesOf 1 i.nstr ++ bytesOf 4 i.tile
    ++ bytesOf 2 i.seq ++ bytesOf 2 0 ++ bytesOf 8 v.wva ++ bytesOf 8 (s.imageAddress v.image) ++ bytesOf 8 s.ns ++ bytesOf 8 w.cycleCsr.toNat
    ++ (if coded then s.unitMap core skip else bytesOf 272 0)
  let c := b ++ bytesOf (4092 - b.length) 0
  c ++ bytesOf 4 (crc32c c)

/-- A formed node of a span as 16 bytes: its f64 value, its place in the tree, its entry (R39, R353). -/
def nodeBytes (x : Span) (n : Nat × Nat) : List Byte := bytesOf 8 n.2 ++ bytesOf 4 n.1 ++ bytesOf 4 x.entry

/-- The formed nodes of a crew's spans, 2,048 at most. -/
def Crew.formedNodes (w : Crew) : List Byte :=
  ((w.array.spans.flatMap (fun x => (x.nodes (ceilLog2 x.npos) 1 0).map (nodeBytes x))).take 2048).flatten

/-- The engine image of a crew: the leaves' 64 bytes each, then the formed nodes; but for these its form is the implementation's (R353; DESIGN CHOICE, log 36). -/
def State.engineImage (s : State) (core : Nat) : List Byte :=
  let n := imageBytes (s.crew core).info.side
  let leaves := 64 * activeLeaves core
  let nodes := (s.crew core).formedNodes
  s.imageForm core 0x440000 leaves ++ nodes ++ s.imageForm core (0x440000 + leaves + nodes.length) (n - leaves - nodes.length)

/-- The engine image of a crew written in its region, 4 KiB by 4 KiB; the part in a stack that is not up waits for it (R13). -/
def State.saveEngine (s : State) (core : Nat) (v : Save) : State :=
  let n := imageBytes (s.crew core).info.side
  let b := s.engineImage core
  ((List.range (n / 4096)).foldl (fun t i => t.putFirmware (s.imageAddress v.image + 4096 * i) ((b.drop (4096 * i)).take 4096)) s).recall
    (s.imageAddress v.image) n

/-- The unit of the trap frames written in a full save as it stands: the frames are in memory already (R344, R354). -/
def State.saveFrames (s : State) (core : Nat) : State :=
  let va := (s.crew core).info.saveBase.toNat + 0x402000
  let r := s.reach core whoMonitor va 4096 ⟨false, true, false, true, true⟩
  match r.1 with
  | .ok pa _ => (match r.2.locOf pa with
    | .hbm a => r.2.saveUnit core va (memSlice r.2.hbm a 4096)
    | .host a => r.2.saveUnit core va (memSlice r.2.host a 4096)
    | .pool c a => r.2.saveUnit core va (memSlice (r.2.crew c).pool a 4096)
    | _ => r.2)
  | _ => r.2

/-- The kilobyte of a strand in the strand-state section: its record and the rest in the implementation's form; for a strand that the crew does not have, all of it
(R352, R354). -/
def State.strandPart (s : State) (core k : Nat) : List Byte :=
  let u := s.strandAt core k
  if u.present then (u.record u.pc u.topLevel.cause u.topLevel.tval).take 0x250 ++ s.imageForm core (0x401250 + 0x400 * k) 0x1B0
  else s.imageForm core (0x401000 + 0x400 * k) 0x400

/-- A crew's save area and engine image written: pool image, header, strand records with the rest of their kilobytes, trap frames, the other sections. The units
that `skip` names lie in window regions (R124). -/
def State.saveImage (s : State) (core : Nat) (v : Save) (skip : Nat → Bool) : State :=
  let coded := s.sys.service == 1 || v.reason == 4
  let i := (s.crew core).info
  let s1 := s.savePool core coded skip
  let s2 := (s1.storeBlock core (i.saveBase.toNat + 0x400000) (s.saveHeader core v coded skip) true).getD s1
  let s3 := (List.range 4).foldl (fun t k => (t.storeBlock core (i.recordAddress k).toNat (s.strandPart core k) true).getD t) s2
  let s4 := if coded then s3 else s3.saveFrames core
  (s4.saveSections core coded).saveEngine core v

/-- Have all strands of a crew that have not halted executed a ctx.save with bit 0 set (R368)? -/
def Crew.suspends (w : Crew) : Bool :=
  let on := w.strands.filter (fun k => k.2.present && !k.2.halted)
  !on.isEmpty && on.all (fun k => match k.2.hold with | .suspend => true | _ => false)

/-- A strand as it is saved: a held instruction is executed again after the resume (R276, R355); the ctx.save of a voluntary suspension has completed where the
save is that of its crew's own suspension (R368). -/
def Strand.saved (t : Strand) (suspended : Bool) : Strand :=
  let u : Strand := match t.hold with | .suspend => if suspended then t.complete 4 else t | _ => t
  { u with hold := .none, readySince := none }

/-- A stream and a command as they are saved: reads on their way are discarded (R103). -/
def Active.saved (a : Active) : Active := { a with asked := [], fetched := [] }
def NxJob.saved (j : NxJob) : NxJob :=
  match j.cmd.op with
  | .route => j
  | .acq => j
  | _ => { j with asked := [], gather := j.gather.map Active.saved }

/-- A crew as it is saved, for a reason. -/
def Crew.saved (w : Crew) (reason : Nat) : Crew :=
  { w with
    strands := w.strands.map (fun k => (k.1, k.2.saved (reason == 5 && w.suspends)))
    streams := { w.streams with slots := w.streams.slots.map (fun a => (a.1, a.2.saved)) }
    nx := w.nx.map (fun j => (j.1, j.2.saved))
    yielded := none
    saving := none }

/-- The crew of a core saved and taken from it, with the place of its engine image; one whose ending waited is ended without resume (R345). Pending leaves
and rows move first (Table 13.5, R363), windows are unregistered before the copy (R348 step 5), and the window entries keep valid in what is saved (R124). DESIGN CHOICE, log 99. -/
def State.saveCrew (s : State) (core : Nat) (v : Save) : State × Option (Crew × Nat) :=
  let w := s.crew core
  match w.ending with
  | some c => ((s.modCrew core (fun u => u.saved v.reason)).endCrew core c, none)
  | none =>
    let s1 := ((s.spareMoves core).mapRows core).modCrew core (fun u => u.saved v.reason)
    let own := { v with image := (w.saving.map (fun x => x.image)).getD v.image }
    let s2 := ((s1.dropWindows core).saveImage core own (s1.unitInWindow core)).dropRequests core 0xFFFF
    (s2.freeCore core, some (s2.crew core, own.image))

/-- The gang of a core's crew copied and its cores freed (R348 steps 5 and 6). -/
def State.saveGang (s : State) (core : Nat) (v : Save) : State :=
  let i := (s.crew core).info
  let cores := s.mates core
  let r := cores.foldl (fun (q : State × List (Crew × Nat) × List Nat) c =>
    let x := q.1.saveCrew c v
    match x.2 with
    | some w => (x.1, q.2.1 ++ [w], q.2.2 ++ [c])
    | none => (x.1, q.2.1, q.2.2)) (s, [], [])
  let s1 := r.1
  if r.2.1.isEmpty then s1
  else
    let g : Gang := ⟨i.launch, i.gang, dieOf core, clusterOf core, r.2.1.map (·.1), r.2.2, v.reason, s.time, v.wva, v.reason == 3,
      (match s.launch i.launch with | some l => l.placed | none => 0), s.ownsPages (clusterOf core), r.2.1.map (·.2)⟩
    { s1 with cp := { s1.cp with gangs := tset s1.cp.gangs s1.cp.nextGang g, nextGang := s1.cp.nextGang + 1 } }

/-! ### CREW_SAVE (R348) -/

/-- Is no page of a crew's save area withheld (R351)? -/
def State.areaReady (s : State) (core : Nat) : Bool :=
  let i := (s.crew core).info
  (List.range 68).all (fun n => !(s.withheldIn i.ctx (clusterOf core) (i.saveBase.toNat + 65536 * n)))

/-- A save under way taken a step further: the gang quiesces, its markers are placed, and once they are gone, its streams stand at tile
boundaries and its save areas can be written it is copied. -/
def State.saveStep (s : State) (core : Nat) (v : Save) : State :=
  let cores := s.mates core
  if !v.placed then
    (if cores.all (fun c => (s.crew c).quiet) then
      (cores.foldl (fun t c => t.drainCore c) s).onCores cores (fun w =>
        { w.placeSnaps with saving := w.saving.map (fun x => { x with placed := true, since := s.time }) })
     else s)
  else
    let s1 := s.onCores cores Crew.sinkSnaps
    if cores.all (fun c => (s1.crew c).mayCopy && s1.areaReady c) then s1.saveGang core v else s1

/-- R348: a save for a recovery request (4) or a voluntary suspension (5) begins, or one in progress goes on. -/
def execCrewSave (core reason : Nat) (s : State) : Out :=
  .next (if (s.core core).held then
      (match (s.crew core).saving with
       | some v => if v.reason = reason then s.saveStep core v else s
       | none =>
         if reason = 4 ∨ (reason = 5 ∧ (s.crew core).suspends = true) then s.beginSave core reason 0 else s)
    else s)

/-- Units of 1/13 ns in a microsecond. -/
def unitsUs : Nat := 13000

/-- The channels at whose heads a marker of the engine waits at a join for a marker on another input, which is blocked upstream: nothing of that input has come. -/
def Crew.joinWaits (w : Crew) : List Nat :=
  w.graph.active.nodes.flatMap (fun n =>
    let ins := nodeIns n.1 n.2
    if 8 ≤ n.1 ∧ n.1 < 20 ∧ ins.any (fun c => w.see n.1 c == .empty) = true then ins.filter (fun c => (w.see n.1 c).placed) else [])

/-- The markers that wait at joins noted, with the time at which each began to wait. -/
def Crew.noteWaits (w : Crew) (now : Nat) : Crew :=
  match w.saving with
  | some v => { w with saving := some { v with stuck := w.joinWaits.foldl (fun t c => tset t c (tget v.stuck c now)) [] } }
  | none => w

/-- R350: a marker has waited at a join beyond csr_snaptime, or for so long nothing of the crew has moved with a marker left (DEDUCED, log 50): the crew's
engines stop where they stand, and its channels are copied with their markers. -/
def execSnapshotFallback (core : Nat) (s : State) : Out :=
  .next (match (s.core core).held, (s.crew core).saving with
    | true, some v =>
      let late := fun (since : Nat) => decide ((s.crew core).snaptime.toNat * unitsUs < s.time - since)
      if v.placed && (s.crew core).snapsLeft && (v.stuck.any (fun x => late x.2) || late (Nat.max v.since (s.crew core).progress)) then
        s.modCrew core (fun w => { w with saving := some { v with fallback := true } })
      else s
    | _, _ => s)

/-! ### Checkpoints (R347, R349) -/

/-- The withheld accesses of a strand of a crew: its own, and those of its streams and commands, with their times. -/
def Crew.withheldBy (w : Crew) (k : Nat) : List (Nat × Nat) :=
  (match (w.strand k).hold with
   | .withheld va t => [(va, t)]
   | .freed va t => [(va, t)]
   | .fetch va t => [(va, t)]
   | .window _ _ (some x) => [x]
   | _ => [])
    ++ w.streams.slots.filterMap (fun a => if a.2.cmd.strand = k then a.2.withheld else none)
    ++ w.nx.filterMap (fun j => if j.2.cmd.strand = k then (match j.2.gather with | some a => a.withheld | none => j.2.withheld) else none)

/-- Of accesses with their times the one that has waited longest. -/
def longest (l : List (Nat × Nat)) : Option (Nat × Nat) :=
  l.foldl (fun b x => match b with | some y => if x.2 < y.2 then some x else some y | none => some x) none

/-- The record of a checkpoint (Table 13.6). -/
def State.checkpointRecord (s : State) (core va : Nat) : State :=
  let ctx := (s.crew core).info.ctx
  s.rasCrew 7 core ⟨va % 2 ^ 32, va / 2 ^ 32, ctx % 256, ctx / 256⟩

/-- R347: an access of a strand, or of an engine on its behalf, has been withheld for longer than csr_pftime. Without a save area each such access is recorded
once for as long as it waits (R349). -/
def execDrainToCheckpoint (core strand : Nat) (s : State) : Out :=
  let w := s.crew core
  let late := (w.withheldBy strand).filter (fun x => decide (w.pftime.toNat * unitsUs < s.time - x.2)
    && s.withheldIn w.info.ctx (clusterOf core) x.1)
  .next (if (s.core core).held then
      (match longest late with
       | none => s
       | some (va, _) =>
         if w.info.saveSize = 0 then
           (late.filter (fun x => !(w.reported.contains x))).foldl (fun t x =>
             (t.checkpointRecord core x.1).modCrew core (fun u => { u with reported := x :: u.reported })) s
         else if s.maySave core then (s.checkpointRecord core va).beginSave core 3 va
         else s)
    else s)

/-- R347: the page of a checkpointed gang walked again. -/
def execCheckpointPageRecheck (gang : Nat) (s : State) : Out :=
  .next (match tfind s.cp.gangs gang with
    | none => s
    | some g =>
      let ctx := match g.crews with | w :: _ => w.info.ctx | [] => 0
      if g.awaited && !(s.withheldIn ctx g.cluster g.wva) then
        { s with cp := { s.cp with gangs := tset s.cp.gangs gang { g with awaited := false } } }
      else s)

/-! ### Placement (R330, R331) -/

/-- Is a core free for a crew: in service, held by none and under no test (R331, R361, R362)? -/
def State.coreFree (s : State) (core : Nat) : Bool :=
  !((s.core core).held) && smem s.sys.dies (dieOf core) && !((s.health core).out)
    && (match (s.health core).testing with | some t => decide (t ≤ s.time) | none => true)

/-- The cores and the free cores of a cluster. -/
def clusterCores (cl : Nat) : List Nat := (List.range 8).map (fun i => 8 * cl + i)
def State.freeIn (s : State) (cl : Nat) : List Nat := (clusterCores cl).filter s.coreFree

/-- The die of a cluster and the clusters of a die. -/
def dieOfCluster (cl : Nat) : Nat := dieOf (8 * cl)
def clustersOf (die : Nat) : List Nat := (List.range Config.clusterCount).filter (fun cl => dieOfCluster cl == die)

/-- Of the clusters of a list the one with the fewest free cores that has n, the lowest number on a tie (R331). -/
def State.bestFit (s : State) (n : Nat) (cls : List Nat) : Option Nat :=
  cls.foldl (fun b cl =>
    let f := (s.freeIn cl).length
    if f < n then b
    else match b with
      | some x => if f < (s.freeIn x).length then some cl else b
      | none => some cl) none

/-- The cluster that a suspended gang goes to, if one has room now: its own where that owned a handover record when the gang was saved (R263). -/
def State.gangCluster (s : State) (g : Gang) : Option Nat :=
  if g.pinned then (if g.crews.length ≤ (s.freeIn g.cluster).length then some g.cluster else none)
  else s.bestFit g.crews.length (clustersOf g.die)

/-- May a suspended gang be resumed: its checkpoint's page is there (R347), or after a swap-out another gang of its launch has been placed or no
tile of it is undispatched (R335)? -/
def State.eligible (s : State) (g : Gang) : Bool :=
  if g.reason = 3 then !g.awaited
  else if g.reason = 2 then (match s.launch g.launch with | some l => decide (g.placedThen < l.placed) || !l.undispatched | none => true)
  else true

/-- The priority of a launch. -/
def State.prioOf (s : State) (launch : Nat) : Nat := match s.launch launch with | some l => l.prio | none => 0

/-- The tiles of the next new gang of a launch on a die: the first, and how many. -/
def Launch.nextGang (l : Launch) (die : Nat) : Option (Nat × Nat) :=
  match tfind l.ranges die with
  | some (a, b) => if a < b then some (a, Nat.min l.gang (b - a)) else none
  | none => none

/-- The candidates of a die in the order of R331: suspended gangs by priority and age, then new gangs by priority and order of taking. Each with
its priority, whether it is new, its number, and the cluster it fits now. -/
def State.candidates (s : State) (die : Nat) : List (Nat × Bool × Nat × Option Nat) :=
  let old := s.cp.gangs.filterMap (fun g =>
    if g.2.die = die ∧ s.eligible g.2 = true then some (s.prioOf g.2.launch, false, g.1, s.gangCluster g.2) else none)
  let new := s.cp.launches.filterMap (fun l =>
    (l.2.nextGang die).map (fun r => (l.2.prio, true, l.1, s.bestFit r.2 (clustersOf die))))
  let level := fun (p : Nat) (l : List (Nat × Bool × Nat × Option Nat)) => l.filter (fun x => x.1 == p)
  (List.range 4).flatMap (fun p => level p old) ++ (List.range 4).flatMap (fun p => level p new)

/-- May a candidate be placed in a cluster: that is where it fits, none of higher priority waits on the die, and none that is served before it fits
anywhere? -/
def State.mayPlace (s : State) (die : Nat) (new : Bool) (k cluster : Nat) : Bool :=
  let all := s.candidates die
  match all.find? (fun x => x.2.1 == new && x.2.2.1 == k) with
  | none => false
  | some me =>
    me.2.2.2 == some cluster && all.all (fun x => decide (me.1 ≤ x.1))
      && (all.takeWhile (fun x => !(x.2.1 == new && x.2.2.1 == k))).all (fun x => decide (me.1 < x.1) || x.2.2.2.isNone)

/-- A cluster made ready for a crew of a launch: its instruction cache is invalidated where the code in it is another launch's (R47). -/
def State.enterCluster (s : State) (cl launch : Nat) : State :=
  let k := s.cluster cl
  if k.launch = some launch then s else s.setCluster cl { k with icache := [], launch := some launch }

/-! ### CREW_RESUME (R355) -/

/-- A co-operation mask with the gang's cores changed from `old` to `new` (DEDUCED, log 37). -/
def remask (old new : List Nat) (mask : Nat) : Nat :=
  if mask = 0 then 0
  else ((List.zip old new).filter (fun x => mask.testBit (x.1 % 8))).foldl (fun m x => setBit m (x.2 % 8) true) 0

def ArCmd.remask (c : ArCmd) (old new : List Nat) : ArCmd :=
  match c.op with
  | .coop => { c with a := Machine.remask old new c.a }
  | .run => { c with b := Machine.remask old new c.b }
  | _ => c
def ArrayPlane.remask (p : ArrayPlane) (old new : List Nat) : ArrayPlane := { p with coop := Machine.remask old new p.coop }
def Crew.remask (w : Crew) (old new : List Nat) : Crew :=
  let f := fun (l : List ArCmd) => l.map (fun c => c.remask old new)
  { w with
    now := { w.now with array := w.now.array.remask old new }
    coming := { w.coming with array := w.coming.array.remask old new }
    array := { w.array with
      active := w.array.active.remask old new
      idle := w.array.idle.remask old new
      cfgq := f w.array.cfgq
      feedq := f w.array.feedq
      feeding := f w.array.feeding } }

/-- The windows of a crew registered again with fill (R124): an entry that fails is left unregistered and its trap delivered; none where a translation
must wait. -/
def State.reregister (s : State) (core : Nat) : List Nat → Option State
  | [] => some s
  | j :: js =>
    let w := s.crew core
    if !(w.entryValid j) then s.reregister core js
    else
      let v := tget w.entries (4 * j) 0
      let off := s.setCrew core { w with entries := tset w.entries (4 * j) (v &&& ~~~1) }
      match off.registerWindow core j (v ||| 2) with
      | .trap c tv => (off.modCrew core (fun u => u.postTrap 0 c (BitVec.ofNat 64 tv))).reregister core js
      | .wait _ _ => none
      | .done t => (t.modCrew core (fun u => { u with entries := tset u.entries (4 * j) v })).reregister core js

/-- A saved crew put on a core. -/
def State.seatCrew (s : State) (core : Nat) (w : Crew) (g : Gang) (new : List Nat) : State :=
  let u := ({ w with progress := w.progress + (s.time - g.since) } : Crew).dropSnaps.remask g.cores new
  let s1 := s.setCore core { s.core core with held := true, crew := u }
  u.streams.slots.foldl (fun t a => if a.2.cmd.op = .isx ∧ a.2.killed = false then t.joinIse core a.2.cmd else t) s1

/-- Every strand of a resumed crew that runs enters the monitor with PREEMPTED (R355). -/
def State.preempted (s : State) (core reason : Nat) : State :=
  (List.range 4).foldl (fun t k =>
    let u := t.strandAt core k
    if u.present && !u.halted then t.takeTrapAt core k causePreempted (BitVec.ofNat 64 reason) u.pc else t) s

/-- A suspended gang put on cores of a cluster; none while one of its windows must wait. -/
def State.resumeGang (s : State) (g : Gang) (cl : Nat) : Option State :=
  let new := (s.freeIn cl).take g.crews.length
  let s1 := (List.zip new g.crews).foldl (fun t x => t.seatCrew x.1 x.2 g new) (s.enterCluster cl g.launch)
  (new.foldl (fun t c => t.bind (fun u => u.reregister c (List.range 8))) (some s1)).map
    (fun t => new.foldl (fun u c => (u.spareMoves c).preempted c g.reason) t)

/-- A suspended gang resumed in a cluster, in the order of R331. -/
def State.resumeIn (s : State) (gang cluster : Nat) : State :=
  match tfind s.cp.gangs gang with
  | none => s
  | some g =>
    if s.mayPlace g.die false gang cluster then
      ({ s with cp := { s.cp with gangs := tdel s.cp.gangs gang } } : State).resumeGang g cluster |>.getD s
    else s

/-- R355. -/
def execCrewResume (gang cluster : Nat) (s : State) : Out := .next (s.resumeIn gang cluster)

/-! ### Pre-emption and swap-out (R335) -/

/-- The sublists of a list. -/
def sublists {α : Type} : List α → List (List α)
  | [] => [[]]
  | x :: r => let q := sublists r; q.map (fun l => x :: l) ++ q

/-- The gangs of a cluster that a gang of a priority may displace: one core of each, and its crews. -/
def State.displaceable (s : State) (cl prio : Nat) : List (Nat × Nat) :=
  ((clusterCores cl).filter (fun c => (s.mates c).head? == some c && s.maySave c && (match s.launch (s.crew c).info.launch with
    | some l => decide (prio < l.prio) && l.preempt == 0
    | none => false))).map (fun c => (c, (s.mates c).length))

/-- Cores of a cluster that a save in progress will free. -/
def State.beingFreed (s : State) (cl : Nat) : Nat := ((clusterCores cl).filter (fun c => (s.core c).held && (s.crew c).saving.isSome)).length

/-- The gangs of a cluster to save so that n cores are free: how many crews, and a core of each gang. -/
def State.displacement (s : State) (cl prio n : Nat) : Option (Nat × List Nat) :=
  let have' := (s.freeIn cl).length + s.beingFreed cl
  (sublists (s.displaceable cl prio)).foldl (fun b l =>
    let k := (l.map (·.2)).sum
    if have' + k < n then b
    else match b with
      | some (m, _) => if k < m then some (k, l.map (·.1)) else b
      | none => some (k, l.map (·.1))) none

/-- The cluster of a list that needs the fewest crews saved, the lowest number on a tie. -/
def State.victimCluster (s : State) (prio n : Nat) (cls : List Nat) : Option (Nat × Nat × List Nat) :=
  cls.foldl (fun b cl =>
    match s.displacement cl prio n with
    | none => b
    | some (k, l) =>
      match b with
      | some (_, m, _) => if k < m then some (cl, k, l) else b
      | none => some (cl, k, l)) none

/-- What waits: priority, crews, since when, and the clusters it may go to. `gang` is 2 k for suspended gang k, and 2 l + 1 for the next new gang of launch
l on the die of the cluster. -/
def State.waiting (s : State) (gang cluster : Nat) : Option (Nat × Nat × Nat × List Nat) :=
  let die := dieOfCluster cluster
  if gang % 2 = 0 then
    (match tfind s.cp.gangs (gang / 2) with
     | some g => if s.eligible g then
         some (s.prioOf g.launch, g.crews.length, g.since, if g.pinned then [g.cluster] else clustersOf g.die) else none
     | none => none)
  else
    (match s.launch (gang / 2) with
     | some l => (l.nextGang die).map (fun r => (l.prio, r.2, tget l.waiting die s.time, clustersOf die))
     | none => none)

/-- R335: a gang that has waited 50 µs has gangs of strictly lower priority saved in one cluster. -/
def execPreemptWaitExpiry (gang cluster : Nat) (s : State) : Out :=
  .next (match s.waiting gang cluster with
    | none => s
    | some (prio, n, since, cls) =>
      if s.time - since < 50 * unitsUs then s
      else match s.victimCluster prio n cls with
        | some (cl, _, l) => if cl = cluster then l.foldl (fun t c => t.beginSave c 1 0) s else s
        | none => s)

/-- Has a strand been held in waita, bar.dv or bar.dm, or halted, for 20 µs? -/
def State.strandIdle (s : State) (t : Strand) : Bool :=
  let long := fun (since : Nat) => decide (20 * unitsUs ≤ s.time - since)
  !t.present || (t.halted && long t.haltedAt) || (!t.halted && match t.hold with
    | .watch _ n _ => long n
    | .response p => p.watch.isSome && long p.since
    | .barrier l _ _ n => decide (3 ≤ l) && long n
    | _ => false)

/-- R335: a crew that has waited is swapped out with its gang while tiles of its launch are undispatched on its die. -/
def execSwapOut (core : Nat) (s : State) : Out :=
  let w := s.crew core
  .next (if (s.core core).held && w.strands.all (fun k => s.strandIdle k.2) then
      (match s.launch w.info.launch with
       | some l => if l.preempt ≤ 1 ∧ (l.nextGang (dieOf core)).isSome = true then s.beginSave core 2 0 else s
       | none => s)
    else s)

end Sys2Proof.Machine
end

