-- ==== Sys2Proof/Machine/CpMemory.lean ====
section
/-!
DEFINITION. The CP as a party of the data plane: its reads and writes of queues, records and signals (spec 12, R319, R323, R324).
-/
namespace Sys2Proof.Machine
open Sys2Proof

/-! ### What a read of the CP comes to -/

inductive CpRes (α : Type) where
  | val (a : α)
  /-- a failure with its cause (Table 4.5) and address -/
  | trap (cause : Cause) (va : Nat)
  /-- withheld, or on its way from another device -/
  | wait (va : Nat)

/-- A result used where there is one. -/
def andThen {α β : Type} (r : CpRes α × State) (f : α → State → CpRes β × State) : CpRes β × State :=
  match r with
  | (.val a, t) => f a t
  | (.trap c v, t) => (.trap c v, t)
  | (.wait v, t) => (.wait v, t)

/-! ### Translation -/

/-- A number for the CP's own translations, which are not kept, and for it as a cluster that owns no page. -/
def cpCache : Nat := 100

/-- The rights the CP needs: those of the queue's user (R77). DEDUCED, log 10. -/
def cpRead' : Need := ⟨true, false, false, false, false⟩
def cpWrite' : Need := ⟨false, true, false, false, true⟩
def cpBoth : Need := ⟨true, true, false, false, true⟩

/-- An access of the CP to n bytes at an address: virtual under a context, or physical (R319). A line that a sparse-update unit owns is waited for (R88).
DEDUCED, log 11. -/
def State.cpReach (s : State) (ctx : Option Nat) (va n : Nat) (need : Need) : Reach × State :=
  match ctx with
  | none =>
    let pa := s.ownHbm va
    (if !(isAssigned va) then .trap causePageNotPresent
     else if isHbmPa pa && (s.handover pa).isSome then .trap causeOwner
     else if need.write && !(s.windowWritable nobody pa) then .trap causePermission
     else if !(s.stackUp pa) || s.suuHolds pa n then .wait
     else .ok pa 0, s)
  | some c =>
    let r := s.translate cpCache c va need
    let s1 := { r.2 with clusters := tdel r.2.clusters cpCache }
    (match r.1 with
     | .ok pa leaf =>
       if !(s.ownerOk cpCache pa leaf) then .trap causeOwner
       else if need.write && !(s.windowWritable nobody pa) then .trap causePermission
       else if !(s.stackUp pa) || s.suuHolds pa n then .wait
       else .ok pa leaf
     | .absent => .trap causePageNotPresent
     | .malformed => .trap causePageNotPresent
     | .permission => .trap causePermission
     | .notResident => .trap causeLatencyBroken
     | .unreachable _ => .trap causeFabricUnreachable
     | .withheld => .wait, s1)

/-- [va, va + n) cut at multiples of 4 KiB. -/
def cpParts (va n : Nat) : List (Nat × Nat) :=
  (List.range (n / 4096 + 2)).filterMap (fun i =>
    let lo := Nat.max va (va / 4096 * 4096 + 4096 * i)
    let hi := Nat.min (va + n) (va / 4096 * 4096 + 4096 * i + 4096)
    if lo < hi then some (lo, hi - lo) else none)

/-! ### Reading -/

/-- n bytes at an address of another device for queue q, with their poison mask: asked for once, and taken from the answer. -/
def State.cpFar (s : State) (q dev a n va : Nat) : CpRes (List Byte × Nat) × State :=
  match s.cp.remote.find? (fun x => x.queue == q && x.dev == dev && x.addr == a && x.size == n) with
  | some x =>
    (match x.answer with
     | some (code, b) => if code = 0 then .val b else .trap (if code = 0x07 then causeFabricUnreachable else codeCause code) va
     | none => .wait va, s)
  | none =>
    if s.routeUp dev then
      let s1 := s.send dev clsRequest opRead a [n, forCp, 0, 0, q] [] 0 nobody
      (.wait va, { s1 with cp := { s1.cp with remote := s1.cp.remote ++ [⟨q, dev, a, n, none⟩] } })
    else (.trap causeFabricUnreachable va, s)

/-- The answers of a queue's reads given up, so that a later read sees the memory as it is then; while one is still on its way they are kept. -/
def State.cpForget (s : State) (q : Nat) : State :=
  if s.cp.remote.any (fun x => x.queue == q && x.answer.isNone) then s
  else { s with cp := { s.cp with remote := s.cp.remote.filter (fun x => x.queue != q) } }

/-- n bytes within one 4 KiB, read coherently: their lines are recalled and written back (R14). A queue's ring and descriptor lie in device HBM or the host
window: for them `far` is none. -/
def State.cpReadPart (s : State) (far : Option Nat) (ctx : Option Nat) (va n : Nat) : CpRes (List Byte) × State :=
  let r := s.cpReach ctx va n cpRead'
  match r.1 with
  | .trap c => (.trap c va, r.2)
  | .cut _ => (.trap causeFabricUnreachable va, r.2)
  | .wait => (.wait va, r.2)
  | .ok pa _ =>
    match r.2.locOf pa with
    | .remote dev a =>
      (match far with
       | some q => andThen (r.2.cpFar q dev a n va) (fun b t => (.val b.1, t))
       | none => (.trap causePageNotPresent va, r.2))
    | .host a => if r.2.hostUp then (.val (r.2.bytesAt (.host a) n), r.2.recall pa n) else (.trap causeFabricUnreachable va, r.2)
    | l => (.val (r.2.bytesAt l n), r.2.recall pa n)

/-- Every part read, in order. -/
def State.cpReadParts (s : State) (far ctx : Option Nat) : List (Nat × Nat) → CpRes (List Byte) × State
  | [] => (.val [], s)
  | p :: rest =>
    andThen (s.cpReadPart far ctx p.1 p.2) (fun b t => andThen (t.cpReadParts far ctx rest) (fun bs u => (.val (b ++ bs), u)))

/-- n bytes read by the CP. -/
def State.cpRead (s : State) (far ctx : Option Nat) (va n : Nat) : CpRes (List Byte) × State := s.cpReadParts far ctx (cpParts va n)

/-! ### Writing -/

/-- Where the bytes of [va, va + n) go: physical address, leaf and length of each part. -/
def State.cpTargets (s : State) (ctx : Option Nat) (n : Need) : List (Nat × Nat) → CpRes (List (Nat × Nat × Nat)) × State
  | [] => (.val [], s)
  | p :: rest =>
    let r := s.cpReach ctx p.1 p.2 n
    match r.1 with
    | .trap c => (.trap c p.1, r.2)
    | .cut _ => (.trap causeFabricUnreachable p.1, r.2)
    | .wait => (.wait p.1, r.2)
    | .ok pa leaf =>
      let up := match r.2.locOf pa with
        | .host _ => r.2.hostUp
        | .remote dev _ => r.2.routeUp dev
        | _ => true
      if up then andThen (r.2.cpTargets ctx n rest) (fun l t => (.val ((pa, leaf, p.2) :: l), t))
      else (.trap causeFabricUnreachable p.1, r.2)

/-- Bytes written at physical places by the CP, performed at once. -/
def State.cpPut (s : State) : List (Nat × Nat × Nat) → List Byte → State
  | [], _ => s
  | (pa, _, n) :: rest, b =>
    let s1 := match s.locOf pa with
      | .remote dev a => s.send dev clsRequest opWrite a [n, forNobody] (b.take n) 0 nobody
      | l => (s.writeLoc l (b.take n) false).recall pa n
    s1.cpPut rest (b.drop n)

/-- The bytes of physical places of this device or the host. -/
def State.cpGet (s : State) (l : List (Nat × Nat × Nat)) : List Byte := l.flatMap (fun x => s.bytesAt (s.locOf x.1) x.2.2)

/-! ### Completions (R324) -/

/-- A RAS record of kind 0x000C for a queue and an address (Table 13.6). -/
def State.rasQueue (s : State) (q va : Nat) : State :=
  s.rasLog 0x000C 0xFFFF 0 ⟨va % 2 ^ 32, field va 55 32, q % 256, q / 256 % 4⟩

/-- The completion status word (Table 12.4). -/
def statusWord (seq code : Nat) (twilight degraded : Bool) : Nat :=
  seq % 2 ^ 16 * 2 ^ 32 + b2n degraded * 2 ^ 9 + b2n twilight * 2 ^ 8 + code % 256

/-- 1 subtracted from the signal, as one atomic at its point of execution. -/
def State.cpDecrement (s : State) (l : List (Nat × Nat × Nat)) : State :=
  match l with
  | (pa, _, _) :: _ =>
    (match s.locOf pa with
     | .remote dev a => s.send dev clsAtomic opAtomic a [0, 64, 2 ^ 64 - 1, 0, 0, 65535, 0] [] 0 nobody
     | _ => s.cpPut l (bytesOf 8 ((ofBytes (s.cpGet l) + 2 ^ 64 - 1) % 2 ^ 64)))
  | [] => s

/-- Is a sent status word that of a completion: of its queue, at its cpl and with its sequence number? -/
def postedOf (q cpl word : Nat) (x : Nat × Nat × Nat × Nat × Nat) : Bool := x.1 == q && x.2.1 == cpl && field x.2.2.1 47 32 == field word 47 32

/-- The status word of a completion on another device that has been sent: is it still unacknowledged? -/
def State.postedFor (s : State) (q cpl word : Nat) : Option Bool :=
  (s.cp.posted.find? (postedOf q cpl word)).map (fun x =>
    (tget s.fabric.out x.2.2.2.1 emptyFlow).unacked.any (fun p => p.seq == x.2.2.2.2 && p.op == opWrite))
def State.forgetPosted (s : State) (q cpl word : Nat) : State :=
  { s with cp := { s.cp with posted := s.cp.posted.filter (fun x => !postedOf q cpl word x) } }

/-- The status word written and the signal decremented, a release at .sy of the status (R324): on another device the decrement follows the acknowledgement of
the status. Has it all been done? -/
def State.cpSignal (s : State) (q cpl word : Nat) (x y : List (Nat × Nat × Nat)) : Bool × State :=
  match x with
  | (pa, _, _) :: _ =>
    (match s.locOf pa with
     | .remote dev _ =>
       (match s.postedFor q cpl word with
        | some true => (false, s)
        | some false => (true, (s.forgetPosted q cpl word).cpDecrement y)
        | none =>
          let flow := 4 * dev + clsRequest
          let t := s.cpPut x (bytesOf 8 word)
          (false, { t with cp := { t.cp with posted := t.cp.posted ++ [(q, cpl, word, flow, (s.flow dev clsRequest).next)] } }))
     | _ => (true, (s.cpPut x (bytesOf 8 word)).cpDecrement y))
  | [] => (true, s)

/-- A completion written: the status word, then the signal. Not done while it is withheld, or its status word is on its way to another device; one whose
address fails is dropped with a record. -/
def State.cpComplete (s : State) (q : Nat) (ctx : Option Nat) (cpl word : Nat) : Bool × State :=
  if cpl = 0 then (true, s)
  else
    let a := s.cpTargets ctx cpWrite' (cpParts (cpl + 8) 8)
    let b := a.2.cpTargets ctx cpBoth (cpParts cpl 8)
    match a.1, b.1 with
    | .wait _, _ => (false, s)
    | _, .wait _ => (false, s)
    | .val x, .val y =>
      if y.all (fun p => s.atomicCarried 0 p.1 p.2.1) then b.2.cpSignal q cpl word x y
      else (true, (b.2.forgetPosted q cpl word).rasQueue q cpl)
    | _, _ => (true, (b.2.forgetPosted q cpl word).rasQueue q cpl)

/-- Where a queue's records and signals are: physical for the admin queues (R319). -/
def queueCtx (q ctx : Nat) : Option Nat := if 1022 ≤ q then none else some ctx

end Sys2Proof.Machine
end

