-- ==== Sys2Proof/Machine/Launches.lean ====
section
/-!
DEFINITION. Launches: the launch record and the kernel descriptor with their checks, the split of tiles among dies (spec 12, R322, R328 to R330, R332, R338).
-/
namespace Sys2Proof.Machine
open Sys2Proof

/-- The n bytes at an offset of a list as a number. -/
def at' (b : List Byte) (o n : Nat) : Nat := ofBytes ((b.drop o).take n)

/-! ### The record (Table 12.2) -/

def recSeq (b : List Byte) : Nat := at' b 2 2
def recPrio (b : List Byte) : Nat := field (at' b 0 4) 9 8
def recKind (b : List Byte) : Nat := field (at' b 0 4) 7 1
def recFlags (b : List Byte) : Nat := at' b 4 4
def recSide (b : List Byte) : Nat := field (recFlags b) 1 0
def recPreempt (b : List Byte) : Nat := field (recFlags b) 4 3
def recTwok (b : List Byte) : Bool := (recFlags b).testBit 5
def recGang (b : List Byte) : Nat := at' b 0x1C 2
def recCpl (b : List Byte) : Nat := at' b 0x20 8

/-- csr_mode of the crews of a launch (Table 10.5, R338): dual fire is forced on for one taken in twilight. -/
def recMode (b : List Byte) (twilight : Bool) : Nat :=
  recPreempt b * 16 + b2n ((recFlags b).testBit 7) * 8 + b2n ((recFlags b).testBit 6) * 4 + b2n twilight * 2
    + b2n ((recFlags b).testBit 2 || twilight)

/-! ### The kernel descriptor (Table 12.6) -/

def kdTrap (k : List Byte) : Nat := at' k 0x20 8
def kdSaveBase (k : List Byte) : Nat := at' k 0x28 8
def kdSaveSize (k : List Byte) : Nat := at' k 0x30 4
def kdTag (k : List Byte) : Nat := at' k 0x34 4
def kdDevices (k : List Byte) : Nat := at' k 0x38 2
def kdClass (k : List Byte) : Nat := at' k 0xD 1
def kdPart (k : List Byte) : Nat := at' k 8 4

/-- The partition word's limits (R115). -/
def partOk (v : Nat) : Bool := decide (v < 2 ^ 14) && decide (field v 13 12 ≤ 1) && decide (field v 11 4 ≤ 32)

/-- The checks of R328 on the descriptor's and the record's fields; `tag` is the domain tag of the queue's context. -/
def descriptorOk (b k : List Byte) (tag : Nat) : Bool :=
  let nstr := at' k 0xC 1
  let size := kdSaveSize k
  at' b 8 8 % 64 == 0 && at' k 0 8 % 4 == 0 && partOk (kdPart k)
    && decide (1 ≤ nstr) && decide (nstr ≤ 4) && at' b 0x1E 2 == nstr
    && decide (1 ≤ recGang b) && decide (recGang b ≤ 8)
    && decide (kdClass k < 4) && at' k 0xE 2 == 0 && kdTrap k % 4 == 0 && kdSaveBase k % 65536 == 0
    && (if size = 0 then recPreempt b == 2 && kdTrap k == 0 else size % 65536 == 0 && decide (0x440000 ≤ size))
    && (if kdTag k = 0 then kdDevices k == 0 else kdTag k == tag && decide (2 ≤ kdDevices k) && decide (kdDevices k ≤ 2048))
    && at' k 0x3A 6 == 0

/-! ### The image tables (R328) -/

/-- A list of places read in order. -/
def State.cpReadAll (s : State) (far ctx : Option Nat) : List (Nat × Nat) → CpRes (List (List Byte)) × State
  | [] => (.val [], s)
  | p :: rest => andThen (s.cpRead far ctx p.1 p.2) (fun b t => andThen (t.cpReadAll far ctx rest) (fun bs u => (.val (b :: bs), u)))

/-- The first failing check of plane images (R62, R203). -/
def planesBad (part : Nat) (images : List (List Byte)) : Option Cause :=
  images.findSome? (fun b =>
    let valid := at' b 0 2
    let words := (List.range 16).map (fun i => at' b (8 + 8 * i) 8)
    let ports := imagePorts valid words
    (imageBad (vprivOf part) (vsharedOf part) ports.1 ports.2 0 valid 0 words).map (·.1))

/-- Does a carve list pass steps 1 and 2 of R190 on a core? -/
def carveOk (part core : Nat) (words : List Nat) : Bool :=
  let w : Crew := { emptyCrew with info := { emptyInfo with part := BitVec.ofNat 32 part } }
  words.all (groupWordOk core w.accWide w.accEntries)
    && (firstBad (fun seen g => seen.all (fun h => !(g.meets h))) [] (words.map (fun v => (⟨v, 0⟩ : Group))) 0).isNone

/-- A core of each side that a launch names. -/
def sideCores (side : Nat) : List Nat := (if side.testBit 0 then [0] else []) ++ (if side.testBit 1 then [192] else [])

/-- The checks of the two tables, entries packed behind their counts: the cause of the first that fails. A carve list need suit one of the launch's
sides. -/
def State.imagesBad (s : State) (q ctx side : Nat) (k : List Byte) : CpRes (Option Cause) × State :=
  let far := some q
  let c := some ctx
  let planes := at' k 0x10 8
  let carves := at' k 0x18 8
  let count := fun (t : State) (a : Nat) => if a = 0 then (CpRes.val 0, t) else andThen (t.cpRead far c a 4) (fun b u => (.val (ofBytes b), u))
  andThen (count s planes) (fun n t =>
    if 64 < n then (.val (some causeConfig), t)
    else andThen (t.cpRead far c (planes + 4) (8 * n)) (fun tbl u =>
      andThen (u.cpReadAll far c ((List.range n).map (fun i => (at' tbl (8 * i) 8, 136)))) (fun images v =>
        match planesBad (kdPart k) images with
        | some e => (.val (some e), v)
        | none => andThen (count v carves) (fun m w =>
          if 64 < m then (.val (some causeConfig), w)
          else andThen (w.cpRead far c (carves + 4) (12 * m)) (fun tb x =>
            let lists := (List.range m).map (fun i => (at' tb (12 * i) 8, 8 * at' tb (12 * i + 8) 4))
            if lists.any (fun l => decide (8192 < l.2)) then (.val (some causeConfig), x)
            else andThen (x.cpReadAll far c lists) (fun ls y =>
              let ok := ls.all (fun l =>
                let words := (List.range (l.length / 8)).map (fun i => at' l (8 * i) 8)
                (sideCores side).any (fun core => carveOk (kdPart k) core words))
              (.val (if ok then none else some causeConfig), y)))))))

/-! ### Dies and tiles (R13, R330) -/

/-- The compute dies that a side names. -/
def sideDies (side : Nat) : List Nat := (if side.testBit 0 then [0, 1] else []) ++ (if side.testBit 1 then [2, 3] else [])

/-- Cores of a cluster, and of a die, that count as in service (R362). -/
def State.inService (s : State) (cl : Nat) : Nat := ((clusterCores cl).filter (fun c => !((s.health c).out))).length
def State.dieCores (s : State) (die : Nat) : Nat := ((clustersOf die).map s.inService).sum

/-- The dies of a side in service, and those of them with a cluster that a gang of n fits. -/
def State.servingDies (s : State) (side : Nat) : List Nat := (sideDies side).filter (smem s.sys.dies)
def State.eligibleDies (s : State) (side n : Nat) : List Nat :=
  (s.servingDies side).filter (fun d => (clustersOf d).any (fun cl => decide (n ≤ s.inService cl)))

/-- The split of t tiles in proportion to the cores of dies, q cores before the first of total. -/
def splitTiles (t total q : Nat) : List (Nat × Nat) → Tab (Nat × Nat)
  | [] => []
  | (d, c) :: rest => tset (splitTiles t total (q + c) rest) d (t * q / total, t * (q + c) / total)

/-! ### A launch taken -/

/-- What becomes of a launch at the head of its queue. -/
inductive LaunchCheck where
  | refuse (cause : Cause)
  | hold
  | take (l : Launch)

/-- The number of the next launch of a domain tag here: launches of a tag go together across devices in the order in which each takes them, and a device
that has taken none since reset joins the earliest it has heard of. DESIGN CHOICE, log 49. -/
def State.nextRun (s : State) (tag : Nat) : Nat :=
  match tfind s.cp.domainRuns tag with
  | some n => n
  | none =>
    match (s.cp.domain.filter (fun d => d.tag == tag)).map Heard.run with
    | [] => 0
    | r :: rest => rest.foldl Nat.min r

/-- The launch of a record and its descriptor. -/
def State.newLaunch (s : State) (q count ctx prio : Nat) (b k : List Byte) : Launch :=
  let twilight := s.sys.service == 1
  let dies := s.eligibleDies (recSide b) (recGang b)
  let cores := dies.map (fun d => (d, s.dieCores d))
  let ranges := splitTiles (at' b 0x18 4) ((cores.map (·.2)).sum) 0 cores
  { queue := q
    count := count
    seq := recSeq b
    prio := prio
    side := recSide b
    tiles := at' b 0x18 4
    gang := recGang b
    strands := at' b 0x1E 2
    preempt := recPreempt b
    ctx := ctx
    args := at' b 0x10 8
    cpl := recCpl b
    code := at' k 0 8
    part := BitVec.ofNat 32 (kdPart k)
    handler := kdTrap k
    savebase := kdSaveBase k
    savesz := kdSaveSize k
    dtag := kdTag k
    ndev := kdDevices k
    run := s.nextRun (kdTag k)
    mode := BitVec.ofNat 64 (recMode b twilight)
    twilight := twilight
    degraded := kdTag k != 0 && !(s.lostMembers (kdTag k) (s.nextRun (kdTag k)) (kdDevices k)).isEmpty
    ranges := ranges
    placed := 0
    waiting := ranges.map (fun r => (r.1, s.time))
    retired := 0
    failed := none
    order := s.cp.nextLaunch }

/-- The checks of a launch whose dependency is met (R328, R329, R330, R337, R373, R376). DEDUCED, log 14. -/
def State.checkLaunch (s : State) (q count ctx prio : Nat) (b : List Byte) : LaunchCheck × State :=
  if 64 ≤ s.cp.launches.length then (.hold, s)
  else if at' b 8 8 % 64 ≠ 0 then (.refuse causeConfig, s)
  else
    let r := andThen (s.cpRead (some q) (some ctx) (at' b 8 8) 64) (fun k t =>
      if !(descriptorOk b k (tget s.tags ctx 0)) then (CpRes.val (k, some causeConfig), t)
      else andThen (t.imagesBad q ctx (recSide b) k) (fun e u => (.val (k, e), u)))
    match r.1 with
    | .trap c _ => (.refuse c, r.2)
    | .wait _ => (.hold, r.2)
    | .val (_, some c) => (.refuse c, r.2)
    | .val (k, none) =>
      (if kdTag k ≠ 0 ∧ s.sys.lock = false then .hold
       else if s.sys.service = 1 ∧ (recTwok b = false ∨ kdClass k ≠ 0) then .hold
       else if (s.servingDies (recSide b)).isEmpty then .hold
       else if (s.eligibleDies (recSide b) (recGang b)).isEmpty then .refuse causeConfig
       else .take (s.newLaunch q count ctx prio b k), r.2)

/-- A launch recorded as in progress. The other devices of a domain launch hear that it has begun. -/
def State.takeLaunch (s : State) (l : Launch) : State :=
  let s1 : State := { s with
    cp := { s.cp with
      launches := tset s.cp.launches s.cp.nextLaunch l
      nextLaunch := s.cp.nextLaunch + 1
      domainRuns := if l.dtag = 0 then s.cp.domainRuns else tset s.cp.domainRuns l.dtag (l.run + 1) } }
  s1.tellDomain l.dtag l.run domainBegan 0

/-! ### Completing a launch (R336) -/

/-- Have all crews of a launch retired, and is nothing of it undispatched? -/
def Launch.done (l : Launch) : Bool := !l.undispatched && decide (l.tiles ≤ l.retired)

/-- The signals of a queue that may complete complete in order (R326): every earlier record of the queue has. -/
def State.settleSignals (s : State) : List PendingSignal → State
  | [] => s
  | p :: rest =>
    let early := s.cp.launches.any (fun l => l.2.queue == p.queue && decide (l.2.count < p.count))
      || s.cp.signals.any (fun x => x.queue == p.queue && decide (x.count < p.count))
    let s1 := if early then s
      else match s.cpComplete p.queue (queueCtx p.queue p.ctx) p.cpl (statusWord p.seq 0 false false) with
        | (true, t) => { t with cp := { t.cp with signals := t.cp.signals.filter (fun x => x != p) } }
        | (false, t) => t
    s1.settleSignals rest

/-- R336. -/
def execLaunchComplete (launch : Nat) (s : State) : Out :=
  .next (match s.launch launch with
    | none => s
    | some l =>
      if l.done then
        (match s.cpComplete l.queue (queueCtx l.queue l.ctx) l.cpl
            (statusWord l.seq (match l.failed with | some c => c.toNat | none => 0) l.twilight l.degraded) with
         | (true, t) =>
           let t0 := t.tellDomain l.dtag l.run domainOver 0
           let t1 : State := { t0 with cp := { t0.cp with
             launches := tdel t0.cp.launches launch
             domain := t0.cp.domain.filter (fun d => !(d.tag == l.dtag && d.run == l.run)) } }
           t1.settleSignals t1.cp.signals
         | (false, t) => t)
      else s)

end Sys2Proof.Machine
end

