-- ==== Sys2Proof/Machine/Requests.lean ====
section
/-!
DEFINITION. CP requests (spec 12, R327, Table 12.5): queues, shootdown (R83), migration (R110 to R112), handover records (R260), routes (R270) and context
roots (R73).
-/
namespace Sys2Proof.Machine
open Sys2Proof

/-- What a request comes to: its completion code with the state after it, or a wait in which it has had no effect yet. -/
inductive Request where
  | done (code : Cause) (s : State)
  | wait (s : State)

/-- Are bytes [lo, hi) of a record zero but for those of the fields given, offset and length? -/
def onlyFields (b : List Byte) (lo hi : Nat) (fields : List (Nat × Nat)) : Bool :=
  (List.range (hi - lo)).all (fun i =>
    let o := lo + i
    fields.any (fun f => decide (f.1 ≤ o) && decide (o < f.1 + f.2)) || b.getD o 0 == 0)

/-! ### Queue descriptors (Table 12.1) -/

structure QueueDesc where
  base : Nat
  size : Nat
  ctl : Nat
  wr : Nat
  rd : Nat
  rejects : Nat
  headwait : Nat
  deriving DecidableEq, Repr

def queueDesc (b : List Byte) : QueueDesc :=
  ⟨at' b 0 8, at' b 8 4, at' b 0xC 4, at' b 0x10 8, at' b 0x18 8, at' b 0x28 4, at' b 0x30 4⟩

def QueueDesc.ctx (d : QueueDesc) : Nat := field d.ctl 11 0
def QueueDesc.ceiling (d : QueueDesc) : Nat := field d.ctl 13 12
def QueueDesc.enabled (d : QueueDesc) : Bool := d.ctl.testBit 14

/-- The checks of Table 12.1 on a descriptor's bytes, for an admin queue or another. -/
def queueDescOk (b : List Byte) (admin : Bool) : Bool :=
  let d := queueDesc b
  d.base % 128 == 0 && decide (2 ≤ d.size) && decide (d.size ≤ 32768) && decide (d.size = 2 ^ Nat.log2 d.size)
    && d.ctl.testBit 15 == admin && decide (d.ctl < 2 ^ 16) && at' b 0x2F 1 == 0 && at' b 0x34 12 == 0

/-- A queue recorded (R327). -/
def State.addQueue (s : State) (q desc function : Nat) : State :=
  { s with cp := { s.cp with queues := tset s.cp.queues q ⟨desc, function, false, none, 0, false, .idle⟩ } }

/-- A queue no longer scanned; launches and signals taken from it continue. -/
def State.dropQueue (s : State) (q : Nat) : State := { s with cp := { s.cp with queues := tdel s.cp.queues q } }

/-- Request 1. -/
def State.createRequest (s : State) (b : List Byte) : Request :=
  let q := at' b 0x48 2
  let f := at' b 0x4A 1
  if 1022 ≤ q ∨ 4 < f ∨ (tfind s.cp.queues q).isSome = true ∨ onlyFields b 0x3A 0x7C [(0x40, 8), (0x48, 3)] = false then .done causeConfig s
  else
    let r := s.cpRead none none (at' b 0x40 8) 64
    match r.1 with
    | .wait _ => .wait r.2
    | .trap c _ => .done c r.2
    | .val d => if queueDescOk d false then .done causeNone (r.2.addQueue q (at' b 0x40 8) f) else .done causeConfig r.2

/-- Request 2. -/
def State.destroyRequest (s : State) (b : List Byte) : Request :=
  let q := at' b 0x48 2
  if 1022 ≤ q ∨ (tfind s.cp.queues q).isNone = true ∨ onlyFields b 0x3A 0x7C [(0x48, 2)] = false then .done causeConfig s
  else .done causeNone (s.dropQueue q)

/-! ### Shootdown (R83) -/

/-- Does a cached translation match a shootdown: its context or a global entry, and a byte in the range? -/
def TlbEntry.shot (e : TlbEntry) (ctx : Option Nat) (va n : Nat) : Bool :=
  (match ctx with | none => true | some c => e.ctx == none || e.ctx == some c)
    && rangesMeet (e.vpage * pageSize e.level) (pageSize e.level) va n

/-- The buffered stores of every strand performed. -/
def State.drainAll (s : State) : State := s.cores.foldl (fun t c => t.drainCore c.1) s

/-- The four steps of a shootdown, made at the moment when every access that a matching translation served has been performed; none before. DEDUCED, log 15. -/
def State.shootdown (s : State) (ctx : Option Nat) (va n : Nat) : Option State :=
  let s1 := s.drainAll
  let dead := s1.clusters.flatMap (fun k => k.2.tlb.filter (fun e => e.shot ctx va n))
  if s1.inFlight dead (fun _ => true) then none
  else some { s1 with clusters := s1.clusters.map (fun k => (k.1, { k.2 with tlb := k.2.tlb.filter (fun e => !(e.shot ctx va n)) })) }

/-- A context number of a request: one context. -/
def ctxOk (c : Nat) : Bool := decide (c < 4096)

/-- Request 3. -/
def State.shootRequest (s : State) (b : List Byte) : Request :=
  let c := at' b 0x40 2
  let n := at' b 0x50 8
  if (c ≠ 0xFFFF ∧ ctxOk c = false) ∨ n % 65536 ≠ 0 ∨ onlyFields b 0x3A 0x7C [(0x40, 2), (0x48, 16)] = false then .done causeConfig s
  else match s.shootdown (if c = 0xFFFF then none else some c) (at' b 0x48 8) n with
    | some t => .done causeNone t
    | none => .wait s.drainAll

/-! ### Pages named by a request -/

/-- The leaf of a page that a request names, or what stops it (Table 4.5). -/
def State.requestLeaf (s : State) (ctx va : Nat) : CpRes (Nat × Nat × Nat) :=
  if 2 ^ 56 ≤ va then .trap causePageNotPresent va
  else match s.walk ctx va with
  | .leaf level addr e => .val (level, addr, e)
  | .absent => .trap causePageNotPresent va
  | .malformed => .trap causePageNotPresent va
  | .notResident => .trap causeLatencyBroken va
  | .unreachable _ => .trap causeFabricUnreachable va
  | .notPresent => .wait va
  | .held => .wait va

/-- A table entry written by the control plane. -/
def State.putEntry (s : State) (addr e : Nat) : State := s.cpPut [(addr, 0, 8)] (bytesOf 8 e)

/-! ### Migration (R110 to R112) -/

/-- Does a frame serve a registered window, a receive ring or a spill ring? -/
def State.frameBound (s : State) (f : Nat) : Bool :=
  s.windows.any (fun w => w.frames.contains f)
    || s.rings.any (fun r => r.2.frames.contains f || r.2.ctrl / 65536 * 65536 == f)
    || s.liveCrews.any (fun w => w.ringBinds (fun e => e.frames.any (fun x => x.2 == f)))

/-- The entries of a table at a physical address that are not zero everywhere: memory lists them. -/
def State.tableEntries (s : State) (table : Nat) : List Nat :=
  let listed := fun (m : Memory) (a : Nat) => ((m.filter (fun b => decide (a ≤ b.1) && decide (b.1 < a + 8192))).map (fun b => (b.1 - a) / 8)).eraseDups
  match s.locOf table with
  | .hbm a => listed s.hbm a
  | .host a => listed s.host a
  | _ => List.range 1024

/-- Does a table of level n - 1, a table below it, or a page mapped by them lie in a frame? -/
def State.tablesUse (s : State) (f : Nat) : Nat → Nat → Bool
  | 0, _ => false
  | n + 1, table =>
    rangesMeet table 8192 f 65536 || (s.tableEntries table).any (fun i =>
      match entryOf n (s.entryAt (table + 8 * i)) with
      | .pointer next => s.tablesUse f n next
      | .leaf e => rangesMeet (leafFrame e) (pageSize n) f 65536
      | _ => false)

/-- Does a frame lie in what firmware keeps: the RAS log, a queue's descriptor, the ring of an admin queue, whose base is physical (R319), the engine images? -/
def State.firmwareUses (s : State) (f : Nat) : Bool :=
  rangesMeet s.sys.raslog 65536 f 65536 || rangesMeet s.sys.imageBase s.sys.imageRoom f 65536 || s.cp.queues.any (fun q =>
    rangesMeet q.2.desc 64 f 65536 || (decide (1022 ≤ q.1) &&
      (let d := queueDesc (s.rawBytes (s.locOf q.2.desc) 64)
       rangesMeet (s.ownHbm d.base) (128 * d.size) f 65536)))

/-- Is a destination frame free device HBM (DEDUCED, log 40)? -/
def State.frameFree (s : State) (f : Nat) : Bool :=
  f % 65536 == 0 && isHbmPa f && (s.handover f).isNone && !(s.frameBound f) && !(s.firmwareUses f) && !(s.roots.any (fun r => s.tablesUse f 4 r.2))

/-- The entry that ends a walk from a table of level n - 1, with its level (R73). -/
def State.lastEntry (s : State) (va : Nat) : Nat → Nat → Option (Nat × Nat)
  | 0, _ => none
  | n + 1, table =>
    let addr := table + 8 * vaIndex n va
    if !(s.stackUp addr) then none
    else match entryOf n (s.entryAt addr) with
      | .pointer next => s.lastEntry va n next
      | _ => some (n, s.entryAt addr)

/-- Is an address mapped, present or not, by a page that migration refuses: one larger than 64 KiB, or not of class 2 (R110)? -/
def State.migrationRefuses (s : State) (ctx va : Nat) : Bool :=
  match s.lastEntry va 4 (tget s.roots ctx 0) with
  | some (n, e) => e != 0 && (n != 0 || leafClass e != 2)
  | none => false

/-- Is an update pending on a frame? -/
def State.updatesOn (s : State) (f : Nat) : Bool :=
  let on := fun (u : Update) => match u.addr with | .phys pa => pa / 65536 == f / 65536 | .sp _ => false
  s.suu.any (fun q => q.2.any on) || s.cores.any (fun k => k.2.crew.puu.any on)

/-- The lines of a frame given back by every SUU. -/
def State.releaseLines (s : State) (f : Nat) : State :=
  { s with suuLines := s.suuLines.map (fun q => (q.1, q.2.filter (fun x => x.1 / 512 != f / 65536))) }

/-- The 64 KiB of a page with their poison marks, by offset; from another device they are asked for. A page whose own frame is bound to a registered window is
refused (DESIGN CHOICE, log 86). -/
def State.pageBytes (s : State) (q old va : Nat) : CpRes (Memory × NatSet) × State :=
  let marks := fun (t : NatSet) (a : Nat) => (t.filter (fun g => decide (a / 32 ≤ g) && decide (g < a / 32 + 2048))).map (fun g => g - a / 32)
  match s.locOf old with
  | .remote dev a =>
    let asked := (List.range 16).foldl (fun (r : CpRes (List (List Byte × Nat)) × State) i =>
      let x := r.2.cpFar q dev (a + 4096 * i) 4096 va
      (match r.1, x.1 with
       | .val l, .val b => .val (l ++ [b])
       | .trap c v, _ => .trap c v
       | _, .trap c v => .trap c v
       | _, _ => .wait va, x.2)) (.val [], s)
    andThen asked (fun l t => (.val (msetN [] 0 (l.flatMap (·.1)),
      (List.range 2048).filter (fun g => ((l.map (·.2)).getD (g / 128) 0).testBit (g % 128))), t))
  | .host a => (if s.hostUp then .val (memSlice s.host a 65536, marks s.hostPoison a) else .trap causeFabricUnreachable va, s)
  | .hbm a => (.val (memSlice s.hbm a 65536, marks s.hbmPoison a), s)
  | _ => (.trap causeConfig va, s)

/-- Steps 2 to 5 of the fence: the page copied to its new frame, the leaf written, its translations shot down. -/
def State.movePage (s : State) (q ctx va addr e dst : Nat) : Request :=
  let old := s.ownHbm (leafFrame e)
  if s.updatesOn old || s.unperformed (fun pa => pa / 65536 == old / 65536) (fun _ => true) then .wait s
  else match s.shootdown (some ctx) (va / 65536 * 65536) 65536 with
    | none => .wait s.drainAll
    | some s1 =>
      let r := s1.pageBytes q old va
      match r.1 with
      | .wait _ => .wait r.2
      | .trap c _ => .done c (r.2.putEntry addr (setBit e 12 false))
      | .val (m, marks) =>
        let s2 := ((r.2.releaseLines old).recall old 65536).recall dst 65536
        let s3 := { s2 with
          hbm := memSplice s2.hbm dst 65536 m
          hbmPoison := marks.foldl (fun t g => sadd t (g + dst / 32)) (unmark s2.hbmPoison dst 65536) }
        let s4 := match s3.handover old with
          | some h => { s3 with handovers := tset (tdel s3.handovers (old / 65536)) (dst / 65536) h }
          | none => s3
        .done causeNone (s4.putEntry addr (setBit (e - leafFrame e + dst) 12 false))

/-- A fence of a page of another device that a request has begun given up: mlock is cleared. -/
def State.endFence (s : State) (ctx va : Nat) : State :=
  match s.requestLeaf ctx va with
  | .val (level, addr, e) =>
    (match s.locOf (leafFrame e) with
     | .remote _ _ => if level = 0 ∧ leafMlock e = true then s.putEntry addr (setBit e 12 false) else s
     | _ => s)
  | _ => s

/-- Request 4. A page of another device is locked first and copied when its bytes have come; of others the fence is one step. DEDUCED, log 16. -/
def State.migrateRequest (s : State) (q : Nat) (b : List Byte) : Request :=
  let ctx := at' b 0x40 2
  let va := at' b 0x48 8
  let dst := at' b 0x50 8
  if ctxOk ctx = false ∨ onlyFields b 0x3A 0x7C [(0x40, 2), (0x48, 16)] = false then .done causeConfig s
  else if s.frameFree dst = false then .done causeConfig (if (tfind s.cp.queues q).any (fun x => x.carried == .begun) then s.endFence ctx va else s)
  else match s.requestLeaf ctx va with
    | .trap c _ => .done c s
    | .wait _ => if s.migrationRefuses ctx va then .done causeConfig s else .wait s
    | .val (level, addr, e) =>
      let old := s.ownHbm (leafFrame e)
      let transit := leafHctl e && (match s.handover old with | some h => h.state == 1 | none => false)
      if level ≠ 0 ∨ leafClass e ≠ 2 ∨ transit = true then .done causeConfig s
      else if !(s.homeUp dst 65536) || (isHbmPa old && !(s.homeUp old 65536)) then .wait s
      else match s.locOf old with
        | .remote _ _ =>
          if leafMlock e then s.movePage q ctx va addr e dst
          else (match s.shootdown (some ctx) (va / 65536 * 65536) 65536 with
            | some t => .wait (t.putEntry addr (setBit e 12 true))
            | none => .wait s.drainAll)
        | _ => s.movePage q ctx va addr e dst

/-! ### Handover records (R260), routes (R270), context roots (R73) -/

/-- Request 5. DEDUCED, log 18. -/
def State.handoverRequest (s : State) (b : List Byte) : Request :=
  let ctx := at' b 0x40 2
  let va := at' b 0x48 8
  let owner := at' b 0x50 1
  let en := at' b 0x54 1
  if ctxOk ctx = false ∨ 1 < en ∨ Config.clusterCount ≤ owner ∨ onlyFields b 0x3A 0x7C [(0x40, 2), (0x48, 9), (0x52, 3)] = false then
    .done causeConfig s
  else match s.requestLeaf ctx va with
    | .trap c _ => .done c s
    | .wait _ => .wait s
    | .val (level, addr, e) =>
      let pa := s.ownHbm (leafFrame e)
      let fits := if en = 1 then (s.handover pa).isNone else (match s.handover pa with | some h => h.state == 0 | none => false)
      if level ≠ 0 ∨ fits = false then .done causeConfig s
      else match (s.putEntry addr (setBit e 11 (en == 1))).shootdown (some ctx) (va / 65536 * 65536) 65536 with
        | none => .wait s.drainAll
        | some t =>
          .done causeNone (if en = 1 then { t with handovers := tset t.handovers (pa / 65536) ⟨owner, at' b 0x52 2, 0, 0, 0⟩ }
            else { t with handovers := tdel t.handovers (pa / 65536) })

/-- Request 6. Routes are counted from 1, as the programs of spec 16 count them. DEDUCED, log 17. -/
def State.routeRequest (s : State) (b : List Byte) : Request :=
  let dev := at' b 0x40 2
  let r := at' b 0x42 1
  if 2047 < dev ∨ r = 0 ∨ 4 < r ∨ onlyFields b 0x3A 0x7C [(0x40, 3)] = false then .done causeConfig s
  else
    let k := 4 * dev + (r - 1)
    .done causeNone { s with fabric := { s.fabric with routes := tset s.fabric.routes k (setBit (tget s.fabric.routes k 0) 21 false) } }

/-- Request 7. -/
def State.rootRequest (s : State) (b : List Byte) : Request :=
  let ctx := at' b 0x40 2
  let root := at' b 0x48 8
  if ctxOk ctx = false ∨ root % 8192 ≠ 0 ∨ 2 ^ 52 ≤ root ∨ onlyFields b 0x3A 0x7C [(0x40, 2), (0x48, 12)] = false then .done causeConfig s
  else match ({ s with roots := tset s.roots ctx root, tags := tset s.tags ctx (at' b 0x50 4) } : State).shootdown (some ctx) 0 (2 ^ 56) with
    | some t => .done causeNone t
    | none => .wait s.drainAll

/-- A CP request, by its operation. -/
def State.request (s : State) (q : Nat) (b : List Byte) : Request :=
  match at' b 0x38 2 with
  | 1 => s.createRequest b
  | 2 => s.destroyRequest b
  | 3 => s.shootRequest b
  | 4 => s.migrateRequest q b
  | 5 => s.handoverRequest b
  | 6 => s.routeRequest b
  | 7 => s.rootRequest b
  | _ => .done causeConfig s

end Sys2Proof.Machine
end

