-- ==== Sys2Proof/Machine/Records.lean ====
section
/-!
DEFINITION. The CP at its queues: notification, scanning, the checks of a record and its taking (spec 12, R320, R321, R323 to R327, R329, R337).
-/
namespace Sys2Proof.Machine
open Sys2Proof

def State.queue (s : State) (q : Nat) : Option Queue := tfind s.cp.queues q
/-- A queue changed, if the CP knows it. -/
def State.modQueue (s : State) (q : Nat) (f : Queue → Queue) : State :=
  match s.queue q with
  | some x => { s with cp := { s.cp with queues := tset s.cp.queues q (f x) } }
  | none => s

/-! ### Accesses on behalf of a queue (R323) -/

/-- An access to a queue's descriptor or record that failed: recorded once until one has succeeded. -/
def State.queueFailed (s : State) (q va : Nat) : State :=
  match s.queue q with
  | some x => if x.failed then s else (s.rasQueue q va).modQueue q (fun y => { y with failed := true })
  | none => s
def State.queueReached (s : State) (q : Nat) : State := s.modQueue q (fun y => { y with failed := false })

/-- A field of the descriptor written. -/
def State.putDesc (s : State) (desc o : Nat) (b : List Byte) : State := s.cpPut [(desc + o, 0, b.length)] b

/-- The address of the entry of a consumption count (R319). -/
def QueueDesc.entry (d : QueueDesc) : Nat := d.base + 128 * (d.rd % d.size)

/-- The descriptor of a queue, and its head record where the queue is enabled. -/
def State.readHead (s : State) (q : Nat) (x : Queue) : CpRes (QueueDesc × List Byte) × State :=
  andThen (s.cpRead none none x.desc 64) (fun k t =>
    let d := queueDesc k
    if d.enabled && decide (0 < d.size) then andThen (t.cpRead none (queueCtx q d.ctx) d.entry 128) (fun b u => (.val (d, b), u))
    else (.val (d, []), t))

/-- Is a record present (R321)? -/
def present (b : List Byte) : Bool := (at' b 0 1).testBit 0

/-! ### Waiting at the head (R319, R329) -/

/-- Whole milliseconds for which the head has been present. -/
def State.agedBy (s : State) (x : Queue) : Nat :=
  match x.head with | some (_, since) => Nat.max x.aged ((s.time - since) / unitsMs) | none => 0

/-- The head of a queue noted as found: present at a count, or not. -/
def State.noteHead (s : State) (q : Nat) (d : QueueDesc) (b : List Byte) : State :=
  s.modQueue q (fun x =>
    if present b then
      (match x.head with
       | some (c, _) => if c = d.rd then { x with aged := s.agedBy x } else { x with head := some (d.rd, s.time), aged := 0, carried := .idle }
       | none => { x with head := some (d.rd, s.time), aged := 0 })
    else { x with head := none, aged := 0, announced := false, carried := .idle })

/-- The effective priority of a head (R329 step 1). -/
def State.level (s : State) (x : Queue) (d : QueueDesc) (b : List Byte) : Nat :=
  Nat.max d.ceiling (Nat.max (recPrio b) d.ceiling - s.agedBy x)

/-- headwait written: the µs for which the head has waited. -/
def State.noteWait (s : State) (q : Nat) : State :=
  match s.queue q with
  | some x =>
    (match x.head with
     | some (_, since) => s.putDesc x.desc 0x30 (bytesOf 4 (Nat.min (2 ^ 32 - 1) ((s.time - since) / unitsUs)))
     | none => s)
  | none => s

/-! ### Consuming and rejecting (R323) -/

/-- The record consumed: valid cleared in its header word, then rd + 1. None where the entry cannot be written. -/
def State.consume (s : State) (q : Nat) (d : QueueDesc) (b : List Byte) : CpRes Unit × State :=
  match s.queue q with
  | none => (.val (), s)
  | some x =>
    andThen (s.cpTargets (queueCtx q d.ctx) cpWrite' [(d.entry, 4)]) (fun l t =>
      let t1 := (t.cpPut l (bytesOf 4 (setBit (at' b 0 4) 0 false))).putDesc x.desc 0x18 (bytesOf 8 (d.rd + 1))
      let t2 := (t1.putDesc x.desc 0x30 (bytesOf 4 0)).modQueue q (fun y => { y with head := none, aged := 0, carried := .idle })
      (.val (), { t2 with cp := { t2.cp with remote := t2.cp.remote.filter (fun r => r.queue != q) } }))

/-- What examining a head came to: the record taken, or left. -/
structure Examined where
  taken : Bool
  state : State

/-- A change made with the consumption of the record, or the record left where its entry cannot be written. -/
def State.consumeWith (s : State) (q : Nat) (d : QueueDesc) (b : List Byte) (f : State → State) : Examined :=
  let r := s.consume q d b
  match r.1 with
  | .val _ => ⟨true, f r.2⟩
  | .trap _ va => ⟨false, r.2.queueFailed q va⟩
  | .wait va => ⟨false, r.2.queueFailed q va⟩

/-- The record rejected with a code (Table 12.3). -/
def State.reject (s : State) (q : Nat) (x : Queue) (d : QueueDesc) (b : List Byte) (code : Nat) : Examined :=
  s.consumeWith q d b (fun t =>
    (t.putDesc x.desc 0x28 (bytesOf 4 (d.rejects + 1))).putDesc x.desc 0x2C (bytesOf 4 (d.rd % 65536 + code * 65536)))

/-- The record completed with a code and consumed; left while its completion is not done, or its entry cannot be written. DEDUCED, log 13. -/
def State.finishRecord (s : State) (q : Nat) (d : QueueDesc) (b : List Byte) (code : Cause) : Examined :=
  if !((s.consumeWith q d b (fun u => u)).taken) then ⟨false, s.queueFailed q d.entry⟩
  else match s.cpComplete q (queueCtx q d.ctx) (recCpl b) (statusWord (recSeq b) code.toNat false false) with
  | (false, t) => ⟨false, t⟩
  | (true, t) => t.consumeWith q d b (fun u => u)

/-! ### Dependencies (R325, R326) -/

/-- Is a dependency met? One whose address fails is not. DEDUCED, log 12. -/
def State.depMet (s : State) (q : Nat) (ctx : Option Nat) (a v : Nat) : Bool × State :=
  if a = 0 then (true, s)
  else
    let r := s.cpRead (some q) ctx a 8
    match r.1 with
    | .val m => (decide (sintOf 64 (ofBytes m) ≤ sintOf 64 v), r.2)
    | _ => (false, r.2)

/-- Every dependency of a list. -/
def State.depsMet (s : State) (q : Nat) (ctx : Option Nat) : List (Nat × Nat) → Bool × State
  | [] => (true, s)
  | (a, v) :: rest =>
    let r := s.depMet q ctx a v
    let t := r.2.depsMet q ctx rest
    (r.1 && t.1, t.2)

/-- The dependencies of a record. -/
def recDeps (b : List Byte) : List (Nat × Nat) :=
  (at' b 0x28 8, at' b 0x30 8) ::
    (if recKind b = 2 then (List.range 4).map (fun i => (at' b (0x38 + 16 * i) 8, at' b (0x40 + 16 * i) 8)) else [])

/-- The queue that a record inside the CP belongs to, where the CP holds that record. -/
def State.cpRecordQueue (s : State) : CpRecord → Option Nat
  | .head q => if ((s.queue q).bind Queue.head).isSome then some q else none
  | .launch n => (s.launch n).map Launch.queue
  | .signal q c => if s.cp.signals.any (fun p => p.queue == q && p.count == c) then some q else none

/-- A record inside the CP fails its CRC-32C (R323): it is discarded, a RAS record names its queue, and it is rebuilt from its source at once (R337): the CP
goes on with what the record held, since when its head has waited too. DESIGN CHOICE, log 45. -/
def State.cpRecordError (s : State) (r : CpRecord) : State :=
  match s.cpRecordQueue r with
  | some q => s.rasQueue q (((s.queue q).map Queue.desc).getD 0)
  | none => s

/-! ### The checks of Table 12.3 -/

/-- Step 3. -/
def headOk (q : Nat) (b : List Byte) : Bool :=
  let k := recKind b
  let zeroRest := at' b 4 4 == 0 && at' b 8 24 == 0
  field (at' b 0 4) 15 10 == 0 && recCpl b % 16 == 0 && at' b 0x28 8 % 8 == 0
    && (match k with
        | 1 => recFlags b < 256 && recSide b != 0 && recPreempt b != 3
        | 2 => zeroRest && at' b 0x78 4 == 0
        | 3 => zeroRest && at' b 0x38 0x44 == 0
        | 8 => zeroRest && decide (1022 ≤ q)
        | _ => false)

/-- What a record is, for the steps that take one sort: its kind, or 16 and its operation for a CP request. -/
def recSort (b : List Byte) : Nat := if recKind b = 8 then 16 + at' b 0x38 2 else recKind b

/-- Step 5 for a launch, and its taking. -/
def State.serveLaunch (s : State) (q : Nat) (x : Queue) (d : QueueDesc) (b : List Byte) : Examined :=
  let r := s.checkLaunch q d.rd d.ctx (s.level x d b) b
  match r.1 with
  | .refuse c => r.2.finishRecord q d b c
  | .hold => ⟨false, r.2⟩
  | .take l => r.2.consumeWith q d b (fun t => t.takeLaunch l)

/-- A CP request carried out and completed; one that a restart of the control plane cut short completes with CONFIG (Table 14.3). One carried out whose
completion is not done is not carried out again. -/
def State.serveRequest (s : State) (q : Nat) (d : QueueDesc) (b : List Byte) : Examined :=
  match (s.queue q).map Queue.carried with
  | some .cut => s.finishRecord q d b causeConfig
  | some (.carried c) => s.finishRecord q d b (BitVec.ofNat 8 c)
  | _ =>
    match s.request q b with
    | .wait t => ⟨false, t.modQueue q (fun x => { x with carried := .begun })⟩
    | .done c t =>
      let e := t.finishRecord q d b c
      if e.taken then e else ⟨false, e.state.modQueue q (fun x => { x with carried := .carried c.toNat })⟩

/-- A record whose dependencies are met taken, by its kind. -/
def State.serveKind (s : State) (q : Nat) (x : Queue) (d : QueueDesc) (b : List Byte) : Examined :=
  match recKind b with
  | 1 => s.serveLaunch q x d b
  | 2 => s.finishRecord q d b causeNone
  | 3 =>
    let e := s.consumeWith q d b (fun t =>
      { t with cp := { t.cp with signals := t.cp.signals ++ [⟨q, d.ctx, d.rd, recSeq b, recCpl b⟩] } })
    ⟨e.taken, e.state.settleSignals e.state.cp.signals⟩
  | _ => s.serveRequest q d b

/-- A present head checked in the order of Table 12.3, and taken where it can be. A step that takes one sort of record leaves the others. -/
def State.serveHead (s : State) (q : Nat) (x : Queue) (d : QueueDesc) (b : List Byte) (sort : Option Nat) : Examined :=
  if crc32c (b.take 0x7C) ≠ at' b 0x7C 4 then s.reject q x d b 0x11
  else if recSeq b ≠ d.rd % 65536 then s.reject q x d b 0x0E
  else if !(headOk q b) then s.finishRecord q d b causeConfig
  else if sort.any (fun k => k != recSort b) then ⟨false, s⟩
  else
    let r := s.depsMet q (queueCtx q d.ctx) (recDeps b)
    if r.1 then r.2.serveKind q x d b else ⟨false, r.2.cpForget q⟩

/-! ### Which head is examined (R329) -/

/-- How far a queue is from the one served last at its level. -/
def State.roundFrom (s : State) (level q : Nat) : Nat := (q + 1024 - (tget s.cp.served level 1023 + 1) % 1024) % 1024

/-- Would a queue whose head is known be served before one of a level: its level is lower, or the same and its turn earlier, and its head can be taken? -/
def State.before (s : State) (q level : Nat) (y : Nat × Queue) : Bool :=
  if y.1 = q ∨ y.2.head = none then false
  else
    let r := s.readHead y.1 y.2
    match r.1 with
    | .val (d, b) =>
      let l := s.level y.2 d b
      present b && (decide (l < level) || (l == level && decide (s.roundFrom level y.1 < s.roundFrom level q)))
        && (r.2.serveHead y.1 y.2 d b none).taken
    | _ => false

/-- The CP examines a queue: its head is found or not, and where its turn has come it is checked and taken. -/
def State.examine (s : State) (q : Nat) (sort : Option Nat) : State :=
  if s.sys.service ≠ 1 ∧ s.sys.service ≠ 2 then s
  else match s.queue q with
    | none => s
    | some x =>
      let r := s.readHead q x
      match r.1 with
      | .trap _ va => r.2.queueFailed q va
      | .wait va => r.2.queueFailed q va
      | .val (d, b) =>
        let s1 := (r.2.queueReached q).noteHead q d b
        if !(present b) then s1
        else match s1.queue q with
          | none => s1
          | some y =>
            let l := s1.level y d b
            if s1.cp.queues.any (fun z => s1.before q l z) then s1.noteWait q
            else
              let e := s1.serveHead q y d b sort
              if e.taken then { e.state with cp := { e.state.cp with served := tset e.state.cp.served l q } }
              else e.state.noteWait q

/-- A step that takes one sort of record examines a queue that has been announced, or whose head the CP has found. -/
def State.examineFor (s : State) (q sort : Nat) : State :=
  match s.queue q with
  | some x => if x.announced || x.head.isSome then s.examine q (some sort) else s
  | none => s

/-! ### The steps -/

/-- R320: a write to a queue's notify register or word. DEDUCED, log 59. -/
def execNotifyWrite (queue : Nat) (s : State) : Out :=
  .next (if s.functionRefuses (queue / 1024) then s.hostAnswer [] else s.modQueue (queue % 1024) (fun x => { x with announced := true }))
/-- R320, R323: one examination of a queue, whatever stands at its head. -/
def execQueueScan (queue : Nat) (s : State) : Out := .next (s.examine queue none)
/-- R325: the dependency of a head that waits read again. -/
def execDependencyRecheck (queue : Nat) (s : State) : Out :=
  .next (match s.queue queue with
    | some x => if x.head.isSome then s.examine queue none else s
    | none => s)
/-- R329 step 1. -/
def execPriorityAging (queue : Nat) (s : State) : Out := .next (s.modQueue queue (fun x => { x with aged := s.agedBy x }))
/-- R328. -/
def execLaunch (queue : Nat) (s : State) : Out := .next (s.examineFor queue 1)
/-- R326. -/
def execBarrierAnd (queue : Nat) (s : State) : Out := .next (s.examineFor queue 2)
/-- R326: a signal taken, and those taken before completed where they may. -/
def execSignalRecord (queue : Nat) (s : State) : Out :=
  let t := s.examineFor queue 3
  .next (t.settleSignals t.cp.signals)
/-- R327. -/
def execCreateQueue (queue : Nat) (s : State) : Out := .next (s.examineFor queue 17)
/-- R327. -/
def execDestroyQueue (queue : Nat) (s : State) : Out := .next (s.examineFor queue 18)
/-- R83. -/
def execShootdown (queue : Nat) (s : State) : Out := .next (s.examineFor queue 19)
/-- R110, R111. -/
def execMigrate (queue : Nat) (s : State) : Out := .next (s.examineFor queue 20)
/-- R260, R327. -/
def execHandoverRecord (queue : Nat) (s : State) : Out := .next (s.examineFor queue 21)
/-- R270. -/
def execClearRoute (queue : Nat) (s : State) : Out := .next (s.examineFor queue 22)
/-- R73. -/
def execContextRoot (queue : Nat) (s : State) : Out := .next (s.examineFor queue 23)

end Sys2Proof.Machine
end

