-- ==== Sys2Proof/Machine/Dispatchers.lean ====
section
/-!
DEFINITION. The die dispatchers: placing gangs and stealing tiles (spec 12, R331, R333; spec 03, R47, R68).
-/
namespace Sys2Proof.Machine
open Sys2Proof

/-! ### GANG_PLACE (R331) -/

/-- A strand at the start of its kernel (R68). -/
def startStrand (l : Launch) (tile k : Nat) (save : Word) : Strand :=
  let t := (((emptyStrand.setX 1 (BitVec.ofNat 64 l.args)).setX 2 (BitVec.ofNat 64 tile)).setX 3 (BitVec.ofNat 64 k)).setX 4 save
  { t with pc := BitVec.ofNat 64 l.code, present := true }

/-- A crew at its start (R68, R116, R135, R153, R200, R277). -/
def startCrew (l : Launch) (launch tile place core : Nat) (now : Nat) : Crew :=
  let save := BitVec.ofNat 64 (l.savebase + tile * l.savesz)
  { emptyCrew with
    info := ⟨launch, tile, l.placed, place, l.strands, BitVec.ofNat 64 l.args, l.ctx, l.part, l.mode, BitVec.ofNat 64 l.handler, save, l.savesz,
      sideOf core, l.seq⟩
    strands := (List.range l.strands).map (fun k => (k, startStrand l tile k save))
    progress := now }

/-- A crew put on a core; a test whose granule has ended there is over (R361). -/
def State.startOn (s : State) (core : Nat) (w : Crew) : State :=
  (s.setCore core { s.core core with held := true, crew := w }).setHealth core { s.health core with testing := none }

/-- The next new gang of a launch placed in a cluster: its crews start together. -/
def State.placeNew (s : State) (launch cluster : Nat) (l : Launch) : State :=
  let die := dieOfCluster cluster
  match l.nextGang die with
  | none => s
  | some (a, n) =>
    let cores := (s.freeIn cluster).take n
    let s1 := cores.zipIdx.foldl (fun t c => t.startOn c.1 (startCrew l launch (a + c.2) c.2 c.1 s.time)) (s.enterCluster cluster launch)
    s1.modLaunch launch (fun x => { x with
      placed := x.placed + 1
      ranges := tset x.ranges die (a + n, (tget x.ranges die (a + n, a + n)).2)
      waiting := tset x.waiting die s.time })

/-- R331: the suspended gang of the launch that is to be served in the cluster, or else its next new gang. -/
def execGangPlace (launch cluster : Nat) (s : State) : Out :=
  let die := dieOfCluster cluster
  .next (match s.launch launch with
    | none => s
    | some l =>
      match s.cp.gangs.find? (fun g => g.2.launch == launch && s.mayPlace die false g.1 cluster) with
      | some g => s.resumeIn g.1 cluster
      | none => if s.mayPlace die true launch cluster then s.placeNew launch cluster l else s)

/-! ### Stealing (R333) -/

/-- Undispatched tiles of a launch on a die. -/
def Launch.left (l : Launch) (die : Nat) : Nat := match tfind l.ranges die with | some (a, b) => b - a | none => 0

/-- Is a dispatcher idle for a launch: no undispatched tile of it, no gang waiting, and a cluster that could host a gang? DEDUCED, log 61. -/
def State.idleFor (s : State) (die : Nat) (l : Launch) : Bool :=
  (s.servingDies l.side).contains die && l.left die == 0 && (s.candidates die).isEmpty
    && (clustersOf die).any (fun cl => decide (l.gang ≤ (s.freeIn cl).length))

/-- The die with the most undispatched tiles of a launch, the first in order on a tie. -/
def Launch.richest (l : Launch) : Option Nat :=
  [0, 1, 2, 3].foldl (fun b d =>
    if l.left d = 0 then b
    else match b with
      | some x => if l.left x < l.left d then some d else b
      | none => some d) none

/-- May a dispatcher ask for tiles of a launch now: it is idle for it, has not asked within 10 µs, and has no request on its way? -/
def State.mayAsk (s : State) (die launch : Nat) (l : Launch) : Bool :=
  s.idleFor die l && !(s.cp.requests.any (fun r => r.1 == launch && r.2.2 == die))
    && (match tfind s.cp.asked (4 * launch + die) with | some t => decide (t + 10 * unitsUs ≤ s.time) | none => true)

/-- R333: the idle dispatcher of a die sends a steal request, for the first launch for which it may. -/
def execStealRequest (die : Nat) (s : State) : Out :=
  .next (match s.cp.launches.find? (fun l => s.mayAsk die l.1 l.2 && l.2.richest.isSome) with
    | none => s
    | some (k, l) =>
      let victim := l.richest.getD 0
      { s with
        cp := { s.cp with
          requests := s.cp.requests ++ [(k, victim, die)]
          asked := tset s.cp.asked (4 * k + die) s.time } })

/-- The tiles a victim grants: half of what it holds undispatched, rounded down to whole gangs. A die out of service moves none (R364). -/
def State.granted (s : State) (l : Launch) (victim : Nat) : Nat :=
  if smem s.sys.dies victim then l.left victim / 2 / l.gang * l.gang else 0

/-- R333: the victim serves a steal request: tiles from the top of its range move to the thief, if its die is still in service (R13). -/
def execStealGrant (launch victim thief : Nat) (s : State) : Out :=
  .next (if s.cp.requests.contains (launch, victim, thief) then
      (let s1 := { s with cp := { s.cp with requests := s.cp.requests.filter (fun r => r != (launch, victim, thief)) } }
       match s.launch launch with
       | none => s1
       | some l =>
         let n := s.granted l victim
         if n = 0 ∨ l.left thief ≠ 0 ∨ smem s.sys.dies thief = false then s1
         else
           let r := tget l.ranges victim (0, 0)
           s1.modLaunch launch (fun x => { x with
             ranges := tset (tset x.ranges victim (r.1, r.2 - n)) thief (r.2 - n, r.2)
             waiting := tset x.waiting thief s.time }))
    else s)

end Sys2Proof.Machine
end

