-- ==== Sys2Proof/Machine/Device.lean ====
section
/-!
DEFINITION. The host's registers and accesses, resets and restarts, start-up, security and management (spec 14; spec 13, R361 to R364; spec 01,
R13 to R16).
-/
namespace Sys2Proof.Machine
open Sys2Proof

/-! ### Registers of function 0's BAR0 (R371, R373) -/

/-- The admin queue enabled where its descriptor passes the checks of Table 12.1, disabled by a 0 in bit 0; aqen[1] says that the checks failed. A write
whose descriptor cannot be read yet has no effect yet. DEDUCED, log 58. -/
def execAqenWrite (value : Word) (s : State) : Out :=
  let put := fun (t : State) (v : Nat) => ({ t with sys := { t.sys with aqen := v } } : State)
  .next (if !(value.getLsbD 0) then put (s.dropQueue 1023) 0
    else if s.sys.aqen = 1 then s
    else
      let r := s.cpRead none none s.sys.aqdesc 64
      match r.1 with
      | .wait _ => r.2
      | .trap _ _ => put r.2 2
      | .val d => if queueDescOk d true then put (r.2.addQueue 1023 s.sys.aqdesc 0) 1 else put r.2 2)

/-- R373: the identifier is written while the lock is open, and bit 63 locks it. -/
def execDevidWrite (value : Word) (s : State) : Out :=
  .next (if s.sys.lock then s
    else { s with sys := { s.sys with devid := field value.toNat 10 0, lock := value.getLsbD 63 } })

/-- Bit i for each i in a list. -/
def bitSet (l : List Nat) : Nat := l.foldl (fun n i => n ||| 2 ^ i) 0

/-- What a host read of BAR0 of a function gives at an offset (Table 14.2), none where the function refuses it (R378): only function 0 has the registers from
0x2000 upward, and the notify registers hold nothing to read. -/
def State.readBar (s : State) (function offset : Nat) : Option Nat :=
  if s.functionRefuses function then none
  else some (if function ≠ 0 then 0
    else if offset = 0x2000 then s.sys.aqdesc
    else if offset = 0x2008 then s.sys.aqen
    else if offset = 0x2010 then s.sys.service ||| bitSet s.sys.trained <<< 2 ||| bitSet s.sys.dies <<< 18
    else if offset = 0x2018 then s.sys.raslog
    else if offset = 0x2020 then s.sys.raslost
    else if offset = 0x2028 then s.sys.devid ||| b2n s.sys.lock <<< 63
    else 0)

/-! ### What the MC reports (R353, R379) -/

/-- The record at a place of the RAS ring, which the MC gives over the I3C port in every state (R379). -/
def State.mcRecord (s : State) (place : Nat) : List Byte := s.homeBytes (s.sys.raslog + 32 * (place % 2048)) 32

/-- What the MC reports of itself (R379): the power in watts, the temperature of each die, the core clock as units of 1/13 ns per cc, and the state. -/
structure Telemetry where
  power : Nat
  temperatures : List Nat
  cc : Nat
  service : Nat
  deriving DecidableEq, Repr

/-- R379, R380: the power is at most 3.0 kW; the power and the temperatures of the eight dies are free otherwise. DESIGN CHOICE, log 92. -/
def State.telemetry (s : State) : Telemetry :=
  ⟨s.freeNat 43 % 3001, (List.range 8).map (fun die => s.freeNat (900 + die)), s.sys.cc, s.sys.service⟩

/-- The region of the engine images, its address and its bytes, as the MC reports it (R353). -/
def State.mcImageRegion (s : State) : Nat × Nat := (s.sys.imageBase, s.sys.imageRoom)

/-! ### Host links and accesses (R316, R372, R85) -/

/-- The two host links are on MD0 and MD2. -/
def isHostLink (link : Nat) : Bool := link == 0 || link == 2

/-- R372. -/
def execHostLinkDown (link : Nat) (s : State) : Out := .next { s with sys := { s.sys with links := sdel s.sys.links link } }
/-- R372. -/
def execHostLinkUp (link : Nat) (s : State) : Out :=
  .next (if isHostLink link then { s with sys := { s.sys with links := sadd s.sys.links link } } else s)

/-- Unread RAS records wholly within a range that the host reads count as read (R379). DEDUCED, log 62. -/
def State.rasSeen (s : State) (a n : Nat) : Nat → State
  | 0 => s
  | k + 1 =>
    let x := s.sys.raslog + 32 * (s.sys.rasRead % 2048)
    if s.sys.rasRead < s.sys.rasWritten ∧ a ≤ x ∧ x + 32 ≤ a + n then
      ({ s with sys := { s.sys with rasRead := s.sys.rasRead + 1 } } : State).rasSeen a n k
    else s

/-- R316: a host access to device HBM, performed at the points of coherence of its bytes; on a handover-controlled page, on a window that does not take writes, and for a
function in ERROR it is refused with an error completion, noted as one without bytes (R122, R261, R378). An access that nothing carries, whose stack is
not trained, or that meets a line of a sparse-update unit (R88) has no effect yet. -/
def execHostHdmAccess (address : Nat) (store : Option (List Byte)) (size : Nat) (s : State) : Out :=
  let n := match store with | some b => b.length | none => size
  if 2 ^ 40 ≤ address ∨ 2 ^ 40 < address + n then .fault (.noSuchAddress address)
  else if n = 0 ∨ s.hostUp = false ∨ (s.sys.service ≠ 1 ∧ s.sys.service ≠ 2) ∨ s.homeUp address n = false ∨ s.suuHolds address n = true then .next s
  else if s.functionRefuses 0 = true ∨ s.homeRefusal address n store.isSome ≠ 0 then .next (s.hostAnswer [])
  else
    let s1 := s.recall address n
    match store with
    | some b => .next (s1.homeWrite address n ((List.range n).map (fun i => (i, b.getD i 0, false))))
    | none => .next ((s1.hostAnswer (s1.homeBytes address n)).rasSeen address n 2048)

/-- R85: the host's request for a line of the host window: a dirty copy goes back to it, and where the host writes, no slice keeps the line. -/
def execCxlCacheSnoop (address : Nat) (store : Option (List Byte)) (s : State) : Out :=
  let pa := 2 ^ 48 + address % 2 ^ 48
  let n := pa / 128
  .next (match store with
    | some b => ({ s with lines := tdel s.lines n } : State).writeLoc (.host (address % 2 ^ 48)) (b.take (128 - address % 128)) false
    | none =>
      match tfind s.lines n with
      | some d => { s with lines := tset s.lines n { d with owner := none, dirty := false } }
      | none => s)

/-! ### What a reset loses -/

/-- Bytes of a frame poisoned. -/
def poisonFrame (t : NatSet) (f : Nat) : NatSet := (granules f 65536).foldl sadd t

/-- The windows of a core dropped with their backing granules poisoned (R364). -/
def State.loseWindows (s : State) (core : Nat) : State :=
  { s with
    hbmPoison := ((s.windows.filter (fun x => x.core == core)).flatMap (fun x => x.frames)).foldl poisonFrame s.hbmPoison
    windows := s.windows.filter (fun x => x.core != core) }

/-- A launch told that a reset took n of its crews (R364). -/
def State.launchLost (s : State) (launch n : Nat) : State :=
  s.modLaunch launch (fun l => { l with retired := l.retired + n, failed := some causePreempted })

/-- The crew of a core ended without a save by a reset. Whether its buffered stores were performed is not said (free). -/
def State.loseCrew (s : State) (core : Nat) : State :=
  let i := (s.crew core).info
  let s1 := if s.freeNat (400 + core) % 2 = 0 then s.drainCore core else s
  ((((s1.settleCore core).loseWindows core).dropRings i).endMembers i).freeCore core |>.launchLost i.launch 1

/-- A suspended gang dropped by a reset. -/
def State.loseGang (s : State) (k : Nat) (g : Gang) : State :=
  let s1 := g.crews.foldl (fun t w => (t.dropRings w.info).endMembers w.info) s
  ({ s1 with cp := { s1.cp with gangs := tdel s1.cp.gangs k } } : State).launchLost g.launch g.crews.length

/-- The lines that only slices of some clusters hold dirty poisoned, and their other copies there dropped. -/
def State.loseLines (s : State) (mine : Nat → Bool) : State :=
  let lost := s.lines.filter (fun l => l.2.dirty && (match l.2.owner with | some c => mine c | none => false))
  let kept := s.lines.filterMap (fun l =>
    let d : DirLine := { l.2 with sharers := l.2.sharers.filter (fun c => !(mine c)) }
    if (match d.owner with | some c => mine c | none => false) || (d.owner.isNone && d.sharers.isEmpty) then none else some (l.1, d))
  let mark := fun (t : NatSet) (n : Nat) => [0, 1, 2, 3].foldl (fun u i => sadd u (4 * n + i)) t
  { s with
    lines := kept
    hbmPoison := (lost.filter (fun l => isHbmPa (128 * l.1))).foldl (fun t l => mark t l.1) s.hbmPoison
    hostPoison := (lost.filter (fun l => isHostPa (128 * l.1))).foldl (fun t l => mark t (l.1 - 2 ^ 41)) s.hostPoison }

/-- The caches of some clusters emptied. -/
def State.loseCaches (s : State) (mine : Nat → Bool) : State := { s with clusters := s.clusters.filter (fun k => !(mine k.1)) }

/-! ### Die reset (R364) -/

/-- The cores of a die. -/
def coresOfDie (die : Nat) : List Nat := (clustersOf die).flatMap clusterCores

/-- R364: functions 1 to 4 are PD0, PD1, TD0 and TD1. DEDUCED, log 60. -/
def execDieReset (function : Nat) (s : State) : Out :=
  .next (if function = 0 ∨ 4 < function then s
    else
      let die := function - 1
      let cores := (coresOfDie die).filter (fun c => (s.core c).held)
      let launches := cores.map (fun c => (s.crew c).info.launch)
      let s1 := cores.foldl (fun t c => t.loseCrew c) s
      let s2 := (s1.cp.gangs.filter (fun g => launches.contains g.2.launch)).foldl (fun t g => t.loseGang g.1 g.2) s1
      let s3 := (s2.loseLines (fun cl => dieOfCluster cl == die && decide (cl < 56))).loseCaches (fun cl => dieOfCluster cl == die && decide (cl < 56))
      let s4 := (coresOfDie die).foldl (fun t c => t.setHealth c { t.health c with cleared := (t.health c).failing, passed := [], testing := none }) s3
      let s5 := s4.rasLog 0x000B 0xFFFF 0 ⟨function, cores.length, 0, 0⟩
      { s5 with
        sys := { s5.sys with
          dies := sdel s5.sys.dies die
          bounds := sdel s5.sys.bounds die
          untested := (coresOfDie die).foldl sadd s5.sys.untested
          tested := s5.sys.tested.filter (fun c => dieOf c != die)
          tdisp := tset s5.sys.tdisp function 3
          ide := sdel s5.sys.ide function } })

/-! ### Function 0 reset and the plane restarts (Table 14.3) -/

/-- R374: everything but the spare mapping is as after reset; the host's own memory is not the device's. The schedule goes on. -/
def execFunction0Reset (s : State) : Out :=
  let kept := (s.sys.health.filter (fun h => !(h.2.spared.isEmpty) || !(h.2.rowsSpared.isEmpty))).map (fun h =>
    (h.1, { emptyHealth with spared := h.2.spared, rowsSpared := h.2.rowsSpared }))
  .next { State.reset with
    moment := s.moment
    sched := s.sched
    cur := s.cur
    host := s.host
    hostPoison := s.hostPoison
    sys := { emptySys with health := kept } }

/-- R374: records being scanned are taken again; requests in progress will complete with CONFIG; requests of dispatchers on their way are lost. -/
def execControlPlaneRestart (s : State) : Out :=
  .next { s with
    cp := { s.cp with
      queues := s.cp.queues.map (fun q => (q.1, { q.2 with
        announced := false
        head := none
        aged := 0
        carried := if q.2.carried = .begun then .cut else q.2.carried }))
      served := []
      asked := []
      requests := []
      remote := [] } }

/-- R374: every crew is ended without a save, dirty lines are poisoned, ring and group tables are lost. -/
def execDataPlaneRestart (s : State) : Out :=
  let cores := (s.cores.filter (fun k => k.2.held)).map (·.1)
  let s1 := cores.foldl (fun t c => t.loseCrew c) s
  let s2 := s1.cp.gangs.foldl (fun t g => t.loseGang g.1 g.2) s1
  let s3 := (s2.loseLines (fun _ => true)).loseCaches (fun _ => true)
  .next { s3 with rings := [], groups := [], reports := [] }

/-- R374: the counts in progress of the 10-minute windows restart. -/
def execManagementPlaneRestart (s : State) : Out :=
  .next { s with sys := { s.sys with health := s.sys.health.map (fun h => (h.1, { h.2 with counts := [] })) } }

/-! ### Start-up (R375 to R377) -/

/-- R377: an image is measured and verified before it runs; a bad one fails the device. The digest of an image is not known here (free). DESIGN CHOICE,
log 41. -/
def execFirmwareVerify (image : Nat) (good : Bool) (s : State) : Out :=
  .next (if s.sys.service = 0 ∧ image < 4 then
      { s with
        sys := { s.sys with
          measures := s.freeNat (60 + image) % 2 ^ 512 :: s.sys.measures
          firmware := if good then sadd s.sys.firmware image else s.sys.firmware
          service := if good then 0 else 3 } }
    else s)

/-- csr_tvec of the cores of a die set by the CP as the die starts (R340): where the monitor lies is not said (free), but it is at a multiple of 4 (R45). DESIGN CHOICE, log 91. -/
def State.startDie (s : State) (die : Nat) : State :=
  let v := BitVec.ofNat 64 (4 * s.freeNat 42)
  let mine := (coresOfDie die).map (fun c => (c, { s.core c with tvec := v }))
  { s with cores := s.cores.filter (fun x => decide (dieOf x.1 < die)) ++ mine ++ s.cores.filter (fun x => decide (die < dieOf x.1)) }

/-- A compute die in service once its boundary is trained and, after a reset of it, its transit tests have passed (R13, R364). -/
def State.serveDie (s : State) (die : Nat) : State :=
  if smem s.sys.bounds die && !(smem s.sys.dies die) && !(s.sys.untested.any (fun c => dieOf c == die)) then
    ({ s with sys := { s.sys with dies := sadd s.sys.dies die } } : State).startDie die
  else s

/-- R13: boundaries 0 to 3 are those of the compute dies, 4 to 7 those of MD0 to MD3. -/
def execHubBoundaryTrained (die : Nat) (s : State) : Out :=
  .next (if die < 4 then ({ s with sys := { s.sys with bounds := sadd s.sys.bounds die } } : State).serveDie die
    else if die < 8 then { s with sys := { s.sys with memDies := sadd s.sys.memDies (die - 4) } }
    else s)

/-- R376: what was withheld for the stack proceeds when it is tried again. -/
def execStackTrained (stack : Nat) (s : State) : Out :=
  .next (if stack < 16 then { s with sys := { s.sys with trained := sadd s.sys.trained stack } } else s)

/-- R375: a Nueth port. -/
def execNuethPortTrained (port : Nat) (s : State) : Out :=
  .next (if port < 16 then { s with sys := { s.sys with ports := sadd s.sys.ports port } } else s)

/-- Are all of 0 to n - 1 in a set? -/
def allOf (n : Nat) (t : NatSet) : Bool := (List.range n).all (smem t)

/-- R375, R376. -/
def execEnterTwilight (s : State) : Out :=
  .next (if s.sys.service = 0 ∧ allOf 4 s.sys.firmware = true ∧ s.sys.bounds ≠ [] ∧ s.sys.memDies ≠ [] ∧ s.sys.trained ≠ [] then
      { s with sys := { s.sys with service := 1, cc := 20 } }
    else s)

/-- R375: every stack, boundary and port is trained, and every core has passed every transit test. -/
def execEnterFullService (s : State) : Out :=
  .next (if s.sys.service = 1 ∧ allOf 16 s.sys.trained = true ∧ allOf 4 s.sys.bounds = true ∧ allOf 4 s.sys.memDies = true ∧ allOf 16 s.sys.ports = true
      ∧ allOf Config.coreCount s.sys.tested = true then
      { s with sys := { s.sys with service := 2, cc := 10 } }
    else s)

/-- R375: no stack has trained within 10 s of reset. -/
def execStackTrainingTimeout (s : State) : Out :=
  .next (if s.sys.service = 0 ∧ s.sys.trained = [] ∧ 10 * unitsSecond ≤ s.time then { s with sys := { s.sys with service := 3 } } else s)

/-! ### Attestation and trusted I/O (R377, R378) -/

/-- The answer of the SPDM responder: to code 1 the measurements, to others what the spec does not give (free). -/
def State.spdmAnswer (s : State) (code : Nat) : Nat :=
  if code = 1 then s.sys.measures.foldl (fun n m => 2 ^ 512 * n + m) 0 else s.freeNat (50 + code)

/-- R377: the responder runs on the MC once its image (2) is verified. Codes: 0 the certificate chain, 1 the measurements, 2 + f a key exchange for function
f, which gives it IDE keys and, after its reset, takes it out of ERROR (R378); PRESUMED, log 41. -/
def execSpdmRequest (code : Nat) (s : State) : Out :=
  .next (if smem s.sys.firmware 2 then
      let a := s.spdmAnswer code
      let y := s.sys
      let f := code - 2
      if 2 ≤ code ∧ f ≤ 4 then
        { s with
          sys := { y with
            answers := a :: y.answers
            ide := sadd y.ide f
            tdisp := if tget y.tdisp f 0 = 3 then tdel y.tdisp f else y.tdisp } }
      else { s with sys := { y with answers := a :: y.answers } }
    else s)

/-- R378: messages 0 lock, 1 start, 2 stop, the requests of TDISP (PRESUMED, log 41). -/
def execTdispRequest (function message : Nat) (s : State) : Out :=
  let st := tget s.sys.tdisp function 0
  let put := fun (v : Nat) => ({ s with sys := { s.sys with tdisp := if v = 0 then tdel s.sys.tdisp function else tset s.sys.tdisp function v } } : State)
  .next (if 4 < function ∨ st = 3 then s
    else match message with
      | 0 => if st = 0 then put 1 else s
      | 1 => if st = 1 then put 2 else s
      | 2 => put 0
      | _ => s)

/-! ### Transit tests and the clock (R361, R362, R380) -/

/-- R361: a core that has held no crew for 100 µs takes a granule of 200 µs. -/
def execTransitTestStart (core : Nat) (s : State) : Out :=
  let h := s.health core
  .next (if core < Config.coreCount ∧ (s.core core).held = false ∧ smem s.sys.firmware 3 = true ∧ h.freed + 100 * unitsUs ≤ s.time
      ∧ (match h.testing with | some t => decide (t ≤ s.time) | none => true) = true then
      s.setHealth core { h with testing := some (s.time + 200 * unitsUs) }
    else s)

/-- The leaves of a block that a test found failing: which they are is not said (free). -/
def State.failingLeaves (s : State) (block : Nat) : List Nat := ((List.range 64).filter (fun i => (s.freeNat 38).testBit i)).map (fun i => 64 * block + i)

/-- The number of units of a kind in a core (Table 13.7). -/
def unitCount (core kind : Nat) : Nat :=
  match kind with
  | 1 | 5 => activeLeaves core / 64
  | 2 => 8
  | 3 => 1
  | 4 => 64
  | _ => 0

/-- The units of a core, as 4096 * kind + index. -/
def unitsOf (core : Nat) : NatSet := [1, 2, 3, 4, 5].flatMap (fun k => (List.range (unitCount core k)).map (4096 * k + ·))

/-- A pass or a failure counted towards the tests of all of a core's units (R364, Table 14.4). -/
def State.notePass (s : State) (core u : Nat) (pass : Bool) : State :=
  let had := if smem s.sys.tested core then unitsOf core else (s.health core).passed
  let got := if pass then sadd had u else sdel had u
  let all := (unitsOf core).all (smem got)
  let s1 := s.setHealth core { s.health core with passed := if all then [] else got }
  { s1 with
    sys := { s1.sys with
      tested := if all then sadd s1.sys.tested core else sdel s1.sys.tested core
      untested := if all then sdel s1.sys.untested core else s1.sys.untested } }

/-- A unit's result in a core's record (Table 13.7): a leaf block's failing leaves go to pending, another unit that fails puts the core out of service until it
passes after a reset of its die; a leaf block that passes frees its spare (R359). -/
def State.noteResult (s : State) (core unit index : Nat) (pass : Bool) : State :=
  let h := s.health core
  let u := 4096 * unit + index
  s.setHealth core
    (if pass then
      (let freed := if unit = 1 then h.spared.filter (fun x => x.1 / 64 != index) else h.spared
       if unit = 1 ∨ smem h.cleared u = true then { h with failing := sdel h.failing u, cleared := sdel h.cleared u, spared := freed }
       else { h with spared := freed })
    else
      (let pend := if unit = 1 then (s.failingLeaves index).foldl sadd h.pending else h.pending
       { h with failing := sadd h.failing u, cleared := sdel h.cleared u, pending := pend }))

/-- R362: a result of a granule that has ended, reported as a record of kind 0x0006; the pattern is firmware's (free). -/
def execTransitTestResult (core unit index : Nat) (pass : Bool) (s : State) : Out :=
  .next (match (s.health core).testing with
    | some t =>
      if t ≤ s.time ∧ (s.core core).held = false ∧ index < unitCount core unit then
        (((s.noteResult core unit index pass).notePass core (4096 * unit + index) pass).rasLog 0x0006 core 0
          ⟨index, s.freeNat 39 % 2 ^ 32, unit, b2n (!pass)⟩).serveDie (dieOf core)
      else s
    | none => s)

/-- R380: the governor lowers the core clock to one cc in `level` units of 1/13 ns. -/
def execThermalClockLower (level : Nat) (s : State) : Out :=
  .next (if s.sys.cc < level then { s with sys := { s.sys with cc := level } } else s)

end Sys2Proof.Machine
end

