-- ==== Sys2Proof/Machine/Dispatch.lean ====
section
/-!
DEFINITION. One arm per constructor of Instr: one direct call of the instruction's meaning.
-/
namespace Sys2Proof.Machine
open Sys2Proof

def exec (i : Instr) (s : State) : Host.Outcome State Fault Refusal :=
  match i with
  | .add d a b g => Sys2Proof.Machine.execAdd d a b g s
  | .sub d a b g => Sys2Proof.Machine.execSub d a b g s
  | .mul d a b g => Sys2Proof.Machine.execMul d a b g s
  | .mulh d a b g => Sys2Proof.Machine.execMulh d a b g s
  | .mulhn d a b g => Sys2Proof.Machine.execMulhn d a b g s
  | .div d a b g => Sys2Proof.Machine.execDiv d a b g s
  | .divn d a b g => Sys2Proof.Machine.execDivn d a b g s
  | .rem d a b g => Sys2Proof.Machine.execRem d a b g s
  | .remn d a b g => Sys2Proof.Machine.execRemn d a b g s
  | .and d a b g => Sys2Proof.Machine.execAnd d a b g s
  | .or d a b g => Sys2Proof.Machine.execOr d a b g s
  | .xor d a b g => Sys2Proof.Machine.execXor d a b g s
  | .andn d a b g => Sys2Proof.Machine.execAndn d a b g s
  | .shl d a b g => Sys2Proof.Machine.execShl d a b g s
  | .shr d a b g => Sys2Proof.Machine.execShr d a b g s
  | .sra d a b g => Sys2Proof.Machine.execSra d a b g s
  | .rot d a b g => Sys2Proof.Machine.execRot d a b g s
  | .min d a b g => Sys2Proof.Machine.execMin d a b g s
  | .max d a b g => Sys2Proof.Machine.execMax d a b g s
  | .minn d a b g => Sys2Proof.Machine.execMinn d a b g s
  | .maxn d a b g => Sys2Proof.Machine.execMaxn d a b g s
  | .addw d a b g => Sys2Proof.Machine.execAddw d a b g s
  | .subw d a b g => Sys2Proof.Machine.execSubw d a b g s
  | .mulw d a b g => Sys2Proof.Machine.execMulw d a b g s
  | .clz d a g => Sys2Proof.Machine.execClz d a g s
  | .ctz d a g => Sys2Proof.Machine.execCtz d a g s
  | .popc d a g => Sys2Proof.Machine.execPopc d a g s
  | .sextB d a g => Sys2Proof.Machine.execSextB d a g s
  | .sextH d a g => Sys2Proof.Machine.execSextH d a g s
  | .sextW d a g => Sys2Proof.Machine.execSextW d a g s
  | .zextB d a g => Sys2Proof.Machine.execZextB d a g s
  | .zextH d a g => Sys2Proof.Machine.execZextH d a g s
  | .zextW d a g => Sys2Proof.Machine.execZextW d a g s
  | .rev d a g => Sys2Proof.Machine.execRev d a g s
  | .mov d a g => Sys2Proof.Machine.execMov d a g s
  | .cmpEq p a b g => Sys2Proof.Machine.execCmpEq p a b g s
  | .cmpNe p a b g => Sys2Proof.Machine.execCmpNe p a b g s
  | .cmpLt p a b g => Sys2Proof.Machine.execCmpLt p a b g s
  | .cmpLtn p a b g => Sys2Proof.Machine.execCmpLtn p a b g s
  | .cmpLe p a b g => Sys2Proof.Machine.execCmpLe p a b g s
  | .cmpLen p a b g => Sys2Proof.Machine.execCmpLen p a b g s
  | .cmpBit p a b g => Sys2Proof.Machine.execCmpBit p a b g s
  | .pand p q r g => Sys2Proof.Machine.execPand p q r g s
  | .por p q r g => Sys2Proof.Machine.execPor p q r g s
  | .pxor p q r g => Sys2Proof.Machine.execPxor p q r g s
  | .pandn p q r g => Sys2Proof.Machine.execPandn p q r g s
  | .pnot p q g => Sys2Proof.Machine.execPnot p q g s
  | .pmovX p a g => Sys2Proof.Machine.execPmovX p a g s
  | .movpX d q g => Sys2Proof.Machine.execMovpX d q g s
  | .addi d a i1 g => Sys2Proof.Machine.execAddi d a i1 g s
  | .andi d a i1 g => Sys2Proof.Machine.execAndi d a i1 g s
  | .ori d a i1 g => Sys2Proof.Machine.execOri d a i1 g s
  | .xori d a i1 g => Sys2Proof.Machine.execXori d a i1 g s
  | .shli d a n g => Sys2Proof.Machine.execShli d a n g s
  | .shri d a n g => Sys2Proof.Machine.execShri d a n g s
  | .srai d a n g => Sys2Proof.Machine.execSrai d a n g s
  | .roti d a n g => Sys2Proof.Machine.execRoti d a n g s
  | .cmpiEq p a i1 g => Sys2Proof.Machine.execCmpiEq p a i1 g s
  | .cmpiLt p a i1 g => Sys2Proof.Machine.execCmpiLt p a i1 g s
  | .cmpiLtn p a i1 g => Sys2Proof.Machine.execCmpiLtn p a i1 g s
  | .li d i1 g => Sys2Proof.Machine.execLi d i1 g s
  | .liL d hi w2 g => Sys2Proof.Machine.execLiL d hi w2 g s
  | .lihL d w2 g => Sys2Proof.Machine.execLihL d w2 g s
  | .addiL d a w2 g => Sys2Proof.Machine.execAddiL d a w2 g s
  | .lea d a b n g => Sys2Proof.Machine.execLea d a b n g s
  | .sel d a b p g => Sys2Proof.Machine.execSel d a b p g s
  | .ldSp d a z o g => Sys2Proof.Machine.execLdSp d a z o g s
  | .stSp s1 a z o g => Sys2Proof.Machine.execStSp s1 a z o g s
  | .ldGl d a z o g => Sys2Proof.Machine.execLdGl d a z o g s
  | .stGl s1 a z o g => Sys2Proof.Machine.execStGl s1 a z o g s
  | .ldAcq d a z c g => Sys2Proof.Machine.execLdAcq d a z c g s
  | .stRel s1 a z c g => Sys2Proof.Machine.execStRel s1 a z c g s
  | .pf a c g => Sys2Proof.Machine.execPf a c g s
  | .clWb a c g => Sys2Proof.Machine.execClWb a c g s
  | .clInv a c g => Sys2Proof.Machine.execClInv a c g s
  | .clWbinv a c g => Sys2Proof.Machine.execClWbinv a c g s
  | .ldGlL d a z w2 g => Sys2Proof.Machine.execLdGlL d a z w2 g s
  | .stGlL s1 a z w2 g => Sys2Proof.Machine.execStGlL s1 a z w2 g s
  | .amoAdd d a b c r wide g => Sys2Proof.Machine.execAmoAdd d a b c r wide g s
  | .amoAnd d a b c r wide g => Sys2Proof.Machine.execAmoAnd d a b c r wide g s
  | .amoOr d a b c r wide g => Sys2Proof.Machine.execAmoOr d a b c r wide g s
  | .amoXor d a b c r wide g => Sys2Proof.Machine.execAmoXor d a b c r wide g s
  | .amoMin d a b c r wide g => Sys2Proof.Machine.execAmoMin d a b c r wide g s
  | .amoMax d a b c r wide g => Sys2Proof.Machine.execAmoMax d a b c r wide g s
  | .amoMinn d a b c r wide g => Sys2Proof.Machine.execAmoMinn d a b c r wide g s
  | .amoMaxn d a b c r wide g => Sys2Proof.Machine.execAmoMaxn d a b c r wide g s
  | .amoSwap d a b c r wide g => Sys2Proof.Machine.execAmoSwap d a b c r wide g s
  | .amoCas d a b c r wide g => Sys2Proof.Machine.execAmoCas d a b c r wide g s
  | .amoFaddF32 d a b c r g => Sys2Proof.Machine.execAmoFaddF32 d a b c r g s
  | .amoFaddBf16x2 d a b c r g => Sys2Proof.Machine.execAmoFaddBf16x2 d a b c r g s
  | .br p n o => Sys2Proof.Machine.execBr p n o s
  | .jal d o => Sys2Proof.Machine.execJal d o s
  | .jalr d a g => Sys2Proof.Machine.execJalr d a g s
  | .loop d l g => Sys2Proof.Machine.execLoop d l g s
  | .loopBrk g => Sys2Proof.Machine.execLoopBrk g s
  | .csrr d c g => Sys2Proof.Machine.execCsrr d c g s
  | .csrw s1 c g => Sys2Proof.Machine.execCsrw s1 c g s
  | .csrs s1 c g => Sys2Proof.Machine.execCsrs s1 c g s
  | .csrc s1 c g => Sys2Proof.Machine.execCsrc s1 c g s
  | .nop g => Sys2Proof.Machine.execNop g s
  | .trap a g => Sys2Proof.Machine.execTrap a g s
  | .eret g => Sys2Proof.Machine.execEret g s
  | .brk g => Sys2Proof.Machine.execBrk g s
  | .yield g => Sys2Proof.Machine.execYield g s
  | .halt g => Sys2Proof.Machine.execHalt g s
  | .ctxSave a g => Sys2Proof.Machine.execCtxSave a g s
  | .ctxRest a g => Sys2Proof.Machine.execCtxRest a g s
  | .xltFlush a g => Sys2Proof.Machine.execXltFlush a g s
  | .fence c g => Sys2Proof.Machine.execFence c g s
  | .fenceAcq c g => Sys2Proof.Machine.execFenceAcq c g s
  | .fenceRel c g => Sys2Proof.Machine.execFenceRel c g s
  | .fenceSm c g => Sys2Proof.Machine.execFenceSm c g s
  | .wait f i1 g => Sys2Proof.Machine.execWait f i1 g s
  | .waitDec f i1 g => Sys2Proof.Machine.execWaitDec f i1 g s
  | .sig f i1 g => Sys2Proof.Machine.execSig f i1 g s
  | .sigSet f i1 g => Sys2Proof.Machine.execSigSet f i1 g s
  | .waitaEq d a b g => Sys2Proof.Machine.execWaitaEq d a b g s
  | .waitaNe d a b g => Sys2Proof.Machine.execWaitaNe d a b g s
  | .waitaGe d a b g => Sys2Proof.Machine.execWaitaGe d a b g s
  | .waitaLt d a b g => Sys2Proof.Machine.execWaitaLt d a b g s
  | .waitaGen d a b g => Sys2Proof.Machine.execWaitaGen d a b g s
  | .waitaReread core strand => Sys2Proof.Machine.execWaitaReread core strand s
  | .bar i1 l g => Sys2Proof.Machine.execBar i1 l g s
  | .syncStep l g => Sys2Proof.Machine.execSyncStep l g s
  | .barrierGenerationEnd core strand => Sys2Proof.Machine.execBarrierGenerationEnd core strand s
  | .smAff a b f g => Sys2Proof.Machine.execSmAff a b f g s
  | .smAfw a b f g => Sys2Proof.Machine.execSmAfw a b f g s
  | .smInd a b f g => Sys2Proof.Machine.execSmInd a b f g s
  | .smSct a b f g => Sys2Proof.Machine.execSmSct a b f g s
  | .smUpd a b f g => Sys2Proof.Machine.execSmUpd a b f g s
  | .smIsx a b f g => Sys2Proof.Machine.execSmIsx a b f g s
  | .smBar a f g => Sys2Proof.Machine.execSmBar a f g s
  | .smKill a f g => Sys2Proof.Machine.execSmKill a f g s
  | .smLink a b f g => Sys2Proof.Machine.execSmLink a b f g s
  | .smRep a b f g => Sys2Proof.Machine.execSmRep a b f g s
  | .smSteer a b f g => Sys2Proof.Machine.execSmSteer a b f g s
  | .smMerge a b f g => Sys2Proof.Machine.execSmMerge a b f g s
  | .smDem a b f g => Sys2Proof.Machine.execSmDem a b f g s
  | .smStop a b f g => Sys2Proof.Machine.execSmStop a b f g s
  | .smSpill a b f g => Sys2Proof.Machine.execSmSpill a b f g s
  | .smTok a b f g => Sys2Proof.Machine.execSmTok a b f g s
  | .smDrain a b f g => Sys2Proof.Machine.execSmDrain a b f g s
  | .wave a b f g => Sys2Proof.Machine.execWave a b f g s
  | .waveSmEntry core => Sys2Proof.Machine.execWaveSmEntry core s
  | .terminatorPassage core engine => Sys2Proof.Machine.execTerminatorPassage core engine s
  | .waveComplete core => Sys2Proof.Machine.execWaveComplete core s
  | .arCarve a b f g => Sys2Proof.Machine.execArCarve a b f g s
  | .arHold a b f g => Sys2Proof.Machine.execArHold a b f g s
  | .arFeed a b f g => Sys2Proof.Machine.execArFeed a b f g s
  | .arStep a f g => Sys2Proof.Machine.execArStep a f g s
  | .mxRun a f g => Sys2Proof.Machine.execMxRun a f g s
  | .arDrain a f g => Sys2Proof.Machine.execArDrain a f g s
  | .arZero a b f g => Sys2Proof.Machine.execArZero a b f g s
  | .arChk a b f g => Sys2Proof.Machine.execArChk a b f g s
  | .arCoop a f g => Sys2Proof.Machine.execArCoop a f g s
  | .arMmap a b f g => Sys2Proof.Machine.execArMmap a b f g s
  | .leafFire core cell err => Sys2Proof.Machine.execLeafFire core cell err s
  | .spanAccumulate core cell err => Sys2Proof.Machine.execSpanAccumulate core cell err s
  | .coopCombine core => Sys2Proof.Machine.execCoopCombine core s
  | .drainToken core port => Sys2Proof.Machine.execDrainToken core port s
  | .arrayCommandComplete core queue => Sys2Proof.Machine.execArrayCommandComplete core queue s
  | .vePlane a b f g => Sys2Proof.Machine.execVePlane a b f g s
  | .veSwap a b f g => Sys2Proof.Machine.execVeSwap a b f g s
  | .veBind a b f g => Sys2Proof.Machine.execVeBind a b f g s
  | .veStart a f g => Sys2Proof.Machine.execVeStart a f g s
  | .veStop a f g => Sys2Proof.Machine.execVeStop a f g s
  | .veRd a b f g => Sys2Proof.Machine.execVeRd a b f g s
  | .veWr a b f g => Sys2Proof.Machine.execVeWr a b f g s
  | .veKonst a b f g => Sys2Proof.Machine.execVeKonst a b f g s
  | .elementStopComplete core element => Sys2Proof.Machine.execElementStopComplete core element s
  | .vadd t => Sys2Proof.Machine.execVadd t s
  | .vsub t => Sys2Proof.Machine.execVsub t s
  | .vmul t => Sys2Proof.Machine.execVmul t s
  | .vmulh t => Sys2Proof.Machine.execVmulh t s
  | .vmin t => Sys2Proof.Machine.execVmin t s
  | .vmax t => Sys2Proof.Machine.execVmax t s
  | .vand t => Sys2Proof.Machine.execVand t s
  | .vor t => Sys2Proof.Machine.execVor t s
  | .vxor t => Sys2Proof.Machine.execVxor t s
  | .vshl t => Sys2Proof.Machine.execVshl t s
  | .vshr t => Sys2Proof.Machine.execVshr t s
  | .vsra t => Sys2Proof.Machine.execVsra t s
  | .vclz t => Sys2Proof.Machine.execVclz t s
  | .vpopc t => Sys2Proof.Machine.execVpopc t s
  | .vabs t => Sys2Proof.Machine.execVabs t s
  | .vsad t => Sys2Proof.Machine.execVsad t s
  | .fadd t => Sys2Proof.Machine.execFadd t s
  | .fsub t => Sys2Proof.Machine.execFsub t s
  | .fmul t => Sys2Proof.Machine.execFmul t s
  | .ffma t => Sys2Proof.Machine.execFfma t s
  | .fmin t => Sys2Proof.Machine.execFmin t s
  | .fmax t => Sys2Proof.Machine.execFmax t s
  | .fabs t => Sys2Proof.Machine.execFabs t s
  | .fneg t => Sys2Proof.Machine.execFneg t s
  | .fcmp t => Sys2Proof.Machine.execFcmp t s
  | .fclass t => Sys2Proof.Machine.execFclass t s
  | .vcmp t => Sys2Proof.Machine.execVcmp t s
  | .vsel t => Sys2Proof.Machine.execVsel t s
  | .vmov t => Sys2Proof.Machine.execVmov t s
  | .cvt t => Sys2Proof.Machine.execCvt t s
  | .mxq t => Sys2Proof.Machine.execMxq t s
  | .mxs t => Sys2Proof.Machine.execMxs t s
  | .round t => Sys2Proof.Machine.execRound t s
  | .cvti t => Sys2Proof.Machine.execCvti t s
  | .exp2 t => Sys2Proof.Machine.execExp2 t s
  | .log2 t => Sys2Proof.Machine.execLog2 t s
  | .rcp t => Sys2Proof.Machine.execRcp t s
  | .rsqrt t => Sys2Proof.Machine.execRsqrt t s
  | .sin t => Sys2Proof.Machine.execSin t s
  | .cos t => Sys2Proof.Machine.execCos t s
  | .tanh t => Sys2Proof.Machine.execTanh t s
  | .sqrt t => Sys2Proof.Machine.execSqrt t s
  | .perm t => Sys2Proof.Machine.execPerm t s
  | .bcast t => Sys2Proof.Machine.execBcast t s
  | .pfx t => Sys2Proof.Machine.execPfx t s
  | .lred t => Sys2Proof.Machine.execLred t s
  | .clmul t => Sys2Proof.Machine.execClmul t s
  | .pack t => Sys2Proof.Machine.execPack t s
  | .unpack t => Sys2Proof.Machine.execUnpack t s
  | .pset t => Sys2Proof.Machine.execPset t s
  | .enq t => Sys2Proof.Machine.execEnq t s
  | .stop t => Sys2Proof.Machine.execStop t s
  | .deq t => Sys2Proof.Machine.execDeq t s
  | .poi t => Sys2Proof.Machine.execPoi t s
  | .trigSig t => Sys2Proof.Machine.execTrigSig t s
  | .rnd t => Sys2Proof.Machine.execRnd t s
  | .trigNop t => Sys2Proof.Machine.execTrigNop t s
  | .nxPut a f g => Sys2Proof.Machine.execNxPut a f g s
  | .nxGet a f g => Sys2Proof.Machine.execNxGet a f g s
  | .nxXget a b f g => Sys2Proof.Machine.execNxXget a b f g s
  | .nxSend a f g => Sys2Proof.Machine.execNxSend a f g s
  | .nxRoute a f g => Sys2Proof.Machine.execNxRoute a f g s
  | .nxRing a f g => Sys2Proof.Machine.execNxRing a f g s
  | .nxChan a f g => Sys2Proof.Machine.execNxChan a f g s
  | .collGrp a f g => Sys2Proof.Machine.execCollGrp a f g s
  | .collRed a f g => Sys2Proof.Machine.execCollRed a f g s
  | .collBc a f g => Sys2Proof.Machine.execCollBc a f g s
  | .collFlt a f g => Sys2Proof.Machine.execCollFlt a f g s
  | .collAr a f g => Sys2Proof.Machine.execCollAr a f g s
  | .handRel a f g => Sys2Proof.Machine.execHandRel a f g s
  | .handAcq a f g => Sys2Proof.Machine.execHandAcq a f g s
  | .handQuery a f g => Sys2Proof.Machine.execHandQuery a f g s
  | .handoverPush page => Sys2Proof.Machine.execHandoverPush page s
  | .nxCommandComplete core entry => Sys2Proof.Machine.execNxCommandComplete core entry s
  | .ringAdmission core entry => Sys2Proof.Machine.execRingAdmission core entry s
  | .routeResolve core entry => Sys2Proof.Machine.execRouteResolve core entry s
  | .elasticPair core endpoint => Sys2Proof.Machine.execElasticPair core endpoint s
  | .elasticTokenCross core endpoint => Sys2Proof.Machine.execElasticTokenCross core endpoint s
  | .collChunk core entry => Sys2Proof.Machine.execCollChunk core entry s
  | .memberLoss group device => Sys2Proof.Machine.execMemberLoss group device s
  | .groupJoinComplete group => Sys2Proof.Machine.execGroupJoinComplete group s
  | .affineReadToken core slot => Sys2Proof.Machine.execAffineReadToken core slot s
  | .affineWriteToken core slot => Sys2Proof.Machine.execAffineWriteToken core slot s
  | .gatherIndex core slot => Sys2Proof.Machine.execGatherIndex core slot s
  | .scatterPair core slot => Sys2Proof.Machine.execScatterPair core slot s
  | .updatePair core slot => Sys2Proof.Machine.execUpdatePair core slot s
  | .streamComplete core slot => Sys2Proof.Machine.execStreamComplete core slot s
  | .suuUpdateApply stack => Sys2Proof.Machine.execSuuUpdateApply stack s
  | .suuLineRelease stack line => Sys2Proof.Machine.execSuuLineRelease stack line s
  | .puuUpdateApply core => Sys2Proof.Machine.execPuuUpdateApply core s
  | .hashApply core slot => Sys2Proof.Machine.execHashApply core slot s
  | .iseRequest stack => Sys2Proof.Machine.execIseRequest stack s
  | .iseTokenDeliver core slot => Sys2Proof.Machine.execIseTokenDeliver core slot s
  | .linkMove core node => Sys2Proof.Machine.execLinkMove core node s
  | .repeatRound core node => Sys2Proof.Machine.execRepeatRound core node s
  | .steerSegment core node => Sys2Proof.Machine.execSteerSegment core node s
  | .mergeSegment core node => Sys2Proof.Machine.execMergeSegment core node s
  | .joinAlign core node => Sys2Proof.Machine.execJoinAlign core node s
  | .demandCredit core gate => Sys2Proof.Machine.execDemandCredit core gate s
  | .spillWrite core channel => Sys2Proof.Machine.execSpillWrite core channel s
  | .spillRefill core channel => Sys2Proof.Machine.execSpillRefill core channel s
  | .instructionFetch core strand => Sys2Proof.Machine.execInstructionFetch core strand s
  | .withheldAccessProceed core strand => Sys2Proof.Machine.execWithheldAccessProceed core strand s
  | .windowRegister core entry => Sys2Proof.Machine.execWindowRegister core entry s
  | .windowUnregister core entry => Sys2Proof.Machine.execWindowUnregister core entry s
  | .csrSpillWrite core strand value => Sys2Proof.Machine.execCsrSpillWrite core strand value s
  | .ectlWrite core strand element value => Sys2Proof.Machine.execEctlWrite core strand element value s
  | .statusWrite core strand value => Sys2Proof.Machine.execStatusWrite core strand value s
  | .registerWrite core strand number value => Sys2Proof.Machine.execRegisterWrite core strand number value s
  | .notifyWrite queue => Sys2Proof.Machine.execNotifyWrite queue s
  | .aqenWrite value => Sys2Proof.Machine.execAqenWrite value s
  | .devidWrite value => Sys2Proof.Machine.execDevidWrite value s
  | .asyncTrapTake core strand => Sys2Proof.Machine.execAsyncTrapTake core strand s
  | .endCrew core cause => Sys2Proof.Machine.execEndCrew core cause s
  | .watchdog core => Sys2Proof.Machine.execWatchdog core s
  | .drainToCheckpoint core strand => Sys2Proof.Machine.execDrainToCheckpoint core strand s
  | .checkpointPageRecheck gang => Sys2Proof.Machine.execCheckpointPageRecheck gang s
  | .crewSave core reason => Sys2Proof.Machine.execCrewSave core reason s
  | .snapshotFallback core => Sys2Proof.Machine.execSnapshotFallback core s
  | .crewResume gang cluster => Sys2Proof.Machine.execCrewResume gang cluster s
  | .preemptWaitExpiry gang cluster => Sys2Proof.Machine.execPreemptWaitExpiry gang cluster s
  | .swapOut core => Sys2Proof.Machine.execSwapOut core s
  | .crewRetire core => Sys2Proof.Machine.execCrewRetire core s
  | .queueScan queue => Sys2Proof.Machine.execQueueScan queue s
  | .priorityAging queue => Sys2Proof.Machine.execPriorityAging queue s
  | .dependencyRecheck queue => Sys2Proof.Machine.execDependencyRecheck queue s
  | .launch queue => Sys2Proof.Machine.execLaunch queue s
  | .barrierAnd queue => Sys2Proof.Machine.execBarrierAnd queue s
  | .signalRecord queue => Sys2Proof.Machine.execSignalRecord queue s
  | .createQueue queue => Sys2Proof.Machine.execCreateQueue queue s
  | .destroyQueue queue => Sys2Proof.Machine.execDestroyQueue queue s
  | .shootdown queue => Sys2Proof.Machine.execShootdown queue s
  | .migrate queue => Sys2Proof.Machine.execMigrate queue s
  | .handoverRecord queue => Sys2Proof.Machine.execHandoverRecord queue s
  | .clearRoute queue => Sys2Proof.Machine.execClearRoute queue s
  | .contextRoot queue => Sys2Proof.Machine.execContextRoot queue s
  | .gangPlace launch cluster => Sys2Proof.Machine.execGangPlace launch cluster s
  | .stealRequest die => Sys2Proof.Machine.execStealRequest die s
  | .stealGrant launch victim thief => Sys2Proof.Machine.execStealGrant launch victim thief s
  | .launchComplete launch => Sys2Proof.Machine.execLaunchComplete launch s
  | .packetReceive source seq payload => Sys2Proof.Machine.execPacketReceive source seq payload s
  | .ackReceive dest seq => Sys2Proof.Machine.execAckReceive dest seq s
  | .ackTimeout dest => Sys2Proof.Machine.execAckTimeout dest s
  | .linkDown link => Sys2Proof.Machine.execLinkDown link s
  | .hostLinkDown link => Sys2Proof.Machine.execHostLinkDown link s
  | .hostHdmAccess address store size => Sys2Proof.Machine.execHostHdmAccess address store size s
  | .dieReset function => Sys2Proof.Machine.execDieReset function s
  | .function0Reset => Sys2Proof.Machine.execFunction0Reset s
  | .controlPlaneRestart => Sys2Proof.Machine.execControlPlaneRestart s
  | .dataPlaneRestart => Sys2Proof.Machine.execDataPlaneRestart s
  | .managementPlaneRestart => Sys2Proof.Machine.execManagementPlaneRestart s
  | .firmwareVerify image good => Sys2Proof.Machine.execFirmwareVerify image good s
  | .hubBoundaryTrained die => Sys2Proof.Machine.execHubBoundaryTrained die s
  | .stackTrained stack => Sys2Proof.Machine.execStackTrained stack s
  | .enterTwilight => Sys2Proof.Machine.execEnterTwilight s
  | .enterFullService => Sys2Proof.Machine.execEnterFullService s
  | .stackTrainingTimeout => Sys2Proof.Machine.execStackTrainingTimeout s
  | .spdmRequest code => Sys2Proof.Machine.execSpdmRequest code s
  | .tdispRequest function message => Sys2Proof.Machine.execTdispRequest function message s
  | .transitTestStart core => Sys2Proof.Machine.execTransitTestStart core s
  | .transitTestResult core unit index pass => Sys2Proof.Machine.execTransitTestResult core unit index pass s
  | .thermalClockLower level => Sys2Proof.Machine.execThermalClockLower level s
  | .illegalInstruction word second => Sys2Proof.Machine.execIllegalInstruction word second s
  | .nuethPortTrained port => Sys2Proof.Machine.execNuethPortTrained port s
  | .hostLinkUp link => Sys2Proof.Machine.execHostLinkUp link s
  | .cxlCacheSnoop address store => Sys2Proof.Machine.execCxlCacheSnoop address store s
  | .lazyWriteback core entry line => Sys2Proof.Machine.execLazyWriteback core entry line s
  | .storeBufferDrain core strand => Sys2Proof.Machine.execStoreBufferDrain core strand s
  | .scalarAccessResponse core strand data poisoned => Sys2Proof.Machine.execScalarAccessResponse core strand data poisoned s

end Sys2Proof.Machine
end

