-- ==== Sys2Proof/Machine/Turns.lean ====
section
/-!
DEFINITION. Whose turn it is and what it comes to: the sequencer's pick of a strand (spec 10, R273, R274), the fetch and
decoding of its instruction, and the turns of the other agents (DESIGN CHOICE, log 1).
-/
namespace Sys2Proof.Machine
open Sys2Proof

/-! ### Readiness (R273, R274) -/

/-- Is a strand held at its next instruction by a condition that the instruction itself tests: a full queue, a full
store buffer, a semaphore below its threshold, a fence's waits (Table 10.1)? -/
def State.stalledBy (s : State) (core k : Nat) (i : Instr) : Bool :=
  let w := s.crew core
  let t := w.strand k
  let fullBuffer := decide (Config.bufferDepth ≤ t.buffer.length)
  match i with
  | .wait f n g => t.getP g && decide (w.sem f.toNat < n.toNat)
  | .waitDec f n g => t.getP g && decide (w.sem f.toNat < n.toNat)
  | .fence _ g => t.getP g && !t.buffer.isEmpty
  | .fenceSm _ g => t.getP g && (!(w.smIdle k) || !t.buffer.isEmpty)
  | .syncStep _ g => t.getP g && (!t.buffer.isEmpty || !(w.nxStepIdle k))
  | .stSp _ _ _ _ g => t.getP g && fullBuffer
  | .stGl _ _ _ _ g => t.getP g && fullBuffer
  | .stGlL _ _ _ _ g => t.getP g && fullBuffer
  | .stRel _ _ _ _ g => t.getP g && fullBuffer
  | .smAff _ _ _ g => t.getP g && decide (smDepth ≤ w.streams.queue.length)
  | .smAfw _ _ _ g => t.getP g && decide (smDepth ≤ w.streams.queue.length)
  | .smInd _ _ _ g => t.getP g && decide (smDepth ≤ w.streams.queue.length)
  | .smSct _ _ _ g => t.getP g && decide (smDepth ≤ w.streams.queue.length)
  | .smUpd _ _ _ g => t.getP g && decide (smDepth ≤ w.streams.queue.length)
  | .smIsx _ _ _ g => t.getP g && decide (smDepth ≤ w.streams.queue.length)
  | .smBar _ _ g => t.getP g && decide (smDepth ≤ w.streams.queue.length)
  | .smLink _ _ _ g => t.getP g && decide (smDepth ≤ w.streams.queue.length)
  | .smRep _ _ _ g => t.getP g && decide (smDepth ≤ w.streams.queue.length)
  | .smSteer _ _ _ g => t.getP g && decide (smDepth ≤ w.streams.queue.length)
  | .smMerge _ _ _ g => t.getP g && decide (smDepth ≤ w.streams.queue.length)
  | .smDem _ _ _ g => t.getP g && decide (smDepth ≤ w.streams.queue.length)
  | .smStop _ _ _ g => t.getP g && decide (smDepth ≤ w.streams.queue.length)
  | .smSpill _ _ _ g => t.getP g && decide (smDepth ≤ w.streams.queue.length)
  | .smTok _ _ _ g => t.getP g && decide (smDepth ≤ w.streams.queue.length)
  | .smDrain _ _ _ g => t.getP g && decide (smDepth ≤ w.streams.queue.length)
  | .wave a b _ g =>
    let x := (t.getX a).toNat
    t.getP g && (if x < 2 ^ 10 ∧ (t.getX b).toNat < 2 then !(w.waveRoom x) else decide (smDepth ≤ w.streams.queue.length))
  | .arCarve _ _ _ g => t.getP g && decide (acDepth ≤ w.array.cfgq.length)
  | .arMmap _ _ _ g => t.getP g && decide (acDepth ≤ w.array.cfgq.length)
  | .arCoop _ _ g => t.getP g && decide (acDepth ≤ w.array.cfgq.length)
  | .arHold _ _ _ g => t.getP g && decide (afDepth ≤ w.array.feedq.length)
  | .arFeed _ _ _ g => t.getP g && decide (afDepth ≤ w.array.feedq.length)
  | .arStep _ _ g => t.getP g && decide (afDepth ≤ w.array.feedq.length)
  | .mxRun _ _ g => t.getP g && decide (afDepth ≤ w.array.feedq.length)
  | .arZero _ _ _ g => t.getP g && decide (afDepth ≤ w.array.feedq.length)
  | .arDrain _ _ g => t.getP g && decide (adDepth ≤ w.array.drainq.length)
  | .arChk _ _ _ g => t.getP g && decide (adDepth ≤ w.array.drainq.length)
  | .vePlane _ _ _ g => t.getP g && decide (veDepth ≤ w.veq.length)
  | .veSwap _ _ _ g => t.getP g && decide (veDepth ≤ w.veq.length)
  | .veBind _ _ _ g => t.getP g && decide (veDepth ≤ w.veq.length)
  | .veStart _ _ g => t.getP g && decide (veDepth ≤ w.veq.length)
  | .veStop _ _ g => t.getP g && decide (veDepth ≤ w.veq.length)
  | .veRd _ _ _ g => t.getP g && decide (veDepth ≤ w.veq.length)
  | .veWr _ _ _ g => t.getP g && decide (veDepth ≤ w.veq.length)
  | .veKonst _ _ _ g => t.getP g && decide (veDepth ≤ w.veq.length)
  | .nxPut _ _ g => t.getP g && decide (nxDepth ≤ w.nxq.length)
  | .nxGet _ _ g => t.getP g && decide (nxDepth ≤ w.nxq.length)
  | .nxXget _ _ _ g => t.getP g && decide (nxDepth ≤ w.nxq.length)
  | .nxSend _ _ g => t.getP g && decide (nxDepth ≤ w.nxq.length)
  | .nxRoute _ _ g => t.getP g && decide (nxDepth ≤ w.nxq.length)
  | .nxRing _ _ g => t.getP g && decide (nxDepth ≤ w.nxq.length)
  | .nxChan _ _ g => t.getP g && decide (nxDepth ≤ w.nxq.length)
  | .collGrp _ _ g => t.getP g && decide (nxDepth ≤ w.nxq.length)
  | .collRed _ _ g => t.getP g && decide (nxDepth ≤ w.nxq.length)
  | .collBc _ _ g => t.getP g && decide (nxDepth ≤ w.nxq.length)
  | .collFlt _ _ g => t.getP g && decide (nxDepth ≤ w.nxq.length)
  | .collAr _ _ g => t.getP g && decide (nxDepth ≤ w.nxq.length)
  | .handRel _ _ g => t.getP g && decide (nxDepth ≤ w.nxq.length)
  | .handAcq _ _ g => t.getP g && decide (nxDepth ≤ w.nxq.length)
  | .handQuery _ _ g => t.getP g && decide (nxDepth ≤ w.nxq.length)
  | _ => false

/-- Is a strand ready (R273)? A pending asynchronous trap that it may take makes it so; a fetch miss holds it (R274). -/
def State.ready (s : State) (core k : Nat) : Bool :=
  let t := s.strandAt core k
  t.present && !t.halted &&
    (t.takesAsync || s.atMonitor core k ||
      (t.hold.lets && (match s.cachedWords core k with
        | some (w, v) => (match decode w v with
          | .ok i => !(s.stalledBy core k i)
          | .error _ => true)
        | none => false)))

/-- Does a strand wait for nothing but the fetch of its next instruction? -/
def State.misses (s : State) (core k : Nat) : Bool :=
  let t := s.strandAt core k
  t.present && !t.halted && t.hold.lets && (s.cachedWords core k).isNone

/-- Since when each strand of a core has been ready without issuing, brought up to date. -/
def State.noteReady (s : State) (core : Nat) : State :=
  (List.range 4).foldl (fun t k =>
    let u := t.strandAt core k
    if t.ready core k then
      (if u.readySince.isNone then t.setStrandAt core k { u with readySince := some (t.crew core).cycle } else t)
    else if u.readySince.isSome then t.setStrandAt core k { u with readySince := none } else t) s

/-- The overdue strand that has been ready longest, the lowest index among equals (R273 step 1): 60 cc are 1,200
twentieths (DESIGN CHOICE, log 2). -/
def State.overdue (s : State) (core : Nat) (cands : List Nat) : Option Nat :=
  let w := s.crew core
  cands.foldl (fun best k =>
    match (w.strand k).readySince with
    | some n =>
      if 1200 ≤ w.cycle - n then
        (match best with
         | some b => if n < ((w.strand b).readySince.getD 0) then some k else some b
         | none => some k)
      else best
    | none => best) none

/-- Round-robin among strands from the one after the last that issued (R273 step 2). -/
def roundRobin (last : Nat) (cands : List Nat) : Option Nat :=
  match cands.find? (fun k => decide (last < k)) with
  | some k => some k
  | none => cands.head?

/-- The strand the sequencer of a core picks (R273, R365). -/
def State.pick (s : State) (core : Nat) : Option Nat :=
  let w := s.crew core
  let all := (List.range 4).filter (fun k => s.ready core k)
  let cands := match w.yielded with
    | some y => if all.any (fun k => k != y) then all.filter (fun k => k != y) else all
    | none => all
  match s.overdue core cands with
  | some k => some k
  | none =>
    let low := cands.foldl (fun m k => Nat.min m (w.strand k).prio) 3
    let same := cands.filter (fun k => (w.strand k).prio == low)
    roundRobin (tget w.lastIssued low 3) same

/-! ### Plans -/

/-- What a turn comes to: an instruction for exec with the state it acts on, or a state reached without one. -/
inductive Plan where
  | run (i : Instr) (s : State)
  /-- a word, or the words of a long form, that is no instruction -/
  | bad (word : Half) (second : Option Half) (s : State)
  | done (s : State)

/-- The strand marked as having issued. -/
def State.issued (s : State) (core k : Nat) : State :=
  let w := s.crew core
  let t := w.strand k
  let w1 : Crew := { w with
    lastIssued := tset w.lastIssued t.prio k
    yielded := none
    issuedCc := some (w.cycle / 20)
    progress := s.time
    progressCycle := w.cycle }
  (s.setCrew core (w1.setStrand k { t with readySince := none })).at core k

/-- The turn of a strand picked: an asynchronous trap, the monitor, or its next instruction, which has not issued where its fetch is held. -/
def State.strandTurn (s : State) (core k : Nat) : Plan :=
  if (s.strandAt core k).takesAsync then .done ((s.issued core k).takeAsync core k)
  else if s.atMonitor core k then .done ((s.issued core k).monitorStep core k)
  else
    let f := s.fetch core k
    let u := f.2.issued core k
    match f.1 with
    | .words w v =>
      (match decode w v with
       | .ok i => .run i u
       | .error _ => .bad w (if isLong w then some v else none) u)
    | .trap c va => .done (u.takeTrapAt core k c (BitVec.ofNat 64 va) (u.strandAt core k).pc)
    | .wait va => .done ((f.2.at core k).holdFetch core k va)

/-- Do the strands of a core issue? A crew being saved issues until its quiesce is over (R348). -/
def State.issues (s : State) (core : Nat) : Bool :=
  (s.core core).held && (s.crew core).ending.isNone && !(s.crew core).stopped

/-- Has the sequencer of a core issued in the present cc? -/
def Crew.issuedNow (w : Crew) : Bool := w.issuedCc == some (w.cycle / 20)

/-- The sequencer's turn (R273): one instruction of the strand it picks, and at most one in a cc. With no strand ready, a fetch miss is served. -/
def State.sequencerTurn (s : State) (core : Nat) : Plan :=
  if s.issues core && !(s.crew core).issuedNow then
    let s1 := s.noteReady core
    match s1.pick core with
    | some k => s1.strandTurn core k
    | none =>
      let s2 := s1.modCrew core (fun w => { w with yielded := none })
      match (List.range 4).find? (fun k => s2.misses core k) with
      | some k => .done ((s2.at core k).settleFetch core k)
      | none => .done s2
  else .done s

/-! ### Events -/

/-- Is the instruction a step of an agent other than a sequencer, as the schedule may name it? The steps inside a CSR write
and the trap of a word that is no instruction happen only within a sequencer's instruction. -/
def Instr.isEvent (i : Instr) : Bool :=
  match i with
  | .waitaReread _ _ => true
  | .barrierGenerationEnd _ _ => true
  | .waveSmEntry _ => true
  | .terminatorPassage _ _ => true
  | .waveComplete _ => true
  | .leafFire _ _ _ => true
  | .spanAccumulate _ _ _ => true
  | .coopCombine _ => true
  | .drainToken _ _ => true
  | .arrayCommandComplete _ _ => true
  | .elementStopComplete _ _ => true
  | .handoverPush _ => true
  | .nxCommandComplete _ _ => true
  | .ringAdmission _ _ => true
  | .routeResolve _ _ => true
  | .elasticPair _ _ => true
  | .elasticTokenCross _ _ => true
  | .collChunk _ _ => true
  | .memberLoss _ _ => true
  | .groupJoinComplete _ => true
  | .affineReadToken _ _ => true
  | .affineWriteToken _ _ => true
  | .gatherIndex _ _ => true
  | .scatterPair _ _ => true
  | .updatePair _ _ => true
  | .streamComplete _ _ => true
  | .suuUpdateApply _ => true
  | .suuLineRelease _ _ => true
  | .puuUpdateApply _ => true
  | .hashApply _ _ => true
  | .iseRequest _ => true
  | .iseTokenDeliver _ _ => true
  | .linkMove _ _ => true
  | .repeatRound _ _ => true
  | .steerSegment _ _ => true
  | .mergeSegment _ _ => true
  | .joinAlign _ _ => true
  | .demandCredit _ _ => true
  | .spillWrite _ _ => true
  | .spillRefill _ _ => true
  | .instructionFetch _ _ => true
  | .withheldAccessProceed _ _ => true
  | .windowRegister _ _ => true
  | .windowUnregister _ _ => true
  | .notifyWrite _ => true
  | .aqenWrite _ => true
  | .devidWrite _ => true
  | .asyncTrapTake _ _ => true
  | .endCrew _ _ => true
  | .watchdog _ => true
  | .drainToCheckpoint _ _ => true
  | .checkpointPageRecheck _ => true
  | .crewSave _ _ => true
  | .snapshotFallback _ => true
  | .crewResume _ _ => true
  | .preemptWaitExpiry _ _ => true
  | .swapOut _ => true
  | .crewRetire _ => true
  | .queueScan _ => true
  | .priorityAging _ => true
  | .dependencyRecheck _ => true
  | .launch _ => true
  | .barrierAnd _ => true
  | .signalRecord _ => true
  | .createQueue _ => true
  | .destroyQueue _ => true
  | .shootdown _ => true
  | .migrate _ => true
  | .handoverRecord _ => true
  | .clearRoute _ => true
  | .contextRoot _ => true
  | .gangPlace _ _ => true
  | .stealRequest _ => true
  | .stealGrant _ _ _ => true
  | .launchComplete _ => true
  | .packetReceive _ _ _ => true
  | .ackReceive _ _ => true
  | .ackTimeout _ => true
  | .linkDown _ => true
  | .hostLinkDown _ => true
  | .hostHdmAccess _ _ _ => true
  | .dieReset _ => true
  | .function0Reset => true
  | .controlPlaneRestart => true
  | .dataPlaneRestart => true
  | .managementPlaneRestart => true
  | .firmwareVerify _ _ => true
  | .hubBoundaryTrained _ => true
  | .stackTrained _ => true
  | .enterTwilight => true
  | .enterFullService => true
  | .stackTrainingTimeout => true
  | .spdmRequest _ => true
  | .tdispRequest _ _ => true
  | .transitTestStart _ => true
  | .transitTestResult _ _ _ _ => true
  | .thermalClockLower _ => true
  | .nuethPortTrained _ => true
  | .hostLinkUp _ => true
  | .cxlCacheSnoop _ _ => true
  | .lazyWriteback _ _ _ => true
  | .storeBufferDrain _ _ => true
  | .scalarAccessResponse _ _ _ _ => true
  | .registerWrite _ _ n _ => decide (65536 ≤ n)
  | _ => false

/-! ### A turn begun and ended -/

/-- What of a twentieth of a cc has passed, at a cc of a length: the same share of one where the clock has changed since (R4). -/
def Crew.partAt (w : Crew) (cc : Nat) : Nat := if w.cycleAt = cc then w.cyclePart else w.cyclePart * cc / w.cycleAt

/-- A crew's clock run on by a time at a cc of a length: whole twentieths of a cc counted, the rest kept (R4; DESIGN CHOICE, log 2). -/
def Crew.tick (w : Crew) (dt cc : Nat) : Crew :=
  let n := w.partAt cc + dt * 20
  { w with cycle := w.cycle + n / cc, cyclePart := n % cc, cycleAt := cc }

/-- Time passed: the clock, and the cycle counts of the crews on cores. -/
def State.elapse (s : State) (dt : Nat) : State :=
  { s with
    time := s.time + dt
    moment := s.moment + 1
    cores := s.cores.map (fun k =>
      (k.1, if k.2.held then { k.2 with crew := k.2.crew.tick dt s.sys.cc } else k.2)) }

/-- The next turn of the schedule; where none is listed, the sequencer of the core of the last turn, one cc later. -/
def State.turn (s : State) : Turn :=
  match s.sched with
  | t :: _ => t
  | [] => ⟨.sequencer s.cur.core, s.sys.cc, 0⟩

/-- The state at the start of a turn. -/
def State.beginTurn (s : State) : State :=
  let t := s.turn
  let s1 := ({ s with sched := s.sched.tail } : State).elapse t.dt
  { s1 with cur := { s1.cur with err := t.err } }

/-- Has an engine of a crew moved a token or completed a command (R346)? -/
def Crew.moved (old new : Crew) : Bool :=
  old.chans != new.chans || old.sems != new.sems || old.streams.open_ != new.streams.open_
    || old.streams.queue != new.streams.queue || old.nxq.length != new.nxq.length || old.nx.length != new.nx.length
    || old.veq.length != new.veq.length || old.array.cfgq.length != new.array.cfgq.length
    || old.array.feedq.length != new.array.feedq.length || old.array.feeding.length != new.array.feeding.length
    || old.array.drainq.length != new.array.drainq.length

/-- The crews whose engines moved in a turn, or that R346 excuses, marked as having made progress. -/
def State.noteProgress (old new : State) : State :=
  { new with cores := new.cores.map (fun k =>
      (k.1, if k.2.held && ((old.crew k.1).moved k.2.crew || (old.crew k.1).excused) then
        { k.2 with crew := ({ k.2.crew with progress := new.time, progressCycle := k.2.crew.cycle } : Crew).noteWaits new.time }
        else { k.2 with crew := k.2.crew.noteWaits new.time })) }

/-! ### The turns of the other agents -/

/-- The turn of a vector element: its lowest ready slot fires (R206, R207); none once a save's snapshot is over (R222, R348). -/
def State.elementTurn (s : State) (core e : Nat) : Plan :=
  let w := s.crew core
  let x := w.elem e
  if (s.core core).held && x.running && !x.stopping && !w.snapOver then
    (match w.pickSlot e with
     | some (slot, op, t) =>
       (match trigInstr op t with
        | some i => .run i { s with cur := { s.cur with core := core, element := e, slot := slot } }
        | none => .done s)
     | none => .done s)
  else .done s

/-- The turn of an engine queue: its head starts, works or completes. In a save the SM queue holds, as the sources do (R348). DEDUCED, log 75. -/
def State.queueTurn (s : State) (core q : Nat) : State :=
  if q = 0 then
    (match (s.crew core).streams.queue with
     | [] => s
     | c :: _ => if (s.crew core).stopped then s else if c.op = .wave then s.engine core Crew.waveEntry else s.smHead core c)
  else if q ≤ 3 then s.arrayTurn core q
  else if q = 4 then s.veHead core
  else if q = 5 then s.nxStart core
  else s

/-- What a turn comes to. -/
def State.planOf (s : State) (a : Agent) : Plan :=
  match a with
  | .sequencer c => s.sequencerTurn c
  | .element c e => s.elementTurn c e
  | .queue c q => .done (s.queueTurn c q)
  | .event i => if Instr.isEvent i then .run i s else .done s
  | .bankError c b r => .done (s.bankError c b r)
  | .memoryError c g => .done (s.memoryError c g)
  | .codeEvict cl n => .done (s.evictCode cl n)
  | .firmware => .done s.flushFirmware
  | .cpError r => .done (s.cpRecordError r)
  | .threshold n => .done (s.setThreshold n)
  | .route d i w => .done (s.writeRoute d i w)

/-- The plan of the next turn. -/
def State.plan (s : State) : Plan := s.beginTurn.planOf s.turn.who

end Sys2Proof.Machine
end

