-- ==== Sys2Proof/Machine/Step.lean ====
section
/-!
DEFINITION. One step of the device: the next turn of the schedule.
-/
namespace Sys2Proof.Machine
open Sys2Proof

/-- The outcome of a turn, with the progress of the engines noted. -/
def settleTurn (old : State) (o : Out) : Host.Outcome State Fault Refusal :=
  match o with
  | .next t => .next (State.noteProgress old t)
  | .fault r => .fault r
  | .refused r => .refused r

/-- One step: the next turn is taken from the schedule, time passes, and its agent acts (DESIGN CHOICE, log 1). -/
def step (s : State) : Host.Outcome State Fault Refusal :=
  match s.plan with
  | .run i t => settleTurn s (exec i t)
  | .bad w v t => settleTurn s (execIllegalInstruction w v t)
  | .done t => settleTurn s (.next t)

/-- The pc that withFetchWord gives the strand: its own, within the 56 bits of an address. -/
def fetchPc (t : Strand) : Nat := t.pc.toNat % 2 ^ 56 / 4 * 4

/-- The crew with one strand that is ready to issue. -/
def Crew.onlyStrand (w : Crew) (k : Nat) : Crew :=
  let t := w.strand k
  let u : Strand := { t with pc := BitVec.ofNat 64 (fetchPc t), present := true, halted := false, hold := .none, pending := [] }
  { w with
    strands := tset (w.strands.map (fun x => (x.1, { x.2 with present := false }))) k u
    ending := none, saving := none, yielded := none, issuedCc := none }

/-- The leaf of a page for code, and the cache entry of its translation. -/
def codeLeaf (va : Nat) : Nat := 0x05F + va / 65536 % 2 ^ 24 * 65536
def codeEntry (ctx va : Nat) : TlbEntry := ⟨some ctx, 0, va / 65536, codeLeaf va⟩

/-- s with the words of an instruction where the sequencer of the cursor's core fetches next (DESIGN CHOICE, log 9): a crew with a ready strand, a
translation of its pc, the words in memory and in the instruction cache, and that sequencer's turn next. -/
def State.withFetchWord (s : State) (nbits w : Nat) : State :=
  let c := s.cur.core
  let k := s.cur.strand % 4
  let crew := (s.crew c).onlyStrand k
  let pc := fetchPc (s.strandAt c k)
  let next := (pc + 4) % 2 ^ 64
  let pa := leafAddress 0 (codeLeaf pc) pc
  let pa2 := leafAddress 0 (codeLeaf next) next
  let bits := w % 2 ^ nbits
  let w1 := BitVec.ofNat 32 bits
  let w2 := BitVec.ofNat 32 (bits / 2 ^ 32)
  let tvec := (s.core c).tvec
  let core : Core := ⟨true, crew, if s.monitorEntry c = BitVec.ofNat 64 pc then tvec + 4 else tvec⟩
  let s1 := s.setCore c core
  let cl := clusterOf c
  let q := s1.cluster cl
  let tlb := codeEntry crew.info.ctx pc :: codeEntry crew.info.ctx next :: q.tlb
  let s2 := s1.setCluster cl { q with tlb := tlb }
  let s3 := (s2.writeLoc (s2.locOf pa) (bytesOf 4 w1.toNat) false).writeLoc (s2.locOf pa2) (bytesOf 4 w2.toNat) false
  let s4 := (s3.fillIcache cl (pa / 4) w1).fillIcache cl (pa2 / 4) w2
  let trained := sadd (sadd s4.sys.trained (stackOf pa)) (stackOf pa2)
  let memDies := sadd (sadd s4.sys.memDies (stackOf pa / 4)) (stackOf pa2 / 4)
  { s4 with
    sys := { s4.sys with trained := trained, memDies := memDies }
    sched := [⟨.sequencer c, s4.sys.cc, 0⟩]
    cur := { s4.cur with strand := k } }

end Sys2Proof.Machine
end

