-- ==== Sys2Proof/Safety.lean ====
section
/-!
DEFINITION. What counts as a safe run.
-/
namespace Sys2Proof
open Sys2Proof.Machine

/-- Does an outcome go on with a next state? -/
def goesOn (o : Out) : Bool :=
  match o with
  | .next _ => true
  | _ => false

/-- k steps from s all go on. -/
def safeFor : Nat → State → Bool
  | 0, _ => true
  | k + 1, s =>
    match step s with
    | .next t => safeFor k t
    | _ => false

end Sys2Proof
end

