-- ==== Sys2Proof/Certificates/Slice0/Obligations.lean ====
section
/-!
DEFINITION. The statements for the provers. Tables written here restate the spec's tables in arithmetic of their own; a
statement about a value the spec leaves open holds whatever that value is.
-/
open Sys2Proof Sys2Proof.Machine

namespace Sys2Proof.Slice0

/-! ### Integer and predicate instructions (R282 to R288) -/

/-- The 32 low bits of an integer, sign-extended to 64. -/
def low32 (v : Int) : Word := BitVec.ofInt 64 (BitVec.ofInt 32 v).toInt

/-- Table 10.6: destination, sources, guard and result of an integer binary instruction, with A and B as integers. -/
def binaryRow : Instr → Option (Reg × Reg × Reg × Pred × (Word → Word → Word))
  | .add d a b g => some (d, a, b, g, fun A B => BitVec.ofNat 64 (A.toNat + B.toNat))
  | .sub d a b g => some (d, a, b, g, fun A B => BitVec.ofInt 64 (A.toInt - B.toInt))
  | .mul d a b g => some (d, a, b, g, fun A B => BitVec.ofInt 64 (A.toInt * B.toInt))
  | .mulh d a b g => some (d, a, b, g, fun A B => BitVec.ofInt 64 ((A.toInt * B.toInt) / (18446744073709551616 : Int)))
  | .mulhn d a b g => some (d, a, b, g, fun A B => BitVec.ofNat 64 ((A.toNat * B.toNat) >>> 64))
  | .div d a b g => some (d, a, b, g, fun A B => if B = 0 then BitVec.allOnes 64 else BitVec.ofInt 64 (A.toInt.tdiv B.toInt))
  | .divn d a b g => some (d, a, b, g, fun A B => if B = 0 then BitVec.allOnes 64 else BitVec.ofNat 64 (A.toNat / B.toNat))
  | .rem d a b g => some (d, a, b, g, fun A B => if B = 0 then A else BitVec.ofInt 64 (A.toInt.tmod B.toInt))
  | .remn d a b g => some (d, a, b, g, fun A B => if B = 0 then A else BitVec.ofNat 64 (A.toNat % B.toNat))
  | .and d a b g => some (d, a, b, g, fun A B => BitVec.ofNat 64 (Nat.land A.toNat B.toNat))
  | .or d a b g => some (d, a, b, g, fun A B => BitVec.ofNat 64 (Nat.lor A.toNat B.toNat))
  | .xor d a b g => some (d, a, b, g, fun A B => BitVec.ofNat 64 (Nat.xor A.toNat B.toNat))
  | .andn d a b g => some (d, a, b, g, fun A B => BitVec.ofNat 64 (Nat.land A.toNat (18446744073709551615 - B.toNat)))
  | .shl d a b g => some (d, a, b, g, fun A B => BitVec.ofNat 64 (A.toNat * 2 ^ (B.toNat % 64)))
  | .shr d a b g => some (d, a, b, g, fun A B => BitVec.ofNat 64 (A.toNat / 2 ^ (B.toNat % 64)))
  | .sra d a b g => some (d, a, b, g, fun A B => BitVec.ofInt 64 (A.toInt / ((2 ^ (B.toNat % 64) : Nat) : Int)))
  | .rot d a b g => some (d, a, b, g, fun A B => (A >>> (B.toNat % 64)) ||| (A <<< (64 - B.toNat % 64)))
  | .min d a b g => some (d, a, b, g, fun A B => if A.toInt ≤ B.toInt then A else B)
  | .max d a b g => some (d, a, b, g, fun A B => if A.toInt ≤ B.toInt then B else A)
  | .minn d a b g => some (d, a, b, g, fun A B => if A.toNat ≤ B.toNat then A else B)
  | .maxn d a b g => some (d, a, b, g, fun A B => if A.toNat ≤ B.toNat then B else A)
  | .addw d a b g => some (d, a, b, g, fun A B => low32 (A.toInt + B.toInt))
  | .subw d a b g => some (d, a, b, g, fun A B => low32 (A.toInt - B.toInt))
  | .mulw d a b g => some (d, a, b, g, fun A B => low32 (A.toInt * B.toInt))
  | .lea d a b n g => some (d, a, b, g, fun A B => BitVec.ofNat 64 (A.toNat + B.toNat * 2 ^ n.toNat))
  | _ => none

/-- n is the number of leading zero bits of A. -/
def isClz (A : Word) (n : Nat) : Prop := n ≤ 64 ∧ A.toNat < 2 ^ (64 - n) ∧ (n < 64 → 2 ^ (63 - n) ≤ A.toNat)
/-- n is the number of trailing zero bits of A. -/
def isCtz (A : Word) (n : Nat) : Prop := n ≤ 64 ∧ (∀ j, j < n → A.getLsbD j = false) ∧ (n < 64 → A.getLsbD n = true)
/-- The number of set bits of A. -/
def ones (A : Word) : Nat := ((List.range 64).map (fun i => if A.getLsbD i then 1 else 0)).sum

/-- Table 10.7 and the immediate forms of R286 and R287: destination, source, guard, and what the result r must be, given the source
A. -/
def unaryRow : Instr → Option (Reg × Reg × Pred × (Word → Word → Prop))
  | .clz d a g => some (d, a, g, fun A r => isClz A r.toNat)
  | .ctz d a g => some (d, a, g, fun A r => isCtz A r.toNat)
  | .popc d a g => some (d, a, g, fun A r => r.toNat = ones A)
  | .sextB d a g => some (d, a, g, fun A r => r = BitVec.ofInt 64 (A.setWidth 8).toInt)
  | .sextH d a g => some (d, a, g, fun A r => r = BitVec.ofInt 64 (A.setWidth 16).toInt)
  | .sextW d a g => some (d, a, g, fun A r => r = BitVec.ofInt 64 (A.setWidth 32).toInt)
  | .zextB d a g => some (d, a, g, fun A r => r.toNat = A.toNat % 256)
  | .zextH d a g => some (d, a, g, fun A r => r.toNat = A.toNat % 65536)
  | .zextW d a g => some (d, a, g, fun A r => r.toNat = A.toNat % 4294967296)
  | .rev d a g => some (d, a, g, fun A r => ∀ i, i < 8 → ∀ j, j < 8 → r.getLsbD (8 * i + j) = A.getLsbD (56 - 8 * i + j))
  | .mov d a g => some (d, a, g, fun A r => r = A)
  | .addi d a i g => some (d, a, g, fun A r => r = BitVec.ofInt 64 (A.toInt + i.toInt))
  | .andi d a i g => some (d, a, g, fun A r => r = A &&& BitVec.ofInt 64 i.toInt)
  | .ori d a i g => some (d, a, g, fun A r => r = A ||| BitVec.ofInt 64 i.toInt)
  | .xori d a i g => some (d, a, g, fun A r => r = A ^^^ BitVec.ofInt 64 i.toInt)
  | .shli d a n g => some (d, a, g, fun A r => r = BitVec.ofNat 64 (A.toNat * 2 ^ n.toNat))
  | .shri d a n g => some (d, a, g, fun A r => r = BitVec.ofNat 64 (A.toNat / 2 ^ n.toNat))
  | .srai d a n g => some (d, a, g, fun A r => r = BitVec.ofInt 64 (A.toInt / ((2 ^ n.toNat : Nat) : Int)))
  | .roti d a n g => some (d, a, g, fun A r => r = (A >>> n.toNat) ||| (A <<< (64 - n.toNat)))
  | .addiL d a w2 g => some (d, a, g, fun A r => r = BitVec.ofInt 64 (A.toInt + w2.toInt))
  | .lihL d w2 g => some (d, d, g, fun A r => r.toNat = w2.toNat * 4294967296 + A.toNat % 4294967296)
  | .li d i g => some (d, 0, g, fun _ r => r = BitVec.ofInt 64 i.toInt)
  | .liL d hi w2 g => some (d, 0, g, fun _ r => r = BitVec.ofInt 64 (hi ++ w2).toInt)
  | _ => none

/-- Words of a sequencer instruction in bytes: long forms have two words (Table 3.4). -/
def lengthOf : Instr → Nat
  | .liL _ _ _ _ => 8
  | .lihL _ _ _ => 8
  | .addiL _ _ _ _ => 8
  | .amoAdd _ _ _ _ _ _ _ => 8
  | .amoAnd _ _ _ _ _ _ _ => 8
  | .amoOr _ _ _ _ _ _ _ => 8
  | .amoXor _ _ _ _ _ _ _ => 8
  | .amoMin _ _ _ _ _ _ _ => 8
  | .amoMax _ _ _ _ _ _ _ => 8
  | .amoMinn _ _ _ _ _ _ _ => 8
  | .amoMaxn _ _ _ _ _ _ _ => 8
  | .amoSwap _ _ _ _ _ _ _ => 8
  | .amoCas _ _ _ _ _ _ _ => 8
  | .amoFaddF32 _ _ _ _ _ _ => 8
  | .amoFaddBf16x2 _ _ _ _ _ _ => 8
  | .ldGlL _ _ _ _ _ => 8
  | .stGlL _ _ _ _ _ => 8
  | _ => 4

/-- Table 10.8: destination predicate, source, guard, and the condition over A and B, where B is x[b] or the immediate. -/
def compareRow (t : Strand) : Instr → Option (Pred × Pred × Prop)
  | .cmpEq p a b g => some (p, g, t.getX a = t.getX b)
  | .cmpNe p a b g => some (p, g, t.getX a ≠ t.getX b)
  | .cmpLt p a b g => some (p, g, (t.getX a).toInt < (t.getX b).toInt)
  | .cmpLtn p a b g => some (p, g, (t.getX a).toNat < (t.getX b).toNat)
  | .cmpLe p a b g => some (p, g, (t.getX a).toInt ≤ (t.getX b).toInt)
  | .cmpLen p a b g => some (p, g, (t.getX a).toNat ≤ (t.getX b).toNat)
  | .cmpBit p a b g => some (p, g, ∃ j, (t.getX a).getLsbD j = true ∧ (t.getX b).getLsbD j = true)
  | .cmpiEq p a i g => some (p, g, (t.getX a).toInt = i.toInt)
  | .cmpiLt p a i g => some (p, g, (t.getX a).toInt < i.toInt)
  | .cmpiLtn p a i g => some (p, g, (t.getX a).toNat < i.toNat)
  | .pand p q r g => some (p, g, t.getP q = true ∧ t.getP r = true)
  | .por p q r g => some (p, g, t.getP q = true ∨ t.getP r = true)
  | .pxor p q r g => some (p, g, t.getP q ≠ t.getP r)
  | .pandn p q r g => some (p, g, t.getP q = true ∧ t.getP r = false)
  | .pnot p q g => some (p, g, t.getP q = false)
  | .pmovX p a g => some (p, g, t.getX a ≠ 0)
  | _ => none

/-- movp.x and sel: destination, guard, result. -/
def selectRow (t : Strand) : Instr → Option (Reg × Pred × Word)
  | .movpX d q g => some (d, g, if t.getP q = true then 1 else 0)
  | .sel d a b p g => some (d, g, if t.getP p = true then t.getX a else t.getX b)
  | _ => none

end Sys2Proof.Slice0
open Sys2Proof.Slice0

/-- R282, R288: with a true guard, each integer binary instruction and lea answers the next state in which x[d] holds the result of
Table 10.6 on the old x[a] and x[b] and the strand is past its word; nothing else of the device changes. -/
def Obligations.IntegerBinaryResult : Prop :=
  ∀ (i : Instr) (d a b : Reg) (g : Pred) (f : Word → Word → Word) (s : State), binaryRow i = some (d, a, b, g, f) → s.me.getP g = true →
    exec i s = .next (s.setMe ((s.me.setX d (f (s.me.getX a) (s.me.getX b))).complete 4))

/-- R283, R286, R287: with a true guard, each integer unary, immediate and immediate-load instruction answers the next state in which x[d] holds a
value r as the tables say and the strand is past the instruction; nothing else changes. -/
def Obligations.UnaryAndImmediateResult : Prop :=
  ∀ (i : Instr) (d a : Reg) (g : Pred) (f : Word → Word → Prop) (s : State), unaryRow i = some (d, a, g, f) → s.me.getP g = true →
    ∃ r : Word, f (s.me.getX a) r ∧ exec i s = .next (s.setMe ((s.me.setX d r).complete (lengthOf i)))

namespace Sys2Proof.Slice0
/-- R284, R285: with a true guard, each comparison and predicate instruction sets p[pd] exactly when its condition holds and passes its
word; nothing else changes. -/
def predicateResultRule : Prop :=
  ∀ (i : Instr) (p g : Pred) (c : Prop) (s : State), compareRow s.me i = some (p, g, c) → s.me.getP g = true →
    ∃ v : Bool, (v = true ↔ c) ∧ exec i s = .next (s.setMe ((s.me.setP p v).complete 4))
end Sys2Proof.Slice0

namespace Sys2Proof.Slice0
/-- R285, R288: movp.x writes 1 or 0 from a predicate, and sel picks one of two registers by a predicate. -/
def selectResultRule : Prop :=
  ∀ (i : Instr) (d : Reg) (g : Pred) (v : Word) (s : State), selectRow s.me i = some (d, g, v) → s.me.getP g = true →
    exec i s = .next (s.setMe ((s.me.setX d v).complete 4))
end Sys2Proof.Slice0

/-- R284 to R287: compares and predicate moves, and the select. -/
def Obligations.PredicateAndSelect : Prop :=
  Sys2Proof.Slice0.predicateResultRule ∧ Sys2Proof.Slice0.selectResultRule

/-- R49: x0 and p0 discard writes and read as 0 and true; any other register reads as last written, and every other register is
left alone; registers and predicates do not disturb one another. -/
def Obligations.RegisterReadAfterWrite : Prop :=
  (∀ (t : Strand), t.getX 0 = 0 ∧ t.getP 0 = true) ∧
  (∀ (t : Strand) (v : Word) (b : Bool), t.setX 0 v = t ∧ t.setP 0 b = t) ∧
  (∀ (t : Strand) (d r : Reg) (v : Word), d ≠ 0 → (t.setX d v).getX r = if r = d then v else t.getX r) ∧
  (∀ (t : Strand) (d r : Pred) (v : Bool), d ≠ 0 → (t.setP d v).getP r = if r = d then v else t.getP r) ∧
  (∀ (t : Strand) (d : Reg) (q : Pred) (v : Word), (t.setX d v).getP q = t.getP q) ∧
  (∀ (t : Strand) (q : Pred) (r : Reg) (v : Bool), (t.setP q v).getX r = t.getX r)
namespace Sys2Proof.Slice0

/-! ### Guards (R50) -/

/-- The guard field of an instruction that has one. -/
def guardOf : Instr → Option Pred
  | .add _ _ _ g => some g
  | .sub _ _ _ g => some g
  | .mul _ _ _ g => some g
  | .mulh _ _ _ g => some g
  | .mulhn _ _ _ g => some g
  | .div _ _ _ g => some g
  | .divn _ _ _ g => some g
  | .rem _ _ _ g => some g
  | .remn _ _ _ g => some g
  | .and _ _ _ g => some g
  | .or _ _ _ g => some g
  | .xor _ _ _ g => some g
  | .andn _ _ _ g => some g
  | .shl _ _ _ g => some g
  | .shr _ _ _ g => some g
  | .sra _ _ _ g => some g
  | .rot _ _ _ g => some g
  | .min _ _ _ g => some g
  | .max _ _ _ g => some g
  | .minn _ _ _ g => some g
  | .maxn _ _ _ g => some g
  | .addw _ _ _ g => some g
  | .subw _ _ _ g => some g
  | .mulw _ _ _ g => some g
  | .clz _ _ g => some g
  | .ctz _ _ g => some g
  | .popc _ _ g => some g
  | .sextB _ _ g => some g
  | .sextH _ _ g => some g
  | .sextW _ _ g => some g
  | .zextB _ _ g => some g
  | .zextH _ _ g => some g
  | .zextW _ _ g => some g
  | .rev _ _ g => some g
  | .mov _ _ g => some g
  | .cmpEq _ _ _ g => some g
  | .cmpNe _ _ _ g => some g
  | .cmpLt _ _ _ g => some g
  | .cmpLtn _ _ _ g => some g
  | .cmpLe _ _ _ g => some g
  | .cmpLen _ _ _ g => some g
  | .cmpBit _ _ _ g => some g
  | .pand _ _ _ g => some g
  | .por _ _ _ g => some g
  | .pxor _ _ _ g => some g
  | .pandn _ _ _ g => some g
  | .pnot _ _ g => some g
  | .pmovX _ _ g => some g
  | .movpX _ _ g => some g
  | .addi _ _ _ g => some g
  | .andi _ _ _ g => some g
  | .ori _ _ _ g => some g
  | .xori _ _ _ g => some g
  | .shli _ _ _ g => some g
  | .shri _ _ _ g => some g
  | .srai _ _ _ g => some g
  | .roti _ _ _ g => some g
  | .cmpiEq _ _ _ g => some g
  | .cmpiLt _ _ _ g => some g
  | .cmpiLtn _ _ _ g => some g
  | .li _ _ g => some g
  | .liL _ _ _ g => some g
  | .lihL _ _ g => some g
  | .addiL _ _ _ g => some g
  | .lea _ _ _ _ g => some g
  | .sel _ _ _ _ g => some g
  | .ldSp _ _ _ _ g => some g
  | .stSp _ _ _ _ g => some g
  | .ldGl _ _ _ _ g => some g
  | .stGl _ _ _ _ g => some g
  | .ldAcq _ _ _ _ g => some g
  | .stRel _ _ _ _ g => some g
  | .pf _ _ g => some g
  | .clWb _ _ g => some g
  | .clInv _ _ g => some g
  | .clWbinv _ _ g => some g
  | .ldGlL _ _ _ _ g => some g
  | .stGlL _ _ _ _ g => some g
  | .amoAdd _ _ _ _ _ _ g => some g
  | .amoAnd _ _ _ _ _ _ g => some g
  | .amoOr _ _ _ _ _ _ g => some g
  | .amoXor _ _ _ _ _ _ g => some g
  | .amoMin _ _ _ _ _ _ g => some g
  | .amoMax _ _ _ _ _ _ g => some g
  | .amoMinn _ _ _ _ _ _ g => some g
  | .amoMaxn _ _ _ _ _ _ g => some g
  | .amoSwap _ _ _ _ _ _ g => some g
  | .amoCas _ _ _ _ _ _ g => some g
  | .amoFaddF32 _ _ _ _ _ g => some g
  | .amoFaddBf16x2 _ _ _ _ _ g => some g
  | .jalr _ _ g => some g
  | .loop _ _ g => some g
  | .loopBrk g => some g
  | .csrr _ _ g => some g
  | .csrw _ _ g => some g
  | .csrs _ _ g => some g
  | .csrc _ _ g => some g
  | .nop g => some g
  | .trap _ g => some g
  | .eret g => some g
  | .brk g => some g
  | .yield g => some g
  | .halt g => some g
  | .ctxSave _ g => some g
  | .ctxRest _ g => some g
  | .xltFlush _ g => some g
  | .fence _ g => some g
  | .fenceAcq _ g => some g
  | .fenceRel _ g => some g
  | .fenceSm _ g => some g
  | .wait _ _ g => some g
  | .waitDec _ _ g => some g
  | .sig _ _ g => some g
  | .sigSet _ _ g => some g
  | .waitaEq _ _ _ g => some g
  | .waitaNe _ _ _ g => some g
  | .waitaGe _ _ _ g => some g
  | .waitaLt _ _ _ g => some g
  | .waitaGen _ _ _ g => some g
  | .bar _ _ g => some g
  | .syncStep _ g => some g
  | .smAff _ _ _ g => some g
  | .smAfw _ _ _ g => some g
  | .smInd _ _ _ g => some g
  | .smSct _ _ _ g => some g
  | .smUpd _ _ _ g => some g
  | .smIsx _ _ _ g => some g
  | .smBar _ _ g => some g
  | .smKill _ _ g => some g
  | .smLink _ _ _ g => some g
  | .smRep _ _ _ g => some g
  | .smSteer _ _ _ g => some g
  | .smMerge _ _ _ g => some g
  | .smDem _ _ _ g => some g
  | .smStop _ _ _ g => some g
  | .smSpill _ _ _ g => some g
  | .smTok _ _ _ g => some g
  | .smDrain _ _ _ g => some g
  | .wave _ _ _ g => some g
  | .arCarve _ _ _ g => some g
  | .arHold _ _ _ g => some g
  | .arFeed _ _ _ g => some g
  | .arStep _ _ g => some g
  | .mxRun _ _ g => some g
  | .arDrain _ _ g => some g
  | .arZero _ _ _ g => some g
  | .arChk _ _ _ g => some g
  | .arCoop _ _ g => some g
  | .arMmap _ _ _ g => some g
  | .vePlane _ _ _ g => some g
  | .veSwap _ _ _ g => some g
  | .veBind _ _ _ g => some g
  | .veStart _ _ g => some g
  | .veStop _ _ g => some g
  | .veRd _ _ _ g => some g
  | .veWr _ _ _ g => some g
  | .veKonst _ _ _ g => some g
  | .nxPut _ _ g => some g
  | .nxGet _ _ g => some g
  | .nxXget _ _ _ g => some g
  | .nxSend _ _ g => some g
  | .nxRoute _ _ g => some g
  | .nxRing _ _ g => some g
  | .nxChan _ _ g => some g
  | .collGrp _ _ g => some g
  | .collRed _ _ g => some g
  | .collBc _ _ g => some g
  | .collFlt _ _ g => some g
  | .collAr _ _ g => some g
  | .handRel _ _ g => some g
  | .handAcq _ _ g => some g
  | .handQuery _ _ g => some g
  | _ => none

/-! ### CSRs (R279, Tables 8.2, 10.4) -/

/-- Table 10.4, Table 6.3 and Table 8.2: may CSR n be read and written in kernel mode, and read and written in monitor mode. -/
def csrRow (n : Nat) : Bool × Bool × Bool × Bool :=
  if n ≤ 0x00A ∨ n = 0x040 ∨ (0x100 ≤ n ∧ n < 0x180 ∧ n % 16 = 8) then (true, false, true, false)
  else if n = 0x010 ∨ (0x020 ≤ n ∧ n ≤ 0x023) ∨ n = 0x030 ∨ n = 0x041
      ∨ (0x100 ≤ n ∧ n < 0x180 ∧ (n % 16 ≤ 2 ∨ (4 ≤ n % 16 ∧ n % 16 ≤ 7))) then (true, true, true, true)
  else if 0x011 ≤ n ∧ n ≤ 0x013 then (true, false, true, true)
  else if n = 0x014 ∨ n = 0x016 ∨ (0x018 ≤ n ∧ n ≤ 0x01B) then (false, false, true, true)
  else if n = 0x015 then (false, false, true, false)
  else (false, false, false, false)

/-- May CSR n be read, or written, by a strand of the mode? -/
def csrReadable (n : Nat) (monitor : Bool) : Bool := if monitor then (csrRow n).2.2.1 else (csrRow n).1
def csrWritable (n : Nat) (monitor : Bool) : Bool := if monitor then (csrRow n).2.2.2 else (csrRow n).2.1

/-- The rights an instruction needs beside its encoding (Table 3.5): CSR accesses that the mode allows, eret and xlt.flush in monitor
mode only. -/
def permitted (monitor : Bool) : Instr → Bool
  | .csrr _ c _ => csrReadable c.toNat monitor
  | .csrw _ c _ => csrWritable c.toNat monitor
  | .csrs _ c _ => csrWritable c.toNat monitor
  | .csrc _ c _ => csrWritable c.toNat monitor
  | .eret _ => monitor
  | .xltFlush _ _ => monitor
  | _ => true

/-- The word of a CSR or privileged instruction (R48, Tables 3.3 and 13.8). -/
def privilegedWord : Instr → Option Nat
  | .csrr d c g => some (0x1C * 2 ^ 26 + d.toNat * 2 ^ 20 + c.toNat * 2 ^ 8 + 0 * 8 + g.toNat)
  | .csrw x c g => some (0x1C * 2 ^ 26 + x.toNat * 2 ^ 20 + c.toNat * 2 ^ 8 + 1 * 8 + g.toNat)
  | .csrs x c g => some (0x1C * 2 ^ 26 + x.toNat * 2 ^ 20 + c.toNat * 2 ^ 8 + 2 * 8 + g.toNat)
  | .csrc x c g => some (0x1C * 2 ^ 26 + x.toNat * 2 ^ 20 + c.toNat * 2 ^ 8 + 3 * 8 + g.toNat)
  | .eret g => some (0x1D * 2 ^ 26 + 2 * 8 + g.toNat)
  | .xltFlush a g => some (0x1D * 2 ^ 26 + a.toNat * 2 ^ 14 + 8 * 8 + g.toNat)
  | _ => none

/-- What csrw, csrs and csrc write, given the old value and the source: CSR number, guard, value (R291). -/
def csrSource (s : State) : Instr → Option (Nat × Pred × Word)
  | .csrw x c g => some (c.toNat, g, s.me.getX x)
  | .csrs x c g => some (c.toNat, g, s.readCsr s.cur.core s.cur.strand c.toNat ||| s.me.getX x)
  | .csrc x c g => some (c.toNat, g, s.readCsr s.cur.core s.cur.strand c.toNat &&& ~~~(s.me.getX x))
  | _ => none

/-- What CSR n reads once v has been written to it by the strand whose turn it is: its writable fields take v, the others keep what
they hold (Tables 6.3, 8.3, 10.5, R341). -/
def csrAfter (s : State) (n : Nat) (v : Word) : Word :=
  let old := s.readCsr s.cur.core s.cur.strand n
  if n = 0x010 then (v &&& (if s.me.monitor then 0x31 else 0x30)) ||| (old &&& (if s.me.monitor then 0x02 else 0x03))
  else if 0x011 ≤ n ∧ n ≤ 0x01B ∧ n ≠ 0x014 ∧ s.me.traps = [] then old
  else if n = 0x016 then v &&& 0x33
  else if n = 0x020 then v &&& 0x7FFFFFFFFFFFFFFF
  else if n = 0x021 then v &&& 0xFFFFFFFFFF
  else if n = 0x022 ∨ n = 0x023 then v &&& 0xFFFF
  else if n = 0x030 then (v &&& 0xFFFFFFFF00000000) ||| (old &&& 0xFFFFFFFF)
  else if 0x100 ≤ n ∧ n % 16 = 0 then v &&& 0x1F
  else if 0x100 ≤ n ∧ n % 16 = 1 then v &&& 0xFFFF01FF
  else v

/-- The value checks on CSR writes: a withhold or snapshot limit of 0, or a rounding mode of 5, 6 or 7, is refused (R217, R280). -/
def csrRefuses (n : Nat) (v : Word) : Bool :=
  ((n == 0x022 || n == 0x023) && v.toNat % 65536 == 0) || (decide (0x100 ≤ n) && n % 16 == 0 && decide (5 ≤ v.toNat % 8))

/-! ### Traps (R341) -/

/-- The strand after TakeTrap at depth 0 or 1 (R341): a new level of epc, cause, tval, csr_status and x5 to x8; mode 1, ie 0, prio
kept; the pc at csr_tvec; nothing else changed but that the strand is held no more. -/
def trapped (t : Strand) (tvec : Word) (cause : Cause) (tval epc : Word) : Strand :=
  { t with
    traps := ⟨epc, BitVec.ofNat 64 cause.toNat, tval, t.status, t.getX 5, t.getX 6, t.getX 7, t.getX 8⟩ :: t.traps
    status := (t.status &&& 0x30) ||| 0x02
    pc := tvec
    hold := .none
    readySince := none }

end Sys2Proof.Slice0

/-- R50: a guarded instruction that is an instruction in its mode and whose guard is false has no effect but advancing the pc past it, the
loop end step included. -/
def Obligations.FalseGuardOnlyAdvances : Prop :=
  ∀ (i : Instr) (g : Pred) (s : State), guardOf i = some g → permitted s.me.monitor i = true → s.me.getP g = false →
    exec i s = .next (s.setMe (s.me.complete (lengthOf i)))

namespace Sys2Proof.Slice0
/-- R290: where the innermost loop level does not end at an instruction's last word, completing it advances the pc by its length and
leaves the loop stack; where it ends there with more than one iteration left, the count falls by 1 and control goes to the level's
start; with one left, the level is popped and the test goes on with the next. Registers, predicates, the store buffer and the
trap stack are left alone. -/
def loopEndStepRule : Prop :=
  (∀ (t : Strand) (n : Nat) (l : LoopLevel) (ls : List LoopLevel), t.loops = l :: ls → l.stop = t.pc + BitVec.ofNat 64 n - 4 →
    1 < l.remaining.toNat →
    (t.complete n).pc = l.start ∧ (t.complete n).loops = { l with remaining := l.remaining - 1 } :: ls) ∧
  (∀ (t : Strand) (n : Nat) (l : LoopLevel) (ls : List LoopLevel), t.loops = l :: ls → l.stop = t.pc + BitVec.ofNat 64 n - 4 →
    l.remaining = 1 → t.complete n = ({ t with loops := ls } : Strand).complete n) ∧
  (∀ (t : Strand) (n : Nat), (∀ l ls, t.loops = l :: ls → l.stop ≠ t.pc + BitVec.ofNat 64 n - 4) →
    (t.complete n).pc = t.pc + BitVec.ofNat 64 n ∧ (t.complete n).loops = t.loops) ∧
  (∀ (t : Strand) (n : Nat), (t.complete n).x = t.x ∧ (t.complete n).p = t.p ∧ (t.complete n).buffer = t.buffer ∧
    (t.complete n).status = t.status ∧ (t.complete n).traps = t.traps)
end Sys2Proof.Slice0

/-- R289: br goes to pc + 4 × offset where its predicate xor n holds and otherwise advances; jal and jalr write pc + 4 to the link
and go to the target, which jalr takes from the old value of its register; a jalr target that is no multiple of 4 traps with MISALIGNED. -/
def Obligations.BranchesAndJumps : Prop :=
  (∀ (p : Pred) (n : Bool) (o : BitVec 22) (s : State), s.me.getP p ≠ n →
    exec (.br p n o) s = .next (s.setMe { s.me with pc := BitVec.ofInt 64 (s.me.pc.toInt + 4 * o.toInt), hold := .none })) ∧
  (∀ (p : Pred) (n : Bool) (o : BitVec 22) (s : State), s.me.getP p = n →
    exec (.br p n o) s = .next (s.setMe (s.me.complete 4))) ∧
  (∀ (d : Reg) (o : BitVec 20) (s : State),
    exec (.jal d o) s = .next (s.setMe { s.me.setX d (s.me.pc + 4) with
      pc := BitVec.ofInt 64 (s.me.pc.toInt + 4 * o.toInt), hold := .none })) ∧
  (∀ (d a : Reg) (g : Pred) (s : State), s.me.getP g = true → (s.me.getX a).toNat % 4 = 0 →
    exec (.jalr d a g) s = .next (s.setMe { s.me.setX d (s.me.pc + 4) with pc := s.me.getX a, hold := .none })) ∧
  (∀ (d a : Reg) (g : Pred) (s : State), s.me.getP g = true → (s.me.getX a).toNat % 4 ≠ 0 →
    exec (.jalr d a g) s = .next (s.takeTrap 0x03 (s.me.getX a)))

namespace Sys2Proof.Slice0
/-- R290: loop with a count above 0 pushes B = pc + 4, E = pc + 4 × L and the count, and goes to B; a third level traps with CONFIG, tval
2; a count of 0 passes the body as if an instruction ending at E had completed; loop.brk leaves the innermost level, and has no
effect on an empty stack. -/
def hardwareLoopsRule : Prop :=
  (∀ (d : Reg) (l : BitVec 16) (g : Pred) (s : State), s.me.getP g = true → s.me.getX d ≠ 0 → s.me.loops.length < 2 →
    exec (.loop d l g) s = .next (s.setMe { s.me with
      loops := ⟨s.me.pc + 4, s.me.pc + BitVec.ofNat 64 (4 * l.toNat), s.me.getX d⟩ :: s.me.loops
      pc := s.me.pc + 4
      hold := .none })) ∧
  (∀ (d : Reg) (l : BitVec 16) (g : Pred) (s : State), s.me.getP g = true → s.me.getX d ≠ 0 → s.me.loops.length = 2 →
    exec (.loop d l g) s = .next (s.takeTrap 0x0E 2)) ∧
  (∀ (d : Reg) (l : BitVec 16) (g : Pred) (s : State), s.me.getP g = true → s.me.getX d = 0 →
    exec (.loop d l g) s = .next (s.setMe (s.me.complete (4 * l.toNat + 4)))) ∧
  (∀ (g : Pred) (s : State) (l : LoopLevel) (ls : List LoopLevel), s.me.getP g = true → s.me.loops = l :: ls →
    exec (.loopBrk g) s = .next (s.setMe { s.me with pc := l.stop + 4, loops := ls, hold := .none })) ∧
  (∀ (g : Pred) (s : State), s.me.loops = [] → exec (.loopBrk g) s = .next (s.setMe (s.me.complete 4)))
end Sys2Proof.Slice0

/-- R290: the loop end step, and the loop instructions. -/
def Obligations.Loops : Prop :=
  Sys2Proof.Slice0.loopEndStepRule ∧ Sys2Proof.Slice0.hardwareLoopsRule

namespace Sys2Proof.Slice0
/-- R291: where Table 10.4 allows the access, csrr writes x[d] with the old value, and a csrw, csrs or csrc whose value passes the checks
leaves the CSR with its new value in its writable fields, every other implemented CSR of the strand as it was, and the strand past its
word. -/
def csrAccessRule : Prop :=
  (∀ (d : Reg) (c : BitVec 12) (g : Pred) (s : State), csrReadable c.toNat s.me.monitor = true → s.me.getP g = true →
    exec (.csrr d c g) s =
      .next (s.setMe ((s.me.setX d (s.readCsr s.cur.core s.cur.strand c.toNat)).complete 4))) ∧
  (∀ (i : Instr) (n : Nat) (g : Pred) (v : Word) (s : State), csrSource s i = some (n, g, v) → s.me.getP g = true →
    csrWritable n s.me.monitor = true → csrRefuses n v = false →
    ∃ t, exec i s = .next t ∧ t.readCsr s.cur.core s.cur.strand n = csrAfter s n v ∧
      (∀ m, m ≠ n → csrReadable m true = true →
        t.readCsr s.cur.core s.cur.strand m = s.readCsr s.cur.core s.cur.strand m) ∧
      (t.strandAt s.cur.core s.cur.strand).x = s.me.x ∧ (t.strandAt s.cur.core s.cur.strand).p = s.me.p ∧
      (t.strandAt s.cur.core s.cur.strand).pc = (s.me.complete 4).pc)
end Sys2Proof.Slice0

/-- R279, R280, Table 3.5: a CSR access that the strand's mode does not have, and eret and xlt.flush in kernel mode, trap with ILLEGAL_OP whose
tval is the word, whatever the guard; a CSR value that a check refuses traps with CONFIG and changes nothing (the tval of this
CONFIG is a free value, DESIGN CHOICE, log 30). -/
def Obligations.PrivilegedAccess : Prop :=
  (∀ (i : Instr) (w : Nat) (s : State), privilegedWord i = some w → permitted s.me.monitor i = false →
    exec i s = .next (s.takeTrap 0x01 (BitVec.ofNat 64 w))) ∧
  (∀ (i : Instr) (n : Nat) (g : Pred) (v : Word) (s : State), csrSource s i = some (n, g, v) → s.me.getP g = true →
    csrWritable n s.me.monitor = true → csrRefuses n v = true → ∃ tval, exec i s = .next (s.takeTrap 0x0E tval))

namespace Sys2Proof.Slice0
/-- R279, R281 and Tables 10.4 and 10.5: what the read-only CSRs of a strand read. -/
def csrValuesRule : Prop :=
  ∀ (s : State) (c k : Nat),
    s.readCsr c k 0x000 = BitVec.ofNat 64 k ∧
    s.readCsr c k 0x001 = BitVec.ofNat 64 (s.crew c).info.tile ∧
    s.readCsr c k 0x002 = BitVec.ofNat 64 c ∧
    s.readCsr c k 0x003 = BitVec.ofNat 64 (c / 8) ∧
    (c < 448 → s.readCsr c k 0x004 = if c < 192 then 1 else 2) ∧
    s.readCsr c k 0x005 = BitVec.ofNat 64 s.sys.devid ∧
    s.readCsr c k 0x006 = (s.crew c).info.args ∧
    s.readCsr c k 0x009 = BitVec.ofNat 64 (Nat.min (s.time / 13) (2 ^ 64 - 1)) ∧
    s.readCsr c k 0x00A = (s.crew c).info.mode ∧
    s.readCsr c k 0x010 = (s.strandAt c k).status ∧
    s.readCsr c k 0x014 = (s.core c).tvec ∧
    s.readCsr c k 0x015 = BitVec.ofNat 64 (s.strandAt c k).traps.length ∧
    (∀ l ls, (s.strandAt c k).traps = l :: ls →
      s.readCsr c k 0x011 = l.cause ∧ s.readCsr c k 0x012 = l.epc ∧ s.readCsr c k 0x013 = l.tval ∧
      s.readCsr c k 0x016 = l.status ∧ s.readCsr c k 0x018 = l.save0 ∧ s.readCsr c k 0x019 = l.save1 ∧
      s.readCsr c k 0x01A = l.save2 ∧ s.readCsr c k 0x01B = l.save3)
end Sys2Proof.Slice0

/-- R279 to R281, R291: the CSR instructions, and what each CSR reads as. -/
def Obligations.ControlRegisters : Prop :=
  Sys2Proof.Slice0.csrAccessRule ∧ Sys2Proof.Slice0.csrValuesRule

namespace Sys2Proof.Slice0
/-- R341: a trap taken with a free level of the trap stack pushes the epc, the cause, the tval, csr_status and x5 to x8, enters monitor
mode with ie 0 and goes to csr_tvec, leaving every register, predicate, loop level and buffered store of the strand, every other strand, and everything
outside the strand as it was. -/
def trapEntryRule : Prop :=
  ∀ (s : State) (c k : Nat) (cause : Cause) (tval epc : Word), (s.strandAt c k).traps.length < 2 →
    s.takeTrapAt c k cause tval epc = s.setStrandAt c k (trapped (s.strandAt c k) ((s.core c).tvec &&& ~~~3) cause tval epc)
end Sys2Proof.Slice0

namespace Sys2Proof.Slice0
/-- R341, R345: a trap that arises while both levels are in use pushes nothing: the crew is to be ended with its cause, unless its end was
decided before; its strands, stores and queues are as they were. -/
def trapAtFullStackEndsCrewRule : Prop :=
  ∀ (s : State) (c k : Nat) (cause : Cause) (tval epc : Word), (s.strandAt c k).traps.length = 2 →
    s.takeTrapAt c k cause tval epc =
      s.setCrew c { s.crew c with ending := some ((s.crew c).ending.getD cause) }
end Sys2Proof.Slice0

namespace Sys2Proof.Slice0
/-- R366: trap takes SOFTWARE_TRAP with tval x[a], and brk takes BREAK with tval 0; the epc is the instruction's own address. -/
def softwareTrapsRule : Prop :=
  (∀ (a : Reg) (g : Pred) (s : State), s.me.getP g = true → s.me.traps.length < 2 →
    exec (.trap a g) s = .next (s.setMe (trapped s.me ((s.core s.cur.core).tvec &&& ~~~3) 0x0B (s.me.getX a) s.me.pc))) ∧
  (∀ (g : Pred) (s : State), s.me.getP g = true → s.me.traps.length < 2 →
    exec (.brk g) s = .next (s.setMe (trapped s.me ((s.core s.cur.core).tvec &&& ~~~3) 0x0C 0 s.me.pc)))
end Sys2Proof.Slice0

namespace Sys2Proof.Slice0
/-- R367: in monitor mode eret pops the top level: x5 to x8, mode and ie are restored from it, prio is kept, and the pc is the epc with its
two low bits cleared. -/
def returnFromTrapRule : Prop :=
  ∀ (g : Pred) (s : State) (l : TrapLevel) (ls : List TrapLevel), s.me.monitor = true → s.me.getP g = true → s.me.traps = l :: ls →
    ∃ t, exec (.eret g) s = .next t ∧
      (t.strandAt s.cur.core s.cur.strand).traps = ls ∧
      (t.strandAt s.cur.core s.cur.strand).pc = (l.epc &&& ~~~3) ∧
      (t.strandAt s.cur.core s.cur.strand).status = ((s.me.status &&& 0x30) ||| (l.status &&& 0x03)) ∧
      (t.strandAt s.cur.core s.cur.strand).getX 5 = l.save0 ∧ (t.strandAt s.cur.core s.cur.strand).getX 6 = l.save1 ∧
      (t.strandAt s.cur.core s.cur.strand).getX 7 = l.save2 ∧ (t.strandAt s.cur.core s.cur.strand).getX 8 = l.save3 ∧
      (∀ r : Reg, r ≠ 5 → r ≠ 6 → r ≠ 7 → r ≠ 8 → (t.strandAt s.cur.core s.cur.strand).getX r = s.me.getX r) ∧
      (t.strandAt s.cur.core s.cur.strand).p = s.me.p ∧ (t.strandAt s.cur.core s.cur.strand).loops = s.me.loops ∧
      (t.strandAt s.cur.core s.cur.strand).buffer = s.me.buffer
end Sys2Proof.Slice0

namespace Sys2Proof.Slice0
/-- R341, R367: a trap followed at once by the return from it leaves the strand's registers, predicates, loop stack, buffer, mode, ie and
prio as they were, with the pc at the trap's epc where that is a multiple of 4 and csr_status has zeros in its zero fields. -/
def trapThenReturnRule : Prop :=
  ∀ (t : Strand) (tvec : Word) (cause : Cause) (tval epc : Word), epc.toNat % 4 = 0 → (t.status &&& ~~~0x33) = 0 →
    let u := (t.pushTrap tvec cause tval epc).popTrap
    (∀ r : Reg, u.getX r = t.getX r) ∧ u.p = t.p ∧ u.loops = t.loops ∧ u.buffer = t.buffer ∧ u.status = t.status ∧
      u.traps = t.traps ∧ u.pc = epc
end Sys2Proof.Slice0

/-- R341, R367: eret restores what a trap saved. -/
def Obligations.TrapReturn : Prop :=
  Sys2Proof.Slice0.returnFromTrapRule ∧ Sys2Proof.Slice0.trapThenReturnRule

namespace Sys2Proof.Slice0
/-- R365: nop only advances; yield moves the strand to the end of its prio's order and advances; halt, with no trap pending,
performs the strand's buffered stores and stops the strand for good. -/
def nopYieldHaltRule : Prop :=
  (∀ (g : Pred) (s : State), exec (.nop g) s = .next (s.setMe (s.me.complete 4))) ∧
  (∀ (g : Pred) (s : State), s.me.getP g = true →
    ∃ t, exec (.yield g) s = .next t ∧ t.crew s.cur.core = ({ s.mine with
        lastIssued := tset s.mine.lastIssued s.me.prio s.cur.strand
        yielded := some s.cur.strand } : Crew).setStrand s.cur.strand (s.me.complete 4)) ∧
  (∀ (g : Pred) (s : State), s.me.getP g = true → s.me.pending = [] →
    ∃ t, exec (.halt g) s = .next t ∧ (t.strandAt s.cur.core s.cur.strand).halted = true ∧
      (t.strandAt s.cur.core s.cur.strand).buffer = [] ∧ (t.strandAt s.cur.core s.cur.strand).x = s.me.x)
end Sys2Proof.Slice0

/-- R365, R366: trap, brk, nop, yield and halt. -/
def Obligations.SystemInstructions : Prop :=
  Sys2Proof.Slice0.softwareTrapsRule ∧ Sys2Proof.Slice0.nopYieldHaltRule

namespace Sys2Proof.Slice0

/-! ### Memory (R2, R115, R127 to R134) -/

/-- Byte i of a value, least significant first (R2). -/
def byteOf (v : Nat) (i : Nat) : Byte := BitVec.ofNat 8 (v / 256 ^ i)

/-- The n low bytes of a value, least significant first. -/
def lowBytes (n v : Nat) : List Byte := (List.range n).map (byteOf v)

/-- A loaded value of n bytes in a register: sign-extended for sz 0 to 3, zero-extended for 4 to 6 (R51). -/
def loaded (z n v : Nat) : Word := if z ≤ 3 then BitVec.ofInt 64 (BitVec.ofNat (8 * n) v).toInt else BitVec.ofNat 64 (v % 2 ^ (8 * n))

/-- The scratchpad size of R115. -/
def scratchBytes (part : BitVec 32) : Nat :=
  let vpriv := part.toNat % 4
  let vshared := part.toNat / 4 % 4
  let acc64 := part.toNat / 16 % 256
  4194304 - (65536 * acc64 + 256 * (4 * (32 * (vpriv + 1)) + (if vshared = 0 then 0 else 32 * 2 ^ (vshared - 1))))

/-- Every memory of the machine is in its canonical form: device HBM, host memory, and the pool of each core's crew. -/
def memoriesWf (s : State) : Prop := Memory.wf s.hbm = true ∧ Memory.wf s.host = true ∧ ∀ c, Memory.wf (s.crew c).pool = true

/-- A place of the device's own memory or, with a host link up, of the host's. -/
def localPlace (s : State) : Loc → Bool
  | .pool _ _ => true
  | .hbm _ => true
  | .host _ => s.hostUp
  | _ => false

/-- A scratchpad load or store: sz code, base, offset, guard. -/
def spRow : Instr → Option (Nat × Reg × BitVec 8 × Pred)
  | .ldSp _ a z o g => some (z.toNat, a, o, g)
  | .stSp _ a z o g => some (z.toNat, a, o, g)
  | _ => none

/-- A global load: destination, effective address, sz code, guard (R129 to R131). -/
def globalLoad (t : Strand) : Instr → Option (Reg × Word × Nat × Pred)
  | .ldGl d a z o g => some (d, BitVec.ofInt 64 ((t.getX a).toInt + o.toInt * 2 ^ (z.toNat % 4)), z.toNat, g)
  | .ldGlL d a z w2 g => some (d, BitVec.ofInt 64 ((t.getX a).toInt + w2.toInt), z.toNat, g)
  | .ldAcq d a z c g => if c.toNat ≤ 5 then some (d, t.getX a, z.toNat, g) else none
  | _ => none

/-- A global store: value, effective address, sz code, guard (R129 to R131). -/
def globalStore (t : Strand) : Instr → Option (Word × Word × Nat × Pred)
  | .stGl x a z o g => some (t.getX x, BitVec.ofInt 64 ((t.getX a).toInt + o.toInt * 2 ^ (z.toNat % 4)), z.toNat, g)
  | .stGlL x a z w2 g => some (t.getX x, BitVec.ofInt 64 ((t.getX a).toInt + w2.toInt), z.toNat, g)
  | .stRel x a z c g => if c.toNat ≤ 5 then some (t.getX x, t.getX a, z.toNat, g) else none
  | _ => none

/-- The smaller or larger of two values under a reading of them as integers. -/
def smaller (f : Nat → Int) (m o : Nat) : Nat := if f m < f o then m else o
def larger (f : Nat → Int) (m o : Nat) : Nat := if f o < f m then m else o

/-- An atomic (Table 5.7, R134): d, address register, operand register, is the order a release, bits, guard, the new value from the old
one m, the operand o and the compare value cmp, and does the returned value sign-extend. -/
def atomicRow : Instr → Option (Reg × Reg × Reg × Bool × Nat × Pred × (Nat → Nat → Nat → Nat) × Bool)
  | .amoAdd d a b _ r w g => let n := if w then 64 else 32; some (d, a, b, r.getLsbD 1, n, g, fun m o _ => (m + o) % 2 ^ n, true)
  | .amoAnd d a b _ r w g => let n := if w then 64 else 32; some (d, a, b, r.getLsbD 1, n, g, fun m o _ => m &&& o, true)
  | .amoOr d a b _ r w g => let n := if w then 64 else 32; some (d, a, b, r.getLsbD 1, n, g, fun m o _ => m ||| o, true)
  | .amoXor d a b _ r w g => let n := if w then 64 else 32; some (d, a, b, r.getLsbD 1, n, g, fun m o _ => m ^^^ o, true)
  | .amoMin d a b _ r w g =>
    let n := if w then 64 else 32
    some (d, a, b, r.getLsbD 1, n, g, fun m o _ => smaller (fun v => (BitVec.ofNat n v).toInt) m o, true)
  | .amoMax d a b _ r w g =>
    let n := if w then 64 else 32
    some (d, a, b, r.getLsbD 1, n, g, fun m o _ => larger (fun v => (BitVec.ofNat n v).toInt) m o, true)
  | .amoMinn d a b _ r w g => some (d, a, b, r.getLsbD 1, if w then 64 else 32, g, fun m o _ => smaller (fun v => (v : Int)) m o, true)
  | .amoMaxn d a b _ r w g => some (d, a, b, r.getLsbD 1, if w then 64 else 32, g, fun m o _ => larger (fun v => (v : Int)) m o, true)
  | .amoSwap d a b _ r w g => some (d, a, b, r.getLsbD 1, if w then 64 else 32, g, fun _ o _ => o, true)
  | .amoCas d a b _ r w g => some (d, a, b, r.getLsbD 1, if w then 64 else 32, g, fun m o cmp => if m = cmp then o else m, true)
  | .amoFaddF32 d a b _ r g => some (d, a, b, r.getLsbD 1, 32, g, fun m o _ => addFloat 6 m o, false)
  | .amoFaddBf16x2 d a b _ r g =>
    some (d, a, b, r.getLsbD 1, 32, g, fun m o _ => addFloat 7 (m % 65536) (o % 65536) + 65536 * addFloat 7 (m / 65536) (o / 65536), false)
  | _ => none

/-- The code of an atomic of Table 5.7 in a strand's record of an access outside the device. -/
def atomicCode : Instr → Nat
  | .amoAnd .. => 1
  | .amoOr .. => 2
  | .amoXor .. => 3
  | .amoMin .. => 4
  | .amoMax .. => 5
  | .amoMinn .. => 6
  | .amoMaxn .. => 7
  | .amoSwap .. => 8
  | .amoCas .. => 9
  | .amoFaddF32 .. => 10
  | .amoFaddBf16x2 .. => 11
  | _ => 0

/-- The old value that an atomic of a code and a width of n bits returns (Table 5.7). -/
def atomicOld (op n v : Nat) : Word := if op < 10 then BitVec.ofInt 64 (BitVec.ofNat n v).toInt else BitVec.ofNat 64 (v % 2 ^ n)

/-- A cache form (R130): address register, does its scope reach every slice, guard. -/
def cacheRow : Instr → Option (Reg × Bool × Pred)
  | .clWb a c g => some (a, decide (3 ≤ c.toNat), g)
  | .clInv a c g => some (a, decide (3 ≤ c.toNat), g)
  | .clWbinv a c g => some (a, decide (3 ≤ c.toNat), g)
  | _ => none

end Sys2Proof.Slice0

/-- R2: n bytes of a value stored in a memory in canonical form read back as the value cut to n bytes, least significant byte first;
and every other byte is as it was. -/
def Obligations.MemoryReadAfterWrite : Prop :=
  (∀ (m : Memory) (a n v : Nat), Memory.wf m = true → mnat (mput m a n v) a n = v % 256 ^ n) ∧
  (∀ (m : Memory) (a : Nat) (bs : List Byte) (i : Nat), Memory.wf m = true → i < bs.length → mget (msetN m a bs) (a + i) = bs.getD i 0) ∧
  (∀ (m : Memory) (a : Nat) (bs : List Byte) (x : Nat), Memory.wf m = true → (x < a ∨ a + bs.length ≤ x) → mget (msetN m a bs) x = mget m x)

namespace Sys2Proof.Slice0
/-- R117, R127, R129: an aligned ld.sp within the scratchpad whose granules are not poisoned loads its bytes, the strand's buffered stores
seen first, sign- or zero-extended into x[d], and passes its word; nothing else changes. An aligned ld.sp.d of a control range loads the
word as last written (R118). -/
def scratchpadLoadRule : Prop :=
  (∀ (d a : Reg) (z : BitVec 3) (o : BitVec 8) (g : Pred) (s : State) (ea : Word) (n : Nat), s.me.getP g = true → z.toNat ≤ 6 →
    n = 2 ^ (z.toNat % 4) → ea = BitVec.ofInt 64 ((s.me.getX a).toInt + o.toInt * n) → ea.toNat % n = 0 →
    ea.toNat < scratchBytes s.mine.info.part → s.poisonedAt (.pool s.cur.core ea.toNat) n = false →
    exec (.ldSp d a z o g) s = .next (s.setMe ((s.me.setX d
      (loaded z.toNat n (ofBytes (s.loadBytes s.cur.core s.cur.strand (.pool s.cur.core ea.toNat) n)))).complete 4))) ∧
  (∀ (d a : Reg) (o : BitVec 8) (g : Pred) (s : State) (ea : Word), s.me.getP g = true →
    ea = BitVec.ofInt 64 ((s.me.getX a).toInt + o.toInt * 8) → ea.toNat % 8 = 0 → 0x400000 ≤ ea.toNat → ea.toNat < 0x400180 →
    exec (.ldSp d a 3 o g) s = .next (s.setMe ((s.me.setX d (if ea.toNat < 0x400100
      then tget s.mine.entries ((ea.toNat - 0x400000) / 8) 0 else tget s.mine.maps ((ea.toNat - 0x400100) / 8) 0)).complete 4)))
end Sys2Proof.Slice0

namespace Sys2Proof.Slice0
/-- R127, R129: an aligned st.sp within the scratchpad whose strand has a free buffer entry posts the low bytes of its register there and passes its word;
with the buffer full the strand waits and nothing changes. An aligned st.sp.d of an unregistered entry's fields or of a multicast map
writes the word (R118). -/
def scratchpadStoreRule : Prop :=
  (∀ (x a : Reg) (z : BitVec 2) (o : BitVec 8) (g : Pred) (s : State) (ea : Word) (n : Nat), s.me.getP g = true →
    n = 2 ^ z.toNat → ea = BitVec.ofInt 64 ((s.me.getX a).toInt + o.toInt * n) → ea.toNat % n = 0 →
    ea.toNat < scratchBytes s.mine.info.part →
    exec (.stSp x a z o g) s = .next (if s.me.buffer.length < 16 then
        s.setMe (({ s.me with buffer := s.me.buffer ++ [⟨.sp ea.toNat, lowBytes n (s.me.getX x).toNat, 0⟩] } : Strand).complete 4)
      else s)) ∧
  (∀ (x a : Reg) (o : BitVec 8) (g : Pred) (s : State) (ea : Word), s.me.getP g = true →
    ea = BitVec.ofInt 64 ((s.me.getX a).toInt + o.toInt * 8) → ea.toNat % 8 = 0 → 0x400100 ≤ ea.toNat → ea.toNat < 0x400180 →
    (s.me.getX x).toNat < 2 ^ 48 → ∃ t, exec (.stSp x a 3 o g) s = .next t ∧ t.me = s.me.complete 4 ∧
      t.mine.maps = tset s.mine.maps ((ea.toNat - 0x400100) / 8) (s.me.getX x) ∧ t.mine.entries = s.mine.entries) ∧
  (∀ (x a : Reg) (o : BitVec 8) (g : Pred) (s : State) (ea : Word), s.me.getP g = true →
    ea = BitVec.ofInt 64 ((s.me.getX a).toInt + o.toInt * 8) → ea.toNat % 8 = 0 → 0x400000 ≤ ea.toNat → ea.toNat < 0x400100 →
    (tget s.mine.entries (4 * ((ea.toNat - 0x400000) / 32)) 0).getLsbD 0 = false → ea.toNat % 32 ≠ 0 →
    ∃ t, exec (.stSp x a 3 o g) s = .next t ∧ t.me = s.me.complete 4 ∧
      t.mine.entries = tset s.mine.entries ((ea.toNat - 0x400000) / 8) (s.me.getX x) ∧ t.mine.maps = s.mine.maps)
end Sys2Proof.Slice0

/-- R117, R127: loads and stores of the scratchpad. -/
def Obligations.ScratchpadAccess : Prop :=
  Sys2Proof.Slice0.scratchpadLoadRule ∧ Sys2Proof.Slice0.scratchpadStoreRule

/-- R128: the checks of scratchpad accesses in their order: MISALIGNED; BOUNDS outside every range; CONFIG for a control-range access of another size;
each with tval ea, nothing loaded or stored. -/
def Obligations.ScratchpadTraps : Prop :=
  ∀ (i : Instr) (a : Reg) (z n : Nat) (o : BitVec 8) (g : Pred) (s : State) (ea : Word), spRow i = some (z, a, o, g) → s.me.getP g = true →
    n = 2 ^ (z % 4) → ea = BitVec.ofInt 64 ((s.me.getX a).toInt + o.toInt * n) →
    (ea.toNat % n ≠ 0 → exec i s = .next (s.takeTrap 0x03 ea)) ∧
    (ea.toNat % n = 0 → scratchBytes s.mine.info.part ≤ ea.toNat → (ea.toNat < 0x400000 ∨ 0x400180 ≤ ea.toNat) →
      exec i s = .next (s.takeTrap 0x08 ea)) ∧
    (ea.toNat % n = 0 → 0x400000 ≤ ea.toNat → ea.toNat < 0x400180 → n ≠ 8 → exec i s = .next (s.takeTrap 0x0E ea))

namespace Sys2Proof.Slice0
/-- R127: a load of the sp space by a strand after its own st.sp to the same bytes returns the bytes stored, whatever memory holds. -/
def storeForwardingRule : Prop :=
  ∀ (x d a : Reg) (z : BitVec 2) (o : BitVec 8) (g : Pred) (s t : State) (ea : Word) (n : Nat), s.me.getP g = true → n = 2 ^ z.toNat →
    ea = BitVec.ofInt 64 ((s.me.getX a).toInt + o.toInt * n) → ea.toNat % n = 0 → ea.toNat < scratchBytes s.mine.info.part →
    s.me.buffer.length < 16 → exec (.stSp x a z o g) s = .next t →
    exec (.ldSp d a (z.setWidth 3) o g) t =
      .next (t.setMe ((t.me.setX d (loaded z.toNat n ((s.me.getX x).toNat % 256 ^ n))).complete 4))
end Sys2Proof.Slice0

namespace Sys2Proof.Slice0
/-- R127: the oldest buffered store of a strand, where no sparse-update unit owns its line (R88), is performed: its bytes stand at its place, every other byte of the device's memory is as it was, and
the strand keeps everything but that entry of its buffer. -/
def bufferedStorePerformedRule : Prop :=
  ∀ (c k : Nat) (s : State) (b : BufStore) (bs : List BufStore), memoriesWf s → (s.strandAt c k).buffer = b :: bs → s.storeWaits b = false →
    ∃ t, exec (.storeBufferDrain c k) s = .next t ∧ t.strandAt c k = { s.strandAt c k with buffer := bs } ∧
      (∀ i, i < b.bytes.length → (∀ d x, s.bufLoc c b.addr ≠ .remote d x) → (∀ x, s.bufLoc c b.addr ≠ .none x) →
        t.rawByte ((s.bufLoc c b.addr).plus i) = b.bytes.getD i 0) ∧
      (∀ l : Loc, (∀ i, i < b.bytes.length → l ≠ (s.bufLoc c b.addr).plus i) → t.rawByte l = s.rawByte l)
end Sys2Proof.Slice0

/-- R127, R129: a strand sees its own buffered stores, and the oldest is performed first. -/
def Obligations.StoreBuffers : Prop :=
  Sys2Proof.Slice0.storeForwardingRule ∧ Sys2Proof.Slice0.bufferedStorePerformedRule

namespace Sys2Proof.Slice0
/-- R128 to R131: an aligned global load whose address translates to a byte of the device's own memory, or of the host's behind a link that is up, and
whose granules are not poisoned, loads its bytes into x[d] and passes the instruction; no byte of memory changes beside what the page walk
marks. A misaligned one traps with MISALIGNED. -/
def globalLoadRule : Prop :=
  (∀ (i : Instr) (d : Reg) (ea : Word) (z pa leaf : Nat) (g : Pred) (s s1 : State), globalLoad s.me i = some (d, ea, z, g) →
    s.me.getP g = true → z ≤ 6 → ea.toNat % 2 ^ (z % 4) = 0 → s.scalarReach ea.toNat (2 ^ (z % 4)) s.needLoad = (.ok pa leaf, s1) →
    localPlace s1 (s1.locOf pa) = true → s1.poisonedAt (s1.locOf pa) (2 ^ (z % 4)) = false →
    ∃ t, exec i s = .next t ∧ t.me = (s.me.setX d (loaded z (2 ^ (z % 4))
        (ofBytes (s1.loadBytes s.cur.core s.cur.strand (s1.locOf pa) (2 ^ (z % 4)))))).complete (lengthOf i) ∧
      ∀ l, t.rawByte l = s1.rawByte l) ∧
  (∀ (i : Instr) (d : Reg) (ea : Word) (z : Nat) (g : Pred) (s : State), globalLoad s.me i = some (d, ea, z, g) →
    s.me.getP g = true → ea.toNat % 2 ^ (z % 4) ≠ 0 → exec i s = .next (s.takeTrap 0x03 ea))
end Sys2Proof.Slice0

namespace Sys2Proof.Slice0
/-- R127 to R131: an aligned global store whose address translates to a byte of device HBM or of a window that takes the write, by a strand with a free
buffer entry, is posted behind the strand's earlier stores and passes the instruction; no byte of memory changes yet beside what the page walk marks. To
host memory behind a link that is up it is performed at once. A misaligned one traps with MISALIGNED. -/
def globalStoreRule : Prop :=
  (∀ (i : Instr) (v ea : Word) (z pa leaf : Nat) (g : Pred) (s s1 : State), globalStore s.me i = some (v, ea, z, g) →
    s.me.getP g = true → ea.toNat % 2 ^ (z % 4) = 0 → s.scalarReach ea.toNat (2 ^ (z % 4)) s.needStore = (.ok pa leaf, s1) →
    ((∃ x, s1.locOf pa = .hbm x) ∨ (∃ c x, s1.locOf pa = .pool c x)) → s1.windowWritable s.cur.core pa = true → s.me.buffer.length < 16 →
    ∃ t, exec i s = .next t ∧ t.me = ({ s.me with
        buffer := s.me.buffer ++ [⟨.phys pa, lowBytes (2 ^ (z % 4)) v.toNat, leafPolicy leaf⟩] } : Strand).complete (lengthOf i) ∧
      ∀ l, t.rawByte l = s1.rawByte l) ∧
  (∀ (i : Instr) (v ea : Word) (z pa leaf x : Nat) (g : Pred) (s s1 : State), globalStore s.me i = some (v, ea, z, g) →
    s.me.getP g = true → ea.toNat % 2 ^ (z % 4) = 0 → s.scalarReach ea.toNat (2 ^ (z % 4)) s.needStore = (.ok pa leaf, s1) →
    s1.locOf pa = .host x → s1.hostUp = true → memoriesWf s1 →
    ∃ t, exec i s = .next t ∧ t.me.pc = (s.me.complete (lengthOf i)).pc ∧ t.me.x = s.me.x ∧
      ∀ j, j < 2 ^ (z % 4) → t.rawByte (.host (x + j)) = byteOf v.toNat j) ∧
  (∀ (i : Instr) (v ea : Word) (z : Nat) (g : Pred) (s : State), globalStore s.me i = some (v, ea, z, g) →
    s.me.getP g = true → ea.toNat % 2 ^ (z % 4) ≠ 0 → exec i s = .next (s.takeTrap 0x03 ea))
end Sys2Proof.Slice0

/-- R126, R127: loads and stores of the global space within the device. -/
def Obligations.GlobalAccess : Prop :=
  Sys2Proof.Slice0.globalLoadRule ∧ Sys2Proof.Slice0.globalStoreRule

namespace Sys2Proof.Slice0
/-- R127, R128: an aligned global load or store whose address lies on another device is sent where a route is up, and holds its strand for the answer,
nothing else of the strand changing; where every route has failed it traps with FABRIC_UNREACHABLE, tval the device. R132 to R134: so does an aligned atomic,
with its operation, operand and compare value, once the strand's earlier stores are performed and the leaf is marked dirty, but for a cas, whose compare is made at
the other device; one of a float operation at a page without aproxy traps with ATOMIC_PATH. -/
def remoteAccessSentRule : Prop :=
  (∀ (i : Instr) (d : Reg) (ea : Word) (z pa leaf dev x : Nat) (g : Pred) (s s1 : State), globalLoad s.me i = some (d, ea, z, g) →
    s.me.getP g = true → z ≤ 6 → ea.toNat % 2 ^ (z % 4) = 0 → s.scalarReach ea.toNat (2 ^ (z % 4)) s.needLoad = (.ok pa leaf, s1) →
    s1.locOf pa = .remote dev x → if s1.routeUp dev then
      (∃ t p, exec i s = .next t ∧ t.me = { s.me with hold := .response p } ∧ p.dest = d.toNat ∧ p.size = 2 ^ (z % 4) ∧ p.store = false ∧
        (t.flow dev 0).unacked.length = (s1.flow dev 0).unacked.length + 1)
      else exec i s = .next (s1.takeTrap 0x10 (BitVec.ofNat 64 dev))) ∧
  (∀ (i : Instr) (v ea : Word) (z pa leaf dev x : Nat) (g : Pred) (s s1 : State), globalStore s.me i = some (v, ea, z, g) →
    s.me.getP g = true → ea.toNat % 2 ^ (z % 4) = 0 → s.scalarReach ea.toNat (2 ^ (z % 4)) s.needStore = (.ok pa leaf, s1) →
    s1.locOf pa = .remote dev x → if s1.routeUp dev then
      (∃ t p, exec i s = .next t ∧ t.me.hold = .response p ∧ p.store = true ∧ p.bytes = lowBytes (2 ^ (z % 4)) v.toNat ∧ t.me.x = s.me.x ∧
        t.me.pc = s.me.pc ∧ (t.flow dev 0).unacked.length = (s1.flow dev 0).unacked.length + 1)
      else exec i s = .next (s1.takeTrap 0x10 (BitVec.ofNat 64 dev))) ∧
  (∀ (i : Instr) (d a b : Reg) (rel sgn : Bool) (n : Nat) (g : Pred) (f : Nat → Nat → Nat → Nat) (s s1 s2 s3 : State) (pa leaf pa2 leaf2 dev x : Nat),
    atomicRow i = some (d, a, b, rel, n, g, f, sgn) → s.me.getP g = true → (s.me.getX a).toNat % (n / 8) = 0 →
    s.scalarReach (s.me.getX a).toNat (n / 8) (s.needAtomic false) = (.ok pa leaf, s1) → s1.locOf pa = .remote dev x →
    s2 = (if rel then s1.drainStrand s.cur.core s.cur.strand else s1.drainOverlap s.cur.core s.cur.strand (.remote dev x) (n / 8)) →
    (sgn = false → leafAproxy leaf = false → exec i s = .next (s1.takeTrap 0x07 (s.me.getX a))) ∧
    ((sgn = true ∨ leafAproxy leaf = true) → s2.routeUp dev = false → exec i s = .next (s2.takeTrap 0x10 (BitVec.ofNat 64 dev))) ∧
    ((sgn = true ∨ leafAproxy leaf = true) → s2.routeUp dev = true →
      ((∃ d a b c r w g, i = .amoCas d a b c r w g) → s3 = s2) →
      ((∀ d a b c r w g, i ≠ .amoCas d a b c r w g) →
        s2.reach s.cur.core s.cur.strand (s.me.getX a).toNat (n / 8) (s2.needAtomic true) = (.ok pa2 leaf2, s3)) →
      ∃ t p, exec i s = .next t ∧ t.me.hold = .response p ∧ t.me.x = s.me.x ∧ t.me.pc = s.me.pc ∧ p.dest = d.toNat ∧ p.size = n / 8 ∧
        p.store = false ∧ p.watch = none ∧ p.ea = (s.me.getX a).toNat ∧ p.len = 8 ∧ p.atomic = some (atomicCode i, s.me.getX b, s.me.getX d) ∧
        (∀ l, t.rawByte l = s3.rawByte l) ∧ (t.flow dev 2).unacked.length = (s3.flow dev 2).unacked.length + 1))
end Sys2Proof.Slice0

/-- R132, R134: an aligned atomic on a byte of the device's own memory (or the host's, where the route carries it) that is not poisoned, lies in no spill ring
in use and has no update waiting in its unit writes the new value of
Table 5.7 there in one step, returns the old one in x[d], and passes its two words. The strand's buffer is first drained, wholly for a release and else as
far as a store overlaps the target. -/
def Obligations.AtomicResult : Prop :=
  ∀ (i : Instr) (d a b : Reg) (rel sgn : Bool) (n : Nat) (g : Pred) (f : Nat → Nat → Nat → Nat) (s s1 s2 s3 : State) (pa leaf pa2 leaf2 : Nat)
    (l : Loc), atomicRow i = some (d, a, b, rel, n, g, f, sgn) → s.me.getP g = true → (s.me.getX a).toNat % (n / 8) = 0 →
    s.scalarReach (s.me.getX a).toNat (n / 8) (s.needAtomic false) = (.ok pa leaf, s1) → s1.locOf pa = l →
    (∀ x, l = .host x → leafPolicy leaf ≠ 2) →
    s2 = (if rel then s1.drainStrand s.cur.core s.cur.strand else s1.drainOverlap s.cur.core s.cur.strand l (n / 8)) →
    localPlace s2 l = true → (∀ x, l ≠ .host x → s2.windowWritable s.cur.core pa = true) → s2.updatePending l (n / 8) = false →
    s2.poisonedAt l (n / 8) = false → s2.bytesAt l (n / 8) = s2.rawBytes l (n / 8) →
    s2.reach s.cur.core s.cur.strand (s.me.getX a).toNat (n / 8) (s2.needAtomic true) = (.ok pa2 leaf2, s3) → memoriesWf s3 →
    ∃ t, exec i s = .next t ∧
      ofBytes (t.rawBytes l (n / 8)) = f (ofBytes (s2.rawBytes l (n / 8))) ((s.me.getX b).toNat % 2 ^ n) ((s.me.getX d).toNat % 2 ^ n) % 2 ^ n ∧
      t.me.pc = (s.me.complete 8).pc ∧
      (∀ r, t.me.getX r = if r = d ∧ d ≠ 0 then (if sgn = true then BitVec.ofInt 64 (BitVec.ofNat n (ofBytes (s2.rawBytes l (n / 8)))).toInt
        else BitVec.ofNat 64 (ofBytes (s2.rawBytes l (n / 8)))) else s.me.getX r)

namespace Sys2Proof.Slice0
/-- R130: pf never traps, and changes no register and no byte of memory; the strand passes it. -/
def prefetchResultRule : Prop :=
  ∀ (a : Reg) (c : BitVec 3) (g : Pred) (s : State), s.me.getP g = true →
    ∃ t, exec (.pf a c g) s = .next t ∧ t.me = s.me.complete 4 ∧ ∀ l, t.rawByte l = s.rawByte l
end Sys2Proof.Slice0

namespace Sys2Proof.Slice0
/-- R130: a cache form on a line of device HBM, or of the host window behind a link that is up, that lies in no window performs the strand's stores and passes its word. cl.wb
leaves no dirty copy in the slices its scope reaches; cl.inv removes the line from them where it is clean, from every slice at a scope of .dv or wider, and leaves a dirty copy; cl.wbinv
does both. No byte of memory changes beside the strand's own stores and what the page walk marks. -/
def cacheFormsRule : Prop :=
  ∀ (i : Instr) (a : Reg) (wide : Bool) (pa leaf : Nat) (g : Pred) (s s1 s2 : State), cacheRow i = some (a, wide, g) → s.me.getP g = true →
    s.scalarReach (s.me.getX a).toNat 1 s.needLoad = (.ok pa leaf, s1) → s1.cutOff (s1.locOf pa) = none → s2 = s1.drainStrand s.cur.core s.cur.strand →
    leafPolicy leaf ≠ 2 → isFabricPa pa = false → (isHbmPa pa = true → windowByte s2.windows pa = none) →
    ∃ t, exec i s = .next t ∧ t.me = ({ s.me with buffer := [] } : Strand).complete 4 ∧ (∀ l, t.rawByte l = s2.rawByte l) ∧
      ((∃ c g', i = .clWb a c g') ∨ (∃ c g', i = .clWbinv a c g') →
        (t.line (pa / 128)).dirty = true → wide = false ∧ (s2.line (pa / 128)).owner ≠ some (s.cur.core / 8)) ∧
      ((∃ c g', i = .clInv a c g') → (s2.line (pa / 128)).dirty = true → t.line (pa / 128) = s2.line (pa / 128)) ∧
      ((∃ c g', i = .clInv a c g') ∨ (∃ c g', i = .clWbinv a c g') → (t.line (pa / 128)).dirty = false → wide = false →
        smem (t.line (pa / 128)).sharers (s.cur.core / 8) = false) ∧
      ((∃ c g', i = .clInv a c g') → (s2.line (pa / 128)).dirty = false → wide = true → t.line (pa / 128) = emptyLine) ∧
      ((∃ c g', i = .clWbinv a c g') → wide = true → t.line (pa / 128) = emptyLine)
end Sys2Proof.Slice0

/-- R45, R46: where the words at the pc of a strand that no other condition holds can be had, the fetch ends with the strand held no more; R80: a
withheld access whose page is now there, and that no earlier one to the page waits before (R111), goes on: the strand executes its instruction again, the access
keeping its place at the directory until then (the model's reading, log 16). R89: an atomic held for an update of its bytes goes on once the update has been applied. -/
def Obligations.FetchAndWithheldProceed : Prop :=
  (∀ (c k : Nat) (s s1 : State) (w v : Half), (s.strandAt c k).present = true → (s.strandAt c k).halted = false → (s.crew c).stopped = false →
    s.atMonitor c k = false → ((s.strandAt c k).hold = .none ∨ ∃ va n, (s.strandAt c k).hold = .fetch va n) →
    s.fetch c k = (.words w v, s1) →
    exec (.instructionFetch c k) s = .next (s1.setStrandAt c k { s.strandAt c k with hold := .none })) ∧
  (∀ (c k va n : Nat) (s : State), (s.strandAt c k).hold = .withheld va n → s.stillWithheld c k va = false →
    exec (.withheldAccessProceed c k) s = .next (s.setStrandAt c k { s.strandAt c k with hold := .freed va n })) ∧
  (∀ (c k pa n : Nat) (s : State), (s.strandAt c k).hold = .unit pa n → s.updatePending (s.locOf pa) n = false →
    exec (.withheldAccessProceed c k) s = .next (s.setStrandAt c k { s.strandAt c k with hold := .none }))

namespace Sys2Proof.Slice0
/-- R127: the answer to a load sent out is written to its register and the instruction completes, and so is the old value of an atomic, as Table 5.7 returns it (R132 to
R134), the leaf of a cas whose compare held at the other device marked dirty; the acknowledgement of a store completes it; a poisoned answer traps with
POISON_CONSUMED. -/
def scalarAnswerRule : Prop :=
  (∀ (c k : Nat) (data : Word) (s : State) (p : Pending), (s.strandAt c k).hold = .response p → p.store = false → p.size ≤ 8 →
    p.atomic = none → p.watch = none → exec (.scalarAccessResponse c k data false) s =
      .next (s.setStrandAt c k (((s.strandAt c k).setX (BitVec.ofNat 6 p.dest)
        (loaded (if p.sext then 0 else 4) p.size data.toNat)).complete p.len))) ∧
  (∀ (c k op : Nat) (o cmp data : Word) (s : State) (p : Pending), (s.strandAt c k).hold = .response p → p.store = false → (p.size = 4 ∨ p.size = 8) →
    p.atomic = some (op, o, cmp) → p.watch = none → exec (.scalarAccessResponse c k data false) s =
      .next ((if op = 9 ∧ data.toNat % 2 ^ (8 * p.size) = cmp.toNat % 2 ^ (8 * p.size) then
          (s.translate (c / 8) (s.crew c).info.ctx p.ea ⟨true, true, false, (s.strandAt c k).monitor, true⟩).2 else s).setStrandAt c k
        (((s.strandAt c k).setX (BitVec.ofNat 6 p.dest) (atomicOld op (8 * p.size) data.toNat)).complete p.len))) ∧
  (∀ (c k : Nat) (data : Word) (poisoned : Bool) (s : State) (p : Pending), (s.strandAt c k).hold = .response p → p.store = true →
    exec (.scalarAccessResponse c k data poisoned) s = .next (s.setStrandAt c k ((s.strandAt c k).complete p.len))) ∧
  (∀ (c k : Nat) (data : Word) (s : State) (p : Pending), (s.strandAt c k).hold = .response p → p.store = false → p.size ≤ 8 →
    exec (.scalarAccessResponse c k data true) s = .next (s.takeTrapAt c k 0x09 (BitVec.ofNat 64 p.ea) (s.strandAt c k).pc))
end Sys2Proof.Slice0

/-- R127, R128: a scalar access outside the device is sent and waited for, and its answer completes it. -/
def Obligations.RemoteAccess : Prop :=
  Sys2Proof.Slice0.remoteAccessSentRule ∧ Sys2Proof.Slice0.scalarAnswerRule

/-- R121, R123: a registration whose checks hold binds the frames that the pages of the window translate to, behind the windows that stand, recalls their lines from the
slices, copies them into the region where fill is set, sets the entry's word and lets the strand go on; an unregistration, once no update of its region waits in the
core's unit, writes every line of the region to its backing frame, leaves no window of the entry, and lets the strand go on; a dirty line written back lazily stands at
its backing frame. -/
def Obligations.WindowSteps : Prop :=
  (∀ (c j k : Nat) (v : Word) (frames : List Nat) (s u s' : State), (s.crew c).windowHolder j = some (k, v) → v.getLsbD 0 = true →
    (s.crew c).stopped = false → u = s.drainStrand c k → 1 ≤ (u.crew c).entryField j 3 → (u.crew c).entryField j 3 ≤ 63 →
    (u.crew c).entryField j 1 % 65536 = 0 → (u.crew c).entryField j 2 % 65536 = 0 → (u.crew c).entryField j 2 < 2 ^ 56 →
    (u.crew c).entryField j 1 + 65536 * (u.crew c).entryField j 3 ≤ (u.crew c).spSize →
    u.windowFrames c ((u.crew c).entryField j 2) ((u.crew c).entryField j 3) = ((frames, none), s') →
    s'.windowClash c j ((u.crew c).entryField j 1) ((u.crew c).entryField j 2) ((u.crew c).entryField j 3) frames = false → memoriesWf s' →
    ∃ t, exec (.windowRegister c j) s = .next t ∧ tget (t.crew c).entries (4 * j) 0 = v ∧
      t.windows = s'.windows ++ [⟨c, j, (u.crew c).entryField j 1, (u.crew c).entryField j 2, frames, v.getLsbD 2, []⟩] ∧
      (∀ f ∈ frames, ∀ i, i < 512 → t.line (f / 128 + i) = emptyLine) ∧ t.hbm = s'.hbm ∧
      (v.getLsbD 1 = true → ∀ n i, n < frames.length → i < 65536 →
        mget (t.crew c).pool ((u.crew c).entryField j 1 + 65536 * n + i) = mget s'.hbm (frames.getD n 0 + i)) ∧
      (v.getLsbD 1 = false → (t.crew c).pool = (s'.crew c).pool) ∧
      (t.strandAt c k).pc = ((s.strandAt c k).complete 4).pc ∧ (t.strandAt c k).hold = .none) ∧
  (∀ (c j k : Nat) (v : Word) (s u : State), (s.crew c).windowHolder j = some (k, v) → v.getLsbD 0 = false → (s.crew c).stopped = false →
    s.windowBusy c j = false → u = s.drainStrand c k →
    ∃ t, exec (.windowUnregister c j) s = .next t ∧ tget (t.crew c).entries (4 * j) 0 = v ∧
      t.windows.any (fun x => x.core == c && x.entry == j) = false ∧
      (∀ x, u.windows.find? (fun y => y.core == c && y.entry == j) = some x → x.frames.Nodup → (∀ f ∈ x.frames, f % 65536 = 0) →
        Memory.wf u.hbm = true → ∀ n i, n < x.frames.length → i < 65536 →
          mget t.hbm (x.frames.getD n 0 + i) = mget (u.crew c).pool (x.spoff + 65536 * n + i)) ∧
      (t.strandAt c k).pc = ((s.strandAt c k).complete 4).pc ∧ (t.strandAt c k).hold = .none) ∧
  (∀ (c j line : Nat) (x : Window) (s : State), s.windows.find? (fun y => y.core == c && y.entry == j) = some x → smem x.dirty line = true →
    Memory.wf s.hbm = true → ∃ t, exec (.lazyWriteback c j line) s = .next t ∧
      ∀ i, i < 128 → mget t.hbm (x.frames.getD (line / 512) 0 + 128 * (line % 512) + i) = mget (s.crew c).pool (x.spoff + 128 * line + i))

/-- R71, R316: a host access beyond device HBM stops with the fault noSuchAddress, since such an address does not exist; one within it over a host link that
is up, in service, that meets no line of a sparse-update unit, stores its bytes at their points of coherence or completes with the bytes there; within one
64 KiB frame these follow the place of its address. R85: a host write through CXL.cache lands in host memory
and removes the line from the slices; a host read leaves no dirty copy. -/
def Obligations.HostAccesses : Prop :=
  (∀ (a : Nat) (st : Option (List Byte)) (n : Nat) (s : State), 2 ^ 40 ≤ a → exec (.hostHdmAccess a st n) s = .fault (.noSuchAddress a)) ∧
  (∀ (a : Nat) (b : List Byte) (n : Nat) (s : State), a + b.length ≤ 2 ^ 40 → b ≠ [] → s.hostUp = true → (s.sys.service = 1 ∨ s.sys.service = 2) →
    s.homeUp a b.length = true → s.suuHolds a b.length = false → tget s.sys.tdisp 0 0 ≠ 3 → s.homeRefusal a b.length true = 0 → memoriesWf s →
    ∃ t, exec (.hostHdmAccess a (some b) n) s = .next t ∧ (a % 65536 + b.length ≤ 65536 →
      ∀ i, i < b.length → t.rawByte ((s.hbmLoc a).plus i) = b.getD i 0)) ∧
  (∀ (a n : Nat) (s : State), a + n ≤ 2 ^ 40 → n ≠ 0 → s.hostUp = true → (s.sys.service = 1 ∨ s.sys.service = 2) →
    s.homeUp a n = true → s.suuHolds a n = false → tget s.sys.tdisp 0 0 ≠ 3 → s.homeRefusal a n false = 0 →
    ∃ t, exec (.hostHdmAccess a none n) s = .next t ∧ t.sys.hostReads = s.homeBytes a n :: s.sys.hostReads ∧ t.hbm = s.hbm ∧
      (a % 65536 + n ≤ 65536 → s.homeBytes a n = s.bytesAt (s.hbmLoc a) n)) ∧
  (∀ (a : Nat) (b : List Byte) (s : State), a < 2 ^ 48 → Memory.wf s.host = true →
    ∃ t, exec (.cxlCacheSnoop a (some b)) s = .next t ∧ t.line ((2 ^ 48 + a) / 128) = emptyLine ∧
      ∀ i, i < b.length → a % 128 + i < 128 → mget t.host (a + i) = b.getD i 0) ∧
  (∀ (a : Nat) (s : State), a < 2 ^ 48 →
    ∃ t, exec (.cxlCacheSnoop a none) s = .next t ∧ (t.line ((2 ^ 48 + a) / 128)).dirty = false ∧ t.host = s.host)

namespace Sys2Proof.Slice0

/-! ### Synchronisation (R292 to R296) -/

/-- The conditions of waita: destination, address register, comparand register, guard, condition (R294). -/
def waitaRow : Instr → Option (Reg × Reg × Reg × Pred × (Word → Word → Prop))
  | .waitaEq d a b g => some (d, a, b, g, fun m v => m = v)
  | .waitaNe d a b g => some (d, a, b, g, fun m v => m ≠ v)
  | .waitaGe d a b g => some (d, a, b, g, fun m v => v.toInt ≤ m.toInt)
  | .waitaLt d a b g => some (d, a, b, g, fun m v => m.toInt < v.toInt)
  | .waitaGen d a b g => some (d, a, b, g, fun m v => v.toNat ≤ m.toNat)
  | _ => none

/-- What a held waita watches, with the condition that its code names. -/
def watchedRow (q : Watched) : Option (Reg × Reg × Reg × (Word → Word → Prop)) :=
  match q.cond with
  | 0 => some (q.d, q.a, q.b, fun m v => m = v)
  | 1 => some (q.d, q.a, q.b, fun m v => m ≠ v)
  | 2 => some (q.d, q.a, q.b, fun m v => v.toInt ≤ m.toInt)
  | 3 => some (q.d, q.a, q.b, fun m v => m.toInt < v.toInt)
  | 4 => some (q.d, q.a, q.b, fun m v => v.toNat ≤ m.toNat)
  | _ => none

/-! ### Strand records (Table 13.2) -/

/-- The 74 words of a strand record from 0x000 to 0x24F, for a strand with the epc, cause and tval given. -/
def recordWords (t : Strand) (epc cause tval : Word) : List Nat :=
  let level := fun (o : Option LoopLevel) => match o with
    | some l => [l.start.toNat, l.stop.toNat, l.remaining.toNat]
    | none => [0, 0, 0]
  [epc.toNat, cause.toNat, tval.toNat, ((List.range 7).map (fun i => if t.getP (BitVec.ofNat 3 (i + 1)) then 2 ^ (i + 1) else 0)).sum]
    ++ (List.range 63).map (fun i => (t.getX (BitVec.ofNat 6 (i + 1))).toNat)
    ++ [t.loops.length] ++ level t.loops.getLast? ++ level (if t.loops.length = 2 then t.loops.head? else none)

end Sys2Proof.Slice0

/-- R277, R293: wait and wait.dec go on exactly when the semaphore has reached n, and wait.dec then takes n off it; until then the strand waits and
nothing changes. sig adds v, stopping at 65,535 and setting its bit of csr_semsat where the sum exceeds that; sig.set stores v. A sig or sig.set has
every earlier store of the strand performed, and on f63 changes no semaphore. Of the updates of one cc a sig.set counts as the first, so what that cc has
already added is added to v, and a wait.dec as the last, so what it has taken is taken from the sum. -/
def Obligations.SemaphoreResult : Prop :=
  (∀ (f : Reg) (n : BitVec 16) (g : Pred) (s : State), s.me.getP g = true →
    exec (.wait f n g) s = .next (if n.toNat ≤ s.mine.sem f.toNat then s.setMe (s.me.complete 4) else s)) ∧
  (∀ (f : Reg) (n : BitVec 16) (g : Pred) (s : State), s.me.getP g = true → s.mine.sem f.toNat < n.toNat →
    exec (.waitDec f n g) s = .next s) ∧
  (∀ (f : Reg) (n : BitVec 16) (g : Pred) (s : State), s.me.getP g = true → f ≠ 63 → n.toNat ≤ s.mine.sem f.toNat →
    ∃ t, exec (.waitDec f n g) s = .next t ∧ t.me = s.me.complete 4 ∧
      ∀ j, t.mine.sem j = if j = f.toNat then s.mine.sem j - n.toNat else s.mine.sem j) ∧
  (∀ (f : Reg) (v : BitVec 16) (g : Pred) (s : State), s.me.getP g = true →
    ∃ t, exec (.sig f v g) s = .next t ∧ t.me = ({ s.me with buffer := [] } : Strand).complete 4 ∧
      (∀ j, t.mine.sem j = if j = f.toNat ∧ f ≠ 63 then Nat.min (65535 - (s.mine.semMove j).taken) (s.mine.sem j + v.toNat) else s.mine.sem j) ∧
      t.mine.semsat = s.mine.semsat |||
        (if f ≠ 63 ∧ 65535 < s.mine.sem f.toNat + (s.mine.semMove f.toNat).taken + v.toNat then BitVec.ofNat 64 (2 ^ f.toNat) else 0)) ∧
  (∀ (f : Reg) (v : BitVec 16) (g : Pred) (s : State), s.me.getP g = true →
    ∃ t, exec (.sigSet f v g) s = .next t ∧ t.me = ({ s.me with buffer := [] } : Strand).complete 4 ∧
      (∀ j, t.mine.sem j = if j = f.toNat ∧ f ≠ 63 then Nat.min 65535 (v.toNat + (s.mine.semMove j).added) else s.mine.sem j) ∧
      ((s.mine.semMove f.toNat).added = 0 → (s.mine.semMove f.toNat).raised = false → t.mine.semsat = s.mine.semsat)) ∧
  (∀ (i n v : Nat) (w : Crew), i < 63 → ((w.addSem i v).putSem i n).sem i = Nat.min 65535 (n + (w.semMove i).added + v))

namespace Sys2Proof.Slice0
/-- R292: a fence goes on once the strand's buffer has drained, a fence.sm once its SM commands have completed too; until then the strand waits. fence.acq goes
on at once, and fence.rel performs the strand's stores and goes on. R292 orders at the scope an instruction names; that every one acts as at the widest is the model's choice
(DESIGN CHOICE, log 90). -/
def fenceResultRule : Prop :=
  (∀ (c : BitVec 3) (g : Pred) (s : State), s.me.getP g = true →
    exec (.fence c g) s = .next (if s.me.buffer = [] then s.setMe (s.me.complete 4) else s)) ∧
  (∀ (c : BitVec 3) (g : Pred) (s : State), exec (.fenceAcq c g) s = .next (s.setMe (s.me.complete 4))) ∧
  (∀ (c : BitVec 3) (g : Pred) (s : State), s.me.getP g = true →
    ∃ t, exec (.fenceRel c g) s = .next t ∧ t.me = ({ s.me with buffer := [] } : Strand).complete 4) ∧
  (∀ (c : BitVec 3) (g : Pred) (s : State), s.me.getP g = true →
    exec (.fenceSm c g) s =
      .next (if s.me.buffer = [] ∧ tget s.mine.streams.open_ s.cur.strand 0 = 0 then s.setMe (s.me.complete 4) else s))
end Sys2Proof.Slice0

namespace Sys2Proof.Slice0
/-- R294: an aligned waita whose word m is local and not poisoned writes m to x[d] and goes on where its condition holds, and is held on the word where it does
not, with what it watches; a misaligned one traps. The word of a strand held so is read again by WAITA_REREAD: where the condition holds m goes to x[d] and the
instruction completes, and else the strand stays held. -/
def waitaResultRule : Prop :=
  (∀ (i : Instr) (d a b : Reg) (g : Pred) (c : Word → Word → Prop) (pa leaf : Nat) (m : Word) (s s1 : State),
    waitaRow i = some (d, a, b, g, c) → s.me.getP g = true → (s.me.getX a).toNat % 8 = 0 →
    s.scalarReach (s.me.getX a).toNat 8 s.needLoad = (.ok pa leaf, s1) → localPlace s1 (s1.locOf pa) = true →
    s1.poisonedAt (s1.locOf pa) 8 = false →
    m = BitVec.ofNat 64 (ofBytes (s1.loadBytes s.cur.core s.cur.strand (s1.locOf pa) 8)) →
    (c m (s.me.getX b) → ∃ t, exec i s = .next t ∧ t.me = (s.me.setX d m).complete 4) ∧
    (¬ c m (s.me.getX b) → ∃ t p n q, exec i s = .next t ∧ t.me = { s.me with hold := .watch p n q } ∧ watchedRow q = some (d, a, b, c))) ∧
  (∀ (i : Instr) (d a b : Reg) (g : Pred) (c : Word → Word → Prop) (s : State), waitaRow i = some (d, a, b, g, c) →
    s.me.getP g = true → (s.me.getX a).toNat % 8 ≠ 0 → exec i s = .next (s.takeTrap 0x03 (s.me.getX a))) ∧
  (∀ (k j p n : Nat) (q : Watched) (d a b : Reg) (c : Word → Word → Prop) (pa leaf : Nat) (m : Word) (s s1 : State),
    (s.strandAt k j).hold = .watch p n q → watchedRow q = some (d, a, b, c) → (s.crew k).stopped = false →
    ((s.strandAt k j).getX a).toNat % 8 = 0 →
    (s.at k j).scalarReach ((s.strandAt k j).getX a).toNat 8 (s.at k j).needLoad = (.ok pa leaf, s1) → localPlace s1 (s1.locOf pa) = true →
    s1.poisonedAt (s1.locOf pa) 8 = false → m = BitVec.ofNat 64 (ofBytes (s1.loadBytes k j (s1.locOf pa) 8)) →
    (c m ((s.strandAt k j).getX b) →
      ∃ t, exec (.waitaReread k j) s = .next t ∧ t.strandAt k j = ((s.strandAt k j).setX d m).complete 4) ∧
    (¬ c m ((s.strandAt k j).getX b) →
      ∃ t, exec (.waitaReread k j) s = .next t ∧ ∃ p2, t.strandAt k j = { s.strandAt k j with hold := .watch p2 n q })) ∧
  (∀ (k j : Nat) (q : Watched) (d a b : Reg) (c : Word → Word → Prop) (m : Word) (s : State) (p : Pending), (s.strandAt k j).hold = .response p →
    p.store = false → p.size = 8 → p.atomic = none → p.watch = some q → watchedRow q = some (d, a, b, c) →
    (c m ((s.strandAt k j).getX b) →
      exec (.scalarAccessResponse k j m false) s = .next (s.setStrandAt k j (((s.strandAt k j).setX d m).complete p.len))) ∧
    (¬ c m ((s.strandAt k j).getX b) →
      exec (.scalarAccessResponse k j m false) s = .next (s.setStrandAt k j { s.strandAt k j with hold := .watch p.pa p.since q })))
end Sys2Proof.Slice0

/-- R292, R294: fences, and the waits on a location. -/
def Obligations.FenceAndWaita : Prop :=
  Sys2Proof.Slice0.fenceResultRule ∧ Sys2Proof.Slice0.waitaResultRule

/-- R276, R295, R296: a strand with no arrival of its own outstanding arrives at its barrier, or with an empty buffer and no NX command awaited at its superstep
counter: it is counted once at the current generation and held. A strand whose arrival was counted waits on the same generation and is not
counted again. A generation at which every participant has arrived ends: the next begins, and a held strand goes on. -/
def Obligations.BarrierResult : Prop :=
  (∀ (id : BitVec 8) (l : BitVec 3) (g : Pred) (s : State), s.me.getP g = true →
    (∀ a ∈ s.me.arrivals, ¬ (a.1 = l.toNat ∧ a.2.1 = id.toNat)) →
    ∃ t, exec (.bar id l g) s = .next t ∧ t.me.buffer = [] ∧ t.me.pc = s.me.pc ∧ t.me.x = s.me.x ∧
      t.me.hold = .barrier l.toNat id.toNat (s.barrier s.mine.info l.toNat id.toNat).gen s.time ∧
      t.me.arrivals = (l.toNat, id.toNat, (s.barrier s.mine.info l.toNat id.toNat).gen) :: s.me.arrivals ∧
      (t.barrier s.mine.info l.toNat id.toNat).arrived =
        (s.barrier s.mine.info l.toNat id.toNat).arrived ++ [(s.mine.info.tile, s.cur.strand)]) ∧
  (∀ (l : BitVec 3) (g : Pred) (s : State), s.me.getP g = true → s.me.buffer = [] → s.mine.nxStepIdle s.cur.strand = true →
    (∀ a ∈ s.me.arrivals, ¬ (a.1 = l.toNat ∧ a.2.1 = 256)) →
    ∃ t, exec (.syncStep l g) s = .next t ∧
      t.me.hold = .superstep l.toNat (s.barrier s.mine.info l.toNat 256).gen s.time ∧ t.me.pc = s.me.pc ∧ t.me.x = s.me.x ∧
      (t.barrier s.mine.info l.toNat 256).arrived = (s.barrier s.mine.info l.toNat 256).arrived ++ [(s.mine.info.tile, s.cur.strand)]) ∧
  (∀ (id : BitVec 8) (l : BitVec 3) (g : Pred) (s : State) (n : Nat), s.me.getP g = true →
    s.me.arrivals.find? (fun a => a.1 == l.toNat && a.2.1 == id.toNat) = some (l.toNat, id.toNat, n) →
    (s.barrier s.mine.info l.toNat id.toNat).gen ≤ n →
    ∃ t, exec (.bar id l g) s = .next t ∧ t.me.hold = .barrier l.toNat id.toNat n s.time ∧ t.cp.barriers = s.cp.barriers) ∧
  (∀ (c k level id n : Nat) (s : State), (s.strandAt c k).hold.generation = some (level, id, n) → (s.core c).held = true →
    (s.barrier (s.crew c).info level id).gen = n → s.localArrived (s.barrier (s.crew c).info level id) = true →
    s.domainArrived (s.barrier (s.crew c).info level id) = true →
    ∃ t, exec (.barrierGenerationEnd c k) s = .next t ∧ (t.barrier (s.crew c).info level id).gen = n + 1 ∧
      (t.barrier (s.crew c).info level id).arrived = [] ∧ (t.strandAt c k).hold = .none ∧
      (t.strandAt c k).pc = ((s.strandAt c k).complete 4).pc)

namespace Sys2Proof.Slice0
/-- R341: a strand with ie 1 that no access of its own already sent holds takes its lowest pending asynchronous trap at its boundary, with the pc it stands at as the
epc; the others stay pending. -/
def asynchronousTrapRule : Prop :=
  ∀ (c k cause : Nat) (v : Word) (rest : Tab Word) (s : State), (s.strandAt c k).present = true → (s.strandAt c k).halted = false →
    (s.strandAt c k).ie = true → (s.strandAt c k).pending = (cause, v) :: rest → (∀ p, (s.strandAt c k).hold ≠ .response p) →
    (s.crew c).stopped = false → (s.strandAt c k).traps.length < 2 →
    ∃ t, exec (.asyncTrapTake c k) s = .next t ∧
      t.strandAt c k = trapped { s.strandAt c k with pending := tdel ((cause, v) :: rest) cause } ((s.core c).tvec &&& ~~~3)
        (BitVec.ofNat 8 cause) v (s.strandAt c k).pc
end Sys2Proof.Slice0

/-- R55, R341, R342: a trap taken on a strand with room on its trap stack enters the monitor; with both levels in use the crew ends; an asynchronous trap is taken at a boundary. -/
def Obligations.TrapTaking : Prop :=
  Sys2Proof.Slice0.trapEntryRule ∧ Sys2Proof.Slice0.trapAtFullStackEndsCrewRule ∧ Sys2Proof.Slice0.asynchronousTrapRule

namespace Sys2Proof.Slice0
/-- R368, Table 13.2: ctx.save of an aligned address on a page of device HBM posts the strand record as it stands before the instruction, with epc pc + 4: once the
strand's stores are performed the record's bytes stand there; and the strand goes on. -/
def contextSaveRule : Prop :=
  ∀ (a : Reg) (g : Pred) (s s1 : State) (pa leaf x : Nat), s.me.getP g = true → (s.me.getX a).toNat % 1024 = 0 → memoriesWf s1 →
    s.scalarReach (s.me.getX a).toNat 1024 s.needStore = (.ok pa leaf, s1) → s1.locOf pa = .hbm x → s.me.loops.length ≤ 2 →
    (∀ j, j < 1024 → s1.locOf (pa + j) = .hbm (x + j)) → s1.windowWritable s.cur.core pa = true → s.me.buffer = [] →
    ∃ t, exec (.ctxSave a g) s = .next t ∧ t.me.pc = (s.me.complete 4).pc ∧ t.me.x = s.me.x ∧
      ∀ w, w < 74 → mnat (t.drainStrand s.cur.core s.cur.strand).hbm (x + 8 * w) 8 =
        (recordWords s.me (s.me.pc + 4) s.me.topLevel.cause s.me.topLevel.tval).getD w 0
end Sys2Proof.Slice0

namespace Sys2Proof.Slice0
/-- R368: ctx.rest of an aligned address whose record passes its checks and is not poisoned sets x1 to x63, p1 to p7, the loop stack and the pc from the
record, in one action; that the two low bits of a level's addresses are dropped is the model's reading (log 88). -/
def contextRestoreRule : Prop :=
  ∀ (a : Reg) (g : Pred) (s s1 : State) (pa leaf x : Nat) (b : List Byte), s.me.getP g = true → (s.me.getX a).toNat % 1024 = 0 →
    s.scalarReach (s.me.getX a).toNat 1024 s.needLoad = (.ok pa leaf, s1) → s1.locOf pa = .hbm x →
    b = s1.loadBytes s.cur.core s.cur.strand (.hbm x) 1024 → recordOk b = true → (recWord b 0).toNat % 4 = 0 →
    s1.poisonedAt (.hbm x) 1024 = false →
    ∃ t, exec (.ctxRest a g) s = .next t ∧ t.me.pc = recWord b 0 ∧
      (∀ r : Reg, r ≠ 0 → t.me.getX r = recWord b (0x20 + 8 * (r.toNat - 1))) ∧
      (∀ q : Pred, q ≠ 0 → t.me.getP q = (recWord b 0x18).getLsbD q.toNat) ∧
      t.me.loops.length = (recWord b 0x218).toNat ∧
      (∀ l, t.me.loops.getLast? = some l → l = ⟨recWord b 0x220 &&& ~~~3, recWord b 0x228 &&& ~~~3, recWord b 0x230⟩) ∧
      (∀ l r, t.me.loops = [l, r] → l = ⟨recWord b 0x238 &&& ~~~3, recWord b 0x240 &&& ~~~3, recWord b 0x248⟩)
end Sys2Proof.Slice0

/-- R368: strand records written and restored. -/
def Obligations.ContextRecords : Prop :=
  Sys2Proof.Slice0.contextSaveRule ∧ Sys2Proof.Slice0.contextRestoreRule

namespace Sys2Proof.Slice0
/-- R369: in monitor mode xlt.flush of a context word whose high bits are zero, once no access that the dropped translations served is in flight, removes the context's
entries from its cluster's translation cache, or with bit 12 every entry, and goes on; a word with a high bit set traps with CONFIG. -/
def translationFlushRule : Prop :=
  (∀ (a : Reg) (g : Pred) (s s1 : State), s.me.monitor = true → s.me.getP g = true → (s.me.getX a).toNat < 2 ^ 13 →
    s1 = s.drainCluster (s.cur.core / 8) →
    s1.inFlight ((s1.cluster (s.cur.core / 8)).tlb.filter (fun e => !((keepTlb ((s.me.getX a).toNat % 4096) ((s.me.getX a).toNat.testBit 12)
      (s1.cluster (s.cur.core / 8)).tlb).contains e))) (fun c => c / 8 == s.cur.core / 8) = false →
    ∃ t, exec (.xltFlush a g) s = .next t ∧ t.me.pc = (s.me.complete 4).pc ∧
      (∀ e ∈ (t.cluster (s.cur.core / 8)).tlb, (s.me.getX a).toNat < 4096 ∧ e.ctx ≠ some ((s.me.getX a).toNat % 4096)) ∧
      (∀ e ∈ (s.cluster (s.cur.core / 8)).tlb, (s.me.getX a).toNat < 4096 → e.ctx ≠ some ((s.me.getX a).toNat % 4096) →
        e ∈ (t.cluster (s.cur.core / 8)).tlb)) ∧
  (∀ (a : Reg) (g : Pred) (s : State), s.me.monitor = true → s.me.getP g = true → 2 ^ 13 ≤ (s.me.getX a).toNat →
    ∃ tval, exec (.xltFlush a g) s = .next (s.takeTrap 0x0E tval))
end Sys2Proof.Slice0

/-- R86, R130, R369: prefetches, cache forms, and the flush of translations. -/
def Obligations.CacheAndTranslation : Prop :=
  Sys2Proof.Slice0.prefetchResultRule ∧ Sys2Proof.Slice0.cacheFormsRule ∧ Sys2Proof.Slice0.translationFlushRule


namespace Sys2Proof.Slice0

/-- Is a place a byte of a pool, of device HBM or of host memory? -/
def memoryPlace : Loc → Bool
  | .pool _ _ => true
  | .hbm _ => true
  | .host _ => true
  | _ => false

/-! ### Engine commands: what their dispatch leaves alone (R93, R275) -/

/-- The strand whose turn it is has passed a one-word instruction, and every other strand of its crew, every other core, the crew's channels and
semaphores, and every byte of memory are as they were. -/
def onlyDispatched (s t : State) : Prop :=
  t.me = s.me.complete 4 ∧ (∀ k, k ≠ s.cur.strand → t.strandAt s.cur.core k = s.strandAt s.cur.core k) ∧
    (∀ c, c ≠ s.cur.core → t.core c = s.core c) ∧ t.mine.chans = s.mine.chans ∧ t.mine.sems = s.mine.sems ∧ ∀ l, t.rawByte l = s.rawByte l

/-- Semaphore j of a crew whose semaphore has been signalled once: one more, stopping so that what wait.dec took in the same cc still counts (R277); f63 holds
nothing. -/
def signalled (w : Crew) (sem j : Nat) : Nat := if j = sem ∧ j ≠ 63 then Nat.min (65535 - (w.semMove j).taken) (w.sem j + 1) else w.sem j

/-- A stream command (Table 10.2): its operation, operand registers, semaphore, guard. -/
def streamRow : Instr → Option (SmOp × Reg × Reg × Reg × Pred)
  | .smAff a b f g => some (.aff, a, b, f, g)
  | .smAfw a b f g => some (.afw, a, b, f, g)
  | .smInd a b f g => some (.ind, a, b, f, g)
  | .smSct a b f g => some (.sct, a, b, f, g)
  | .smUpd a b f g => some (.upd, a, b, f, g)
  | .smIsx a b f g => some (.isx, a, b, f, g)
  | _ => none

/-- A command that writes a node or gate of the graph's idle plane: first key and number of its entries, operand registers, semaphore, guard. -/
def nodeRow : Instr → Option (Nat × Nat × Reg × Reg × Reg × Pred)
  | .smLink a b f g => some (0, 8, a, b, f, g)
  | .smRep a b f g => some (8, 4, a, b, f, g)
  | .smSteer a b f g => some (12, 4, a, b, f, g)
  | .smMerge a b f g => some (16, 4, a, b, f, g)
  | .smDem a b f g => some (20, 8, a, b, f, g)
  | _ => none

/-- The command that a stream command dispatched by the current strand puts into the queue: its operands, its 64-byte block and the channels of its multicast map
captured. -/
def streamCommand (s : State) (op : SmOp) (a b f : Reg) : SmCmd :=
  ⟨op, (s.me.getX a).toNat, (s.me.getX b).toNat, ofBytes (s.dispatchBytes (s.me.getX a).toNat 64), s.cur.strand, f.toNat,
    (if (s.me.getX b).getLsbD 19 then (s.mine.mapChannels (field (s.me.getX b).toNat 23 20)).getD [] else []), 0, none, s.mine.graph.period⟩

/-- A data, stop or count token as a command of the SM queue carries it. -/
def tokenCommand (s : State) (op : SmOp) (ch data kind : Nat) (poison : Bool) (f : Reg) : SmCmd :=
  ⟨op, kind, ch, data, s.cur.strand, f.toNat, [], if poison then 1 else 0, none, s.mine.graph.period⟩

end Sys2Proof.Slice0

namespace Sys2Proof.Slice0
/-- R93, R104 to R107: a stream command dispatched while the SM queue has room, whose block lies 64-byte aligned in the scratchpad without poison and passes its
checks, stands last in the queue with its operands and block captured, one more command of its strand is open, and the strand has passed it. With the
queue full the strand waits; a block address that is no multiple of 64 traps with MISALIGNED. -/
def streamDispatchRule : Prop :=
  (∀ (i : Instr) (op : SmOp) (a b f : Reg) (g : Pred) (s : State), streamRow i = some (op, a, b, f, g) → s.me.getP g = true →
    s.mine.streams.queue.length < 32 → s.blockRefusal (s.me.getX a).toNat 64 64 = none → s.mine.checkStream (streamCommand s op a b f) = none →
    ∃ t, exec i s = .next t ∧ onlyDispatched s t ∧ t.mine.streams.queue = s.mine.streams.queue ++ [streamCommand s op a b f] ∧
      t.mine.streams.slots = s.mine.streams.slots ∧
      tget t.mine.streams.open_ s.cur.strand 0 = tget s.mine.streams.open_ s.cur.strand 0 + 1) ∧
  (∀ (i : Instr) (op : SmOp) (a b f : Reg) (g : Pred) (s : State), streamRow i = some (op, a, b, f, g) → s.me.getP g = true →
    32 ≤ s.mine.streams.queue.length → exec i s = .next s) ∧
  (∀ (i : Instr) (op : SmOp) (a b f : Reg) (g : Pred) (s : State), streamRow i = some (op, a, b, f, g) → s.me.getP g = true →
    s.mine.streams.queue.length < 32 → (s.me.getX a).toNat % 64 ≠ 0 → exec i s = .next (s.takeTrap 0x03 (s.me.getX a)))
end Sys2Proof.Slice0

namespace Sys2Proof.Slice0
/-- R108, R109: sm.bar of a mask of slots is queued. sm.kill of a mask takes every queued command of those slots out of the queue, kills every active one that has
something left to do, leaving it only a stop of rank 7 that its end owes, leaves the other slots as they are, and where none of the mask is active signals its semaphore at once. -/
def slotBarrierAndKillRule : Prop :=
  (∀ (a f : Reg) (g : Pred) (s : State), s.me.getP g = true → s.mine.streams.queue.length < 32 → (s.me.getX a).toNat < 65536 →
    ∃ t, exec (.smBar a f g) s = .next t ∧ onlyDispatched s t ∧ t.mine.streams.queue = s.mine.streams.queue ++
      [⟨.bar, (s.me.getX a).toNat, 0, 0, s.cur.strand, f.toNat, [], 0, none, s.mine.graph.period⟩]) ∧
  (∀ (a f : Reg) (g : Pred) (s : State), s.me.getP g = true → (s.me.getX a).toNat < 65536 →
    ∃ t, exec (.smKill a f g) s = .next t ∧ t.me = s.me.complete 4 ∧ t.mine.chans = s.mine.chans ∧ (∀ l, t.rawByte l = s.rawByte l) ∧
      (∀ c, c ∈ t.mine.streams.queue ↔ c ∈ s.mine.streams.queue ∧ c.onSlots (s.me.getX a).toNat = false) ∧
      (∀ n x, tfind s.mine.streams.slots n = some x → ∃ y, tfind t.mine.streams.slots n = some y ∧
        if (s.me.getX a).getLsbD n = true ∧ x.killed = false ∧ x.finished = false then y.killed = true ∧ y.ended = true ∧ y.staged = [] ∧ y.returns = [] ∧
          y.send = (if x.cmd.closes then [⟨7, x.cmd.strand, 1, false⟩] else []) else y = x) ∧
      ((∀ p ∈ s.mine.streams.slots, (s.me.getX a).getLsbD p.1 = false) →
        ∀ j, t.mine.sem j = signalled s.mine f.toNat j))
end Sys2Proof.Slice0

/-- R93, R104 to R109: the dispatch of stream commands, of slot barriers and kills. -/
def Obligations.StreamCommands : Prop :=
  Sys2Proof.Slice0.streamDispatchRule ∧ Sys2Proof.Slice0.slotBarrierAndKillRule

/-- R161 to R163: a command that writes an entry of the graph's idle plane, injects a token or drains channels is captured and queued once its checks
hold; the active plane and the channels are as they were. -/
def Obligations.GraphDispatch : Prop :=
  (∀ (i : Instr) (base count : Nat) (a b f : Reg) (g : Pred) (m : List Nat) (s : State), nodeRow i = some (base, count, a, b, f, g) →
    s.me.getP g = true → s.mine.streams.queue.length < 32 → s.mine.checkNode base count (s.me.getX a).toNat (s.me.getX b).toNat = .ok m →
    ∃ t, exec i s = .next t ∧ onlyDispatched s t ∧ t.mine.graph.active = s.mine.graph.active ∧ t.mine.graph.idle = s.mine.graph.idle ∧
      t.mine.streams.queue = s.mine.streams.queue ++ [⟨.plane, (s.me.getX a).toNat, (s.me.getX b).toNat, 0, s.cur.strand, f.toNat, m,
        base + (s.me.getX a).toNat, none, s.mine.graph.graphPeriod⟩]) ∧
  (∀ (a b f : Reg) (g : Pred) (s : State), s.me.getP g = true → s.mine.streams.queue.length < 32 →
    checkSpill (s.me.getX a).toNat (s.me.getX b).toNat = none → (s.me.getX b).getLsbD 0 = true → (s.me.getX b).getLsbD 6 = true →
    (s.me.getX a).toNat + 1024 * 2 ^ field (s.me.getX b).toNat 10 7 ≤ s.mine.spSize →
    ∃ t, exec (.smSpill a b f g) s = .next t ∧ onlyDispatched s t ∧ t.mine.streams.queue = s.mine.streams.queue ++
      [⟨.plane, (s.me.getX a).toNat, (s.me.getX b).toNat, 0, s.cur.strand, f.toNat, [], 64 + field (s.me.getX b).toNat 5 1,
        some ⟨field (s.me.getX b).toNat 10 7, 1, (s.me.getX a).toNat, []⟩, s.mine.graph.graphPeriod⟩]) ∧
  (∀ (a b f : Reg) (g : Pred) (s s1 : State) (frames : Tab Nat), s.me.getP g = true → s.mine.streams.queue.length < 32 →
    checkSpill (s.me.getX a).toNat (s.me.getX b).toNat = none → (s.me.getX b).getLsbD 0 = true → (s.me.getX b).getLsbD 6 = false →
    s.pinRange s.cur.core (s.me.getX a).toNat (1024 * 2 ^ field (s.me.getX b).toNat 10 7) = (.ok frames, s1) →
    ∃ t, exec (.smSpill a b f g) s = .next t ∧ onlyDispatched s1 t ∧ t.mine.streams.queue = s.mine.streams.queue ++
      [⟨.plane, (s.me.getX a).toNat, (s.me.getX b).toNat, 0, s.cur.strand, f.toNat, [], 64 + field (s.me.getX b).toNat 5 1,
        some ⟨field (s.me.getX b).toNat 10 7, 0, (s.me.getX a).toNat, frames⟩, s.mine.graph.graphPeriod⟩]) ∧
  (∀ (a b f : Reg) (g : Pred) (s : State), s.me.getP g = true → s.mine.streams.queue.length < 32 →
    checkSpill (s.me.getX a).toNat (s.me.getX b).toNat = none → (s.me.getX b).getLsbD 0 = false →
    ∃ t, exec (.smSpill a b f g) s = .next t ∧ onlyDispatched s t ∧ t.mine.streams.queue = s.mine.streams.queue ++
      [⟨.plane, (s.me.getX a).toNat, (s.me.getX b).toNat, 0, s.cur.strand, f.toNat, [], 64 + field (s.me.getX b).toNat 5 1, none,
        s.mine.graph.graphPeriod⟩]) ∧
  (∀ (a b f : Reg) (g : Pred) (s : State), s.me.getP g = true → s.mine.streams.queue.length < 32 → (s.me.getX a).toNat < 8 →
    (s.me.getX b).toNat < 32 → s.mine.smOutRefused (s.me.getX b).toNat = false →
    ∃ t, exec (.smStop a b f g) s = .next t ∧ onlyDispatched s t ∧ t.mine.streams.queue = s.mine.streams.queue ++
      [tokenCommand s .stop (s.me.getX b).toNat (s.me.getX a).toNat 1 false f]) ∧
  (∀ (a b f : Reg) (g : Pred) (s : State) (x y : Nat), s.me.getP g = true → s.mine.streams.queue.length < 32 → x = (s.me.getX a).toNat →
    y = (s.me.getX b).toNat → y < 512 → y / 32 % 4 ≠ 1 → s.mine.smOutRefused (y % 32) = false →
    (y / 128 % 2 = 1 ∧ x < 4294967296 ∨ y / 128 % 2 = 0 ∧ x % 32 = 0 ∧ x + 32 ≤ s.mine.spSize ∧ s.dispatchPoison x 32 = none) →
    ∃ t, exec (.smTok a b f g) s = .next t ∧ onlyDispatched s t ∧ t.mine.streams.queue = s.mine.streams.queue ++
      [tokenCommand s .tok (y % 32) (if y / 128 % 2 = 1 then x else ofBytes (s.dispatchBytes x 32)) (y / 32 % 4) (y / 256 % 2 = 1) f]) ∧
  (∀ (a b f : Reg) (g : Pred) (s : State), s.me.getP g = true → s.mine.streams.queue.length < 32 → (s.me.getX a).toNat < 4294967296 →
    (s.me.getX b).toNat < 2 → ∃ t, exec (.smDrain a b f g) s = .next t ∧ onlyDispatched s t ∧ t.mine.streams.queue = s.mine.streams.queue ++
      [⟨.drain, (s.me.getX a).toNat, (s.me.getX b).toNat, (s.me.getX a).toNat, s.cur.strand, f.toNat, [], 0, none, s.mine.graph.period⟩])

/-- R142, R143, R146: a token sent where nothing spills goes behind the channel's others, one taken is the oldest, and no other channel changes; a token
spends one credit of its gate and a stop none; a token sent where the FIFO is full or the ring, that of the active plane, in use goes behind the ring's others and sets the channel's bit of
csr_spill. A token on its way to the ring is written there (Table 6.2) and reads back as it was; the ring's oldest goes to the FIFO once that has a free
slot. A count token on a gate's demand channel adds to its credit. -/
def Obligations.ChannelsAndSpilling : Prop :=
  (∀ (w : Crew) (t : Token) (ch c : Nat), (w.chan ch).spilling = false →
    ((w.enqueue t ch).chan c).fifo = if c = ch then (w.chan ch).fifo ++ [.tok t] else (w.chan c).fifo) ∧
  (∀ (w : Crew) (ch c : Nat), ((w.dequeue ch).chan c).fifo = if c = ch then (w.chan ch).fifo.drop 1 else (w.chan c).fifo) ∧
  (∀ (w : Crew) (t : Token) (ch k : Nat), w.gateOf ch = some k →
    tget (w.enqueue t ch).graph.credits k 0 = if t.isStop then tget w.graph.credits k 0 else tget w.graph.credits k 0 - 1) ∧
  (∀ (w : Crew) (t : Token) (ch : Nat), (w.chan ch).spilling = true → ch < 32 → (w.chan ch).spill = tfind w.graph.active.spills ch →
    (w.chan ch).turned = none →
    ((w.enqueue t ch).chan ch).fifo = (w.chan ch).fifo ∧
      ((w.enqueue t ch).chan ch).ring = (w.chan ch).ring ++ [.staged (w.chan ch).wpos t] ∧ (w.enqueue t ch).spilled.getLsbD ch = true) ∧
  (∀ (t : Token), t.data < 2 ^ 256 → t.bank < 4 → t.kind < 4 → spillToken (spillBytes t) = t) ∧
  (∀ (c ch n : Nat) (t : Token) (e : SpillEntry) (s : State), ((s.crew c).chan ch).spill = some e → firstStaged ((s.crew c).chan ch).ring = some (n, t) →
    memoriesWf s → memoryPlace (s.ringLoc c e n) = true →
    ∃ u, exec (.spillWrite c ch) s = .next u ∧ ((u.crew c).chan ch).fifo = ((s.crew c).chan ch).fifo ∧
      ((u.crew c).chan ch).ring = settleStaged ((s.crew c).chan ch).ring ∧
      (∀ j, j < 32 → (u.rawByte ((s.ringLoc c e n).plus j)).toNat = t.data / 256 ^ j % 256) ∧
      (u.rawByte ((s.ringLoc c e n).plus 32)).toNat = t.bank % 4 + 4 * (t.kind % 4) + (if t.poison then 16 else 0)) ∧
  (∀ (c ch n : Nat) (r : List RingItem) (e : SpillEntry) (s : State), ((s.crew c).chan ch).spill = some e → ((s.crew c).chan ch).ring = .slot n :: r →
    tfind (s.crew c).graph.active.spills ch = some e → ((s.crew c).chan ch).count < 16 →
    ∃ u, exec (.spillRefill c ch) s = .next u ∧ ((u.crew c).chan ch).ring = r ∧
      ((u.crew c).chan ch).fifo = ((s.crew c).chan ch).fifo ++ [.tok (spillToken (s.rawBytes (s.ringLoc c e n) 64))]) ∧
  (∀ (c k wd : Nat) (t : Token) (s : State), (s.core c).held = true → k < 8 → tfind (s.crew c).graph.active.nodes (20 + k) = some wd →
    (s.crew c).see (20 + k) (field wd 10 6) = .tok t → t.kind = 2 →
    ∃ u, exec (.demandCredit c k) s = .next u ∧
      tget (u.crew c).graph.credits (20 + k) 0 = Nat.min 4294967295 (tget (s.crew c).graph.credits (20 + k) 0 + t.data % 4294967296) ∧
      (u.crew c).chans = ((s.crew c).dequeue (field wd 10 6)).chans)

/-- R149, R150: the steps of the operand graph, for an entry of the active plane. A link node moves the token at its input to its outputs, rebanked as
its word says. An idle repeat node with a count token takes it for the segment that follows, keeps the segment's tokens in order, and sends them again. An
idle steer or merge node with a selector in range takes it, and moves the segment's tokens to the output or from the input it names. A join between
segments whose inputs all stand at a stop of rank 7 consumes them and sends one on. -/
def Obligations.GraphSteps : Prop :=
  (∀ (c k wd : Nat) (t : Token) (outs : List Nat) (s : State), (s.core c).held = true → k < 8 → tfind (s.crew c).graph.active.nodes k = some wd →
    (s.crew c).see k (field wd 5 1) = .tok t → outs = (if wd.testBit 11 then tget (s.crew c).graph.active.maps k [] else [field wd 10 6]) →
    (s.crew c).canAll k t outs = true →
    exec (.linkMove c k) s = .next (s.setCrew c (((s.crew c).dequeue (field wd 5 1)).enqueueAll
      (if wd.testBit 16 then { t with bank := field wd 18 17 } else t) outs))) ∧
  (∀ (c k wd : Nat) (t d : Token) (s : State), (s.core c).held = true → k < 4 → tfind (s.crew c).graph.active.nodes (8 + k) = some wd →
    ((s.crew c).nodeState (8 + k)).phase = .idle → (s.crew c).see (8 + k) (field wd 5 1) = .tok d → (field wd 18 16 = 0 → d.isStop = false) →
    (s.crew c).see (8 + k) (field wd 10 6) = .tok t → t.kind = 2 → t.poison = false →
    exec (.repeatRound c k) s = .next (s.setCrew c (((s.crew c).dequeue (field wd 10 6)).setNode (8 + k)
      ⟨.collect (t.data % 4294967296) false, [], 0, none⟩))) ∧
  (∀ (c k wd n : Nat) (p : Bool) (t : Token) (s : State), (s.core c).held = true → k < 4 → tfind (s.crew c).graph.active.nodes (8 + k) = some wd →
    ((s.crew c).nodeState (8 + k)).phase = .collect n p → (s.crew c).see (8 + k) (field wd 5 1) = .tok t → (field wd 18 16 = 0 → t.isStop = false) →
    segmentEnds (field wd 18 16) t = false → ((s.crew c).nodeState (8 + k)).seen < 256 →
    ∃ u, exec (.repeatRound c k) s = .next u ∧ (u.crew c).chans = ((s.crew c).dequeue (field wd 5 1)).chans ∧
      ((u.crew c).nodeState (8 + k)).buf = ((s.crew c).nodeState (8 + k)).buf ++ [t] ∧
      ((u.crew c).nodeState (8 + k)).seen = ((s.crew c).nodeState (8 + k)).seen + 1 ∧
      ((u.crew c).nodeState (8 + k)).phase = .collect n p) ∧
  (∀ (c k wd left pos : Nat) (first : Bool) (t : Token) (s : State), (s.core c).held = true → k < 4 →
    tfind (s.crew c).graph.active.nodes (8 + k) = some wd → ((s.crew c).nodeState (8 + k)).phase = .emit left pos first →
    ((s.crew c).nodeState (8 + k)).buf[pos]? = some t → t.isZero = false → (s.crew c).canAll (8 + k) t [field wd 15 11] = true →
    ∃ u, exec (.repeatRound c k) s = .next u ∧ (u.crew c).chans = ((s.crew c).enqueue t (field wd 15 11)).chans ∧
      (pos + 1 < ((s.crew c).nodeState (8 + k)).buf.length → ((u.crew c).nodeState (8 + k)).phase = .emit left (pos + 1) first) ∧
      (((s.crew c).nodeState (8 + k)).buf.length ≤ pos + 1 → 1 < left → ((u.crew c).nodeState (8 + k)).phase = .emit (left - 1) 0 false) ∧
      (((s.crew c).nodeState (8 + k)).buf.length ≤ pos + 1 → left ≤ 1 → (u.crew c).nodeState (8 + k) = emptyNode)) ∧
  (∀ (c k wd : Nat) (t d : Token) (s : State), (s.core c).held = true → k < 4 → tfind (s.crew c).graph.active.nodes (12 + k) = some wd →
    ((s.crew c).nodeState (12 + k)).phase = .idle → (s.crew c).see (12 + k) (field wd 5 1) = .tok d → (field wd 35 33 = 0 → d.isStop = false) →
    (s.crew c).see (12 + k) (field wd 10 6) = .tok t → t.kind = 0 → t.poison = false → t.data % 4294967296 ≤ field wd 32 31 →
    exec (.steerSegment c k) s = .next (s.setCrew c (((s.crew c).dequeue (field wd 10 6)).setNode (12 + k)
      ⟨.moving (t.data % 4294967296) false, [], 0, none⟩))) ∧
  (∀ (c k wd j : Nat) (t : Token) (s : State), (s.core c).held = true → k < 4 → tfind (s.crew c).graph.active.nodes (12 + k) = some wd →
    ((s.crew c).nodeState (12 + k)).phase = .moving j false → j ≤ field wd 32 31 → (s.crew c).see (12 + k) (field wd 5 1) = .tok t →
    (field wd 35 33 = 0 → t.isStop = false) → (s.crew c).canAll (12 + k) t [field wd (5 * j + 15) (5 * j + 11)] = true →
    ∃ u, exec (.steerSegment c k) s = .next u ∧
      (u.crew c).chans = (((s.crew c).dequeue (field wd 5 1)).enqueue t (field wd (5 * j + 15) (5 * j + 11))).chans ∧
      ((u.crew c).nodeState (12 + k)).phase = (if segmentEnds (field wd 35 33) t then .idle else .moving j false)) ∧
  (∀ (c k wd : Nat) (t : Token) (s : State), (s.core c).held = true → k < 4 → tfind (s.crew c).graph.active.nodes (16 + k) = some wd →
    ((s.crew c).nodeState (16 + k)).phase = .idle → wd.testBit 33 = false → (s.crew c).see (16 + k) (field wd 25 21) = .tok t → t.kind = 0 →
    t.poison = false → t.data % 4294967296 ≤ field wd 32 31 →
    (s.crew c).see (16 + k) (field wd (5 * (t.data % 4294967296) + 5) (5 * (t.data % 4294967296) + 1)) ≠ .empty →
    exec (.mergeSegment c k) s = .next (s.setCrew c (((s.crew c).dequeue (field wd 25 21)).setNode (16 + k)
      ⟨.moving (t.data % 4294967296) false, [], 0, none⟩))) ∧
  (∀ (c k wd j : Nat) (t : Token) (s : State), (s.core c).held = true → k < 4 → tfind (s.crew c).graph.active.nodes (16 + k) = some wd →
    ((s.crew c).nodeState (16 + k)).phase = .moving j false → j ≤ field wd 32 31 → (s.crew c).see (16 + k) (field wd (5 * j + 5) (5 * j + 1)) = .tok t →
    (field wd 36 34 = 0 → t.isStop = false) → (s.crew c).canAll (16 + k) t [field wd 30 26] = true →
    ∃ u, exec (.mergeSegment c k) s = .next u ∧
      (u.crew c).chans = (((s.crew c).dequeue (field wd (5 * j + 5) (5 * j + 1))).enqueue t (field wd 30 26)).chans ∧
      ((u.crew c).nodeState (16 + k)).phase = (if segmentEnds (field wd 36 34) t then .idle else .moving j false)) ∧
  (∀ (c k wd : Nat) (ts : List Token) (s : State), (s.core c).held = true → 8 ≤ k → k < 16 → tfind (s.crew c).graph.active.nodes k = some wd →
    (s.crew c).nodeState k = emptyNode → [field wd 5 1, field wd 10 6].map ((s.crew c).see k) = ts.map View.seven →
    (s.crew c).canAll k ⟨7, (ts.map Token.bank).headD 0, 1, ts.any Token.poison⟩ (nodeOuts k wd []) = true →
    ∃ u, exec (.joinAlign c k) s = .next u ∧ (u.crew c).nodeState k = emptyNode ∧
      (u.crew c).chans = ((((s.crew c).dequeue (field wd 5 1)).dequeue (field wd 10 6)).enqueueAll
        ⟨7, (ts.map Token.bank).headD 0, 1, ts.any Token.poison⟩ (nodeOuts k wd [])).chans)

namespace Sys2Proof.Slice0

/-- Slot n of a core runs a command of the operation, is not held by a trap, and the core has a crew. -/
def runs (s : State) (c n : Nat) (op : SmOp) (a : Active) : Prop :=
  (s.core c).held = true ∧ tfind (s.crew c).streams.slots n = some a ∧ a.cmd.op = op ∧ a.broken = none

/-- The device once a stream's dispatching strand's earlier stores to n bytes of its scratchpad have been performed (R306). -/
def edged (s : State) (c : Nat) (a : Active) (x n : Nat) : State := s.drainOverlap c a.cmd.strand (.pool c x) n

/-- A value converted between the formats of a stream (R95). -/
def memToToken (s : State) (c : Nat) (a : Active) (v : Nat) : Nat := s.streamConvert c a.cmd.blk (Pattern.mfmt a.cmd.blk) (Pattern.tfmt a.cmd.blk) v
def tokenToMem (s : State) (c : Nat) (a : Active) (v : Nat) : Nat := s.streamConvert c a.cmd.blk (Pattern.tfmt a.cmd.blk) (Pattern.mfmt a.cmd.blk) v

/-- A stream of the sp space whose formats are the same non-MX format of at least 8 bits. -/
def plainSp (b : Nat) : Prop :=
  Pattern.space b = 1 ∧ Pattern.mfmt b = Pattern.tfmt b ∧ Pattern.mfmt b ≤ 12 ∧ 8 ≤ fmtWidth (Pattern.mfmt b)

end Sys2Proof.Slice0

namespace Sys2Proof.Slice0
/-- R97, R98, R104: a waiting token of an affine read goes to all its channels once they have room. The last element of a plain affine read of the scratchpad
joins the token in progress at its next place, and the stream has come to its end. A data token at the head of a plain affine write whose last element it
carries leaves its channel and the element's bytes stand at the element's address. The dispatching strand's earlier stores to the bytes come first (R306); that those it made
after the dispatch come with them is the model's choice (log 89). A crew being saved sends nothing of its own, and these hold while it is not. -/
def affineStreamStepsRule : Prop :=
  (∀ (c n : Nat) (a : Active) (t : Token) (r : List Token) (s : State), runs s c n .aff a → a.send = t :: r → (s.crew c).streamCanSend a t = true → (s.crew c).stopped = false →
    ∃ u, exec (.affineReadToken c n) s = .next u ∧ (u.crew c).chans = ((s.crew c).enqueueAll t a.cmd.outs).chans ∧
      tfind (u.crew c).streams.slots n = some { a with send := r }) ∧
  (∀ (c n w v : Nat) (p : Bool) (a : Active) (s s0 : State), runs s c n .aff a → plainSp a.cmd.blk → a.send = [] → a.ended = false → a.outError = none →
    a.pos + 1 = affTotal a.cmd.blk → (s.crew c).streamCredit a = true → (s.crew c).stopped = false → w = fmtWidth (Pattern.mfmt a.cmd.blk) →
    s0 = edged s c a (affAddress a.cmd.blk a.pos).toNat (w / 8) →
    v = memToToken s c a (ofBytes (s0.bytesAt (.pool c (affAddress a.cmd.blk a.pos).toNat) (w / 8))) →
    p = s0.poisonedAt (.pool c (affAddress a.cmd.blk a.pos).toNat) (w / 8) →
    ∃ u b t, exec (.affineReadToken c n) s = .next u ∧ tfind (u.crew c).streams.slots n = some b ∧ b.pos = affTotal a.cmd.blk ∧ b.ended = true ∧
      b.outN = 0 ∧ t = ⟨a.out + v % 2 ^ w * 2 ^ (w * a.outN), a.cmd.strand, 0, a.outPoison || p⟩ ∧
      (if (s.crew c).streamCanSend a t then (u.crew c).chans = ((s.crew c).enqueueAll t a.cmd.outs).chans else b.send.head? = some t) ∧
      ∀ l, u.rawByte l = s0.rawByte l) ∧
  (∀ (c n w : Nat) (t : Token) (a : Active) (s s0 : State), runs s c n .afw a → plainSp a.cmd.blk → a.ended = false → a.closing = false → a.sub2 = 0 →
    a.pos + 1 = affTotal a.cmd.blk → w = fmtWidth (Pattern.mfmt a.cmd.blk) → (s.crew c).streamHead a (field a.cmd.b 8 4) = some t → t.kind = 0 →
    Memory.wf (s.crew c).pool = true → s0 = edged s c a ((affAddress a.cmd.blk a.pos).toNat / 32 * 32) 32 →
    ∃ u, exec (.affineWriteToken c n) s = .next u ∧ (u.crew c).chans = ((s.crew c).dequeue (field a.cmd.b 8 4)).chans ∧
      ∀ x, mget (u.crew c).pool x = if (affAddress a.cmd.blk a.pos).toNat ≤ x ∧ x < (affAddress a.cmd.blk a.pos).toNat + w / 8 then
        byteOf (tokenToMem s c a (t.data % 2 ^ w)) (x - (affAddress a.cmd.blk a.pos).toNat) else mget (s0.crew c).pool x)
end Sys2Proof.Slice0

namespace Sys2Proof.Slice0
/-- R98, R99, R105, R106, R126: the steps of indexed streams of the sp space, for a data token of indices whose next index lies in the window. A gather puts the element
there into its token; a scatter's last pair stores the element's bytes there; an update's pair sends the update to the pool unit, where that has room; a
hash-accumulate whose key's first slot is empty, with no update of its table waiting, writes the key and the value to it. The dispatching strand's earlier
stores to the bytes come first (R306); that those it made after the dispatch come with them is the model's choice (log 89). A crew being saved holds a stream at its tile
boundary (R348), and these hold while it does not. -/
def indexedStreamStepsRule : Prop :=
  (∀ (c n w v : Nat) (ea : Int) (t : Token) (a : Active) (s s0 : State), runs s c n .ind a → plainSp a.cmd.blk → a.send = [] → a.ended = false →
    (s.crew c).tileHeld a = false → (a.outN = 0 → (s.crew c).streamCredit a = true) → (s.crew c).streamHead a (field a.cmd.b 8 4) = some t → t.kind = 0 → t.poison = false →
    ea = (Pattern.base a.cmd.blk : Int) + indexValue a.cmd.blk t.data a.sub1 * (w / 8 : Nat) → inWindow a.cmd.blk ea = true →
    w = fmtWidth (Pattern.mfmt a.cmd.blk) → s0 = edged s c a ea.toNat (w / 8) →
    v = memToToken s c a (ofBytes (s0.bytesAt (.pool c ea.toNat) (w / 8))) → s0.poisonedAt (.pool c ea.toNat) (w / 8) = false →
    a.outN + 1 < 256 / w → Pattern.count a.cmd.blk 0 = 0 →
    ∃ u b, exec (.gatherIndex c n) s = .next u ∧ tfind (u.crew c).streams.slots n = some b ∧ b.pos = a.pos + 1 ∧ b.outN = a.outN + 1 ∧
      b.out = a.out + v % 2 ^ w * 2 ^ (w * a.outN) ∧ b.outPoison = a.outPoison ∧ ∀ l, u.rawByte l = s0.rawByte l) ∧
  (∀ (c n w : Nat) (ea : Int) (i d : Token) (a : Active) (s s0 : State), runs s c n .sct a → plainSp a.cmd.blk → a.ended = false → a.staged = [] → (s.crew c).tileHeld a = false →
    (s.crew c).pairOf a = .pair i d → i.kind = 0 → d.kind = 0 → i.poison = false →
    ea = (Pattern.base a.cmd.blk : Int) + indexValue a.cmd.blk i.data a.sub1 * (w / 8 : Nat) → inWindow a.cmd.blk ea = true →
    w = fmtWidth (Pattern.mfmt a.cmd.blk) → Pattern.count a.cmd.blk 0 = a.pos + 1 → Memory.wf (s.crew c).pool = true →
    s0 = edged s c a (ea.toNat / 32 * 32) 32 → ∃ u b, exec (.scatterPair c n) s = .next u ∧ tfind (u.crew c).streams.slots n = some b ∧ b.pos = a.pos + 1 ∧ b.ended = true ∧
      ∀ x, mget (u.crew c).pool x = if ea.toNat ≤ x ∧ x < ea.toNat + w / 8 then
        byteOf (tokenToMem s c a (d.data / 2 ^ (w * a.sub2) % 2 ^ w)) (x - ea.toNat) else mget (s0.crew c).pool x) ∧
  (∀ (c n : Nat) (ea : Int) (i d : Token) (a : Active) (s : State), runs s c n .upd a → Pattern.uop a.cmd.blk < 12 → Pattern.space a.cmd.blk = 1 →
    a.send = [] → a.ended = false → (s.crew c).pairOf a = .pair i d → i.kind = 0 → d.kind = 0 → i.poison = false → (s.crew c).puu.length < 64 →
    (s.crew c).tileHeld a = false → (s.crew c).streamCovers a (a.outstanding + a.returns.length) = true → ea = indexedAddress a.cmd.blk (indexValue a.cmd.blk i.data a.sub1) → inWindow a.cmd.blk ea = true →
    ∃ u b, exec (.updatePair c n) s = .next u ∧ tfind (u.crew c).streams.slots n = some b ∧ b.pos = a.pos + 1 ∧ b.outstanding = a.outstanding + 1 ∧
      (u.crew c).puu = (s.crew c).puu ++ [⟨.sp ea.toNat, Pattern.uop a.cmd.blk, dataValue a.cmd.blk d.data a.sub2, d.poison, c, n, a.pos,
        (ea % (2 ^ 64 : Nat)).toNat, none⟩]) ∧
  (∀ (c n key slot : Nat) (i d : Token) (a : Active) (s s0 : State), runs s c n .upd a → Pattern.uop a.cmd.blk = 12 → a.send = [] → a.ended = false →
    (s.crew c).tileHeld a = false → (s.crew c).streamCredit a = true → a.stopped = none → (s.crew c).pairOf a = .pair i d → i.kind = 0 → d.kind = 0 → i.poison = false → d.poison = false →
    key = (indexValue a.cmd.blk i.data a.sub1).toNat → key ≠ 0xFFFFFFFF →
    slot = Pattern.base a.cmd.blk + 8 * ((key * 0x9E3779B1 % 2 ^ 32 / 2 ^ (32 - (Pattern.wlen a.cmd.blk / 8).log2)) % (Pattern.wlen a.cmd.blk / 8)) →
    s.updatePending (.pool c (Pattern.base a.cmd.blk)) (Pattern.wlen a.cmd.blk) = false →
    s0 = edged s c a (Pattern.base a.cmd.blk) (Pattern.wlen a.cmd.blk) → s0.bytesAt (.pool c slot) 4 = [0xFF, 0xFF, 0xFF, 0xFF] →
    s0.poisonedAt (.pool c slot) 8 = false → Memory.wf (s.crew c).pool = true →
    ∃ u, exec (.hashApply c n) s = .next u ∧ mnat (u.crew c).pool slot 4 = key % 2 ^ 32 ∧
      mnat (u.crew c).pool (slot + 4) 4 = dataValue a.cmd.blk d.data a.sub2 % 2 ^ 32)
end Sys2Proof.Slice0

/-- R94 to R101: the steps of affine and of indexed streams. -/
def Obligations.StreamWork : Prop :=
  Sys2Proof.Slice0.affineStreamStepsRule ∧ Sys2Proof.Slice0.indexedStreamStepsRule

namespace Sys2Proof.Slice0
/-- R88, R90, R125: a unit with pending updates issues one of them, which, of a clean value on a clean element, leaves the unit's list and puts there the new value of Table 4.4 from the old one and
its operand; the sparse-update unit of a stack owns the element's line from then on, and gives back a line that no pending update names. -/
def updateUnitsRule : Prop :=
  (∀ (c : Nat) (l : List Update) (s : State), l ≠ [] → ∃ u ∈ l, s.nextUpdate c l = some u) ∧
  (∀ (k x size : Nat) (u : Update) (s : State), s.nextUpdate 0 (tget s.suu k []) = some u → u.addr = .phys x → s.locOf x = .hbm x →
    u.remote = none → u.poison = false → size = fmtWidth (uopFormat u.uop) / 8 → s.poisonedAt (.hbm x) size = false → Memory.wf s.hbm = true →
    ∃ t, exec (.suuUpdateApply k) s = .next t ∧ tget t.suu k [] = (tget s.suu k []).erase u ∧ (tget t.suuLines k []).any (fun l => l.1 == x / 128) = true ∧
      mnat t.hbm x size = updateNew u.uop (ofBytes (s.bytesAt (.hbm x) size)) u.operand % 256 ^ size ∧ (t.line (x / 128)) = emptyLine ∧
      ∀ y, (y < x ∨ x + size ≤ y) → mget t.hbm y = mget s.hbm y) ∧
  (∀ (k line since : Nat) (s : State), tfind (tget s.suuLines k []) line = some since →
    (∀ u ∈ tget s.suu k [], ∀ x, u.addr = .phys x → x / 128 ≠ line) → (∀ u ∈ tget s.suu k [], ∀ x, u.addr ≠ .sp x) →
    ∃ t, exec (.suuLineRelease k line) s = .next t ∧ tfind (tget t.suuLines k []) line = none ∧ t.suu = s.suu) ∧
  (∀ (c x size : Nat) (u : Update) (s : State), s.nextUpdate c (s.crew c).puu = some u → u.addr = .sp x → u.remote = none →
    u.poison = false → size = fmtWidth (uopFormat u.uop) / 8 → s.poisonedAt (.pool c x) size = false → Memory.wf (s.crew c).pool = true →
    ∃ t, exec (.puuUpdateApply c) s = .next t ∧ (t.crew c).puu = (s.crew c).puu.erase u ∧
      mnat (t.crew c).pool x size = updateNew u.uop (ofBytes (s.bytesAt (.pool c x) size)) u.operand % 256 ^ size ∧
      ∀ y, (y < x ∨ x + size ≤ y) → mget (t.crew c).pool y = mget (s.crew c).pool y) ∧
  (∀ m o : Nat, m < 2 ^ 32 → o < 2 ^ 32 → updateNew 0 m o = (m + o) % 2 ^ 32 ∧
    updateNew 3 m o = (if (BitVec.ofNat 32 o).toInt < (BitVec.ofNat 32 m).toInt then o else m) ∧
    updateNew 4 m o = (if (BitVec.ofNat 32 m).toInt < (BitVec.ofNat 32 o).toInt then o else m) ∧
    updateNew 5 m o = Nat.min m o ∧ updateNew 6 m o = Nat.max m o ∧ updateNew 9 m o = m ||| o ∧ updateNew 10 m o = m &&& o)
end Sys2Proof.Slice0

namespace Sys2Proof.Slice0
/-- R87, R102, R107, R109: the indirect-stream engine of a stack serves the next element of its oldest request that can be served, which then stands last (that order among
requests is the model's choice, log 105): where its index and element can be read, the element goes to its place in the token in progress, which is complete with 32 bytes or
with the last element, and one of 32 bytes or more is a token for each 32 bytes. Its next token enters the channel that has room. A stream command with nothing left to do frees its slot
and signals its semaphore; one that was killed frees its slot alone. -/
def requestAndCompletionStepsRule : Prop :=
  (∀ (k c n x v : Nat) (p : Bool) (a a1 a2 : Active) (s s0 s1 s2 : State) (rest : List (Nat × Nat)), tget s.ise k [] = (c, n) :: rest →
    rest.length < 32 → (∀ r ∈ rest, r ≠ (c, n)) → runs s c n .isx a → a.ended = false → (s.crew c).stopped = false →
    a.send.length < 64 → (a.outN ≠ 0 ∨ (s.crew c).streamCovers a (a.send.length + (iseElemSize a.cmd.blk / 32 - 1)) = true) → s0 = { s with ise := tset s.ise k (rest ++ [(c, n)]) } →
    s0.readElem (64 + k) c n 0 a (iseIndexAddress a.cmd.blk a.pos) (iseIndexSize a.cmd.blk) = (.value x false, s1, a1) →
    iseInWindow a.cmd.blk (iseElement a.cmd.blk (iseIndex a.cmd.blk x)) = true →
    s1.readElem (64 + k) c n 0 a1 (iseElement a.cmd.blk (iseIndex a.cmd.blk x)) (iseElemSize a.cmd.blk) = (.value v p, s2, a2) →
    ∃ b stop, exec (.iseRequest k) s = .next (s2.putSlot c n b) ∧ b = a2.isePut v p none (iseElement a.cmd.blk (iseIndex a.cmd.blk x)) ∧
      b.pos = a2.pos + 1 ∧ b.ended = decide (a2.pos + 1 = iseCount a2.cmd.blk) ∧
      stop = (if a2.pos + 1 = iseCount a2.cmd.blk ∧ iseEndstop a2.cmd.blk = true then [⟨7, a2.cmd.strand, 1, false⟩] else []) ∧
      (∀ z, z = iseElemSize a2.cmd.blk →
        (z < 32 → a2.outError = none →
          if a2.outN + 1 = 32 / z ∨ a2.pos + 1 = iseCount a2.cmd.blk then
            b.outN = 0 ∧ b.send = a2.send ++ [⟨a2.out + v % 2 ^ (8 * z) * 2 ^ (8 * z * a2.outN), a2.cmd.strand, 0, a2.outPoison || p⟩] ++ stop
          else b.outN = a2.outN + 1 ∧ b.out = a2.out + v % 2 ^ (8 * z) * 2 ^ (8 * z * a2.outN) ∧ b.outPoison = (a2.outPoison || p) ∧
            b.send = a2.send) ∧
        (32 ≤ z → b.send = a2.send ++ (List.range (z / 32)).map (fun i => ⟨v / 2 ^ (256 * i) % 2 ^ 256, a2.cmd.strand, 0, p⟩) ++ stop))) ∧
  (∀ (c n : Nat) (a : Active) (t : Token) (r : List Token) (s : State), runs s c n .isx a → a.send = t :: r → (s.crew c).streamCanSend a t = true →
    ∃ u, exec (.iseTokenDeliver c n) s = .next u ∧ (u.crew c).chans = ((s.crew c).enqueueAll t a.cmd.outs).chans ∧
      tfind (u.crew c).streams.slots n = some { a with send := r }) ∧
  (∀ (c n : Nat) (a : Active) (s : State), (s.core c).held = true → tfind (s.crew c).streams.slots n = some a → a.finished = true → a.killed = false →
    (s.crew c).streams.kills = [] → (∀ v ∈ (s.crew c).graph.waves, v.begun = false) →
    ∃ u, exec (.streamComplete c n) s = .next u ∧ tfind (u.crew c).streams.slots n = none ∧
      (∀ m, m ≠ n → tfind (u.crew c).streams.slots m = tfind (s.crew c).streams.slots m) ∧
      (∀ j, (u.crew c).sem j = signalled (s.crew c) a.cmd.sem j) ∧
      tget (u.crew c).streams.open_ a.cmd.strand 0 = tget (s.crew c).streams.open_ a.cmd.strand 0 - 1) ∧
  (∀ (c n : Nat) (a : Active) (s : State), (s.core c).held = true → tfind (s.crew c).streams.slots n = some a → a.finished = true → a.killed = true →
    (s.crew c).streams.kills = [] →
    ∃ u, exec (.streamComplete c n) s = .next u ∧ tfind (u.crew c).streams.slots n = none ∧ (u.crew c).sems = (s.crew c).sems)
end Sys2Proof.Slice0

/-- R87 to R92, R102, R103, R125: the update units, the indirect-stream engines, and the completion of a stream. -/
def Obligations.UpdatesAndCompletion : Prop :=
  Sys2Proof.Slice0.updateUnitsRule ∧ Sys2Proof.Slice0.requestAndCompletionStepsRule

/-- R153 to R158, R164: a wave dispatched where its queues have room stands in the SM queue, in the array's configuration queue and in the VE queue once for each element that its
mask names, and a period ends. Its SM entry at the head leaves the queue and the terminator begins to move. A node without an entry passes it at once into the
idle plane's entry. When everything in its mask has passed and no marker is left, the wave completes and signals. -/
def Obligations.Waves : Prop :=
  (∀ (a b f : Reg) (g : Pred) (s : State), s.me.getP g = true → (s.me.getX a).toNat < 1024 → (s.me.getX b).toNat < 2 →
    s.mine.waveRoom (s.me.getX a).toNat = true →
    ∃ t, exec (.wave a b f g) s = .next t ∧ onlyDispatched s t ∧
      t.mine.streams.queue = s.mine.streams.queue ++
        [⟨.wave, (s.me.getX a).toNat, (s.me.getX b).toNat, 0, s.cur.strand, f.toNat, [], 0, none, s.mine.graph.period⟩] ∧
      t.mine.array.cfgq.length = s.mine.array.cfgq.length + (if (s.me.getX a).getLsbD 1 then 1 else 0) ∧
      t.mine.veq.map VeEntry.cmd = s.mine.veq.map VeEntry.cmd ++ ((List.range 8).filter (fun e => (s.me.getX a).getLsbD (e + 2))).map VeCmd.wave ∧
      t.mine.graph.period = s.mine.graph.period + 1 ∧
      t.mine.graph.waves.map (fun v => (v.mask, v.abandon, v.sem, v.begun)) = s.mine.graph.waves.map (fun v => (v.mask, v.abandon, v.sem, v.begun)) ++
        [((s.me.getX a).toNat, (s.me.getX b).getLsbD 0, f.toNat, false)]) ∧
  (∀ (c : Nat) (q : SmCmd) (qs : List SmCmd) (v : Wave) (vs : List Wave) (s : State), (s.core c).held = true → (s.crew c).streams.queue = q :: qs →
    q.op = .wave → (s.crew c).graph.waves = v :: vs → v.begun = false →
    ∃ t u, exec (.waveSmEntry c) s = .next t ∧ (t.crew c).streams.queue = qs ∧ (t.crew c).graph.waves = u :: vs ∧ u.begun = true ∧ u.mask = v.mask) ∧
  (∀ (c k : Nat) (v : Wave) (s : State), (s.core c).held = true → k < 28 → (s.crew c).moving = some v → v.mask.testBit 0 = true →
    smem v.passed k = false → tfind (s.crew c).graph.active.nodes k = none → (∃ j, j < 28 ∧ j ≠ k ∧ smem v.passed j = false) →
    ∃ t u, exec (.terminatorPassage c k) s = .next t ∧ (t.crew c).moving = some u ∧ smem u.passed k = true ∧
      tfind (t.crew c).graph.active.nodes k = tfind (s.crew c).graph.idle.nodes k ∧
      ∀ ch, ((t.crew c).chan ch).fifo = ((s.crew c).chan ch).fifo) ∧
  (∀ (c : Nat) (v : Wave) (vs : List Wave) (s : State), (s.core c).held = true → (s.crew c).graph.waves = v :: vs → v.begun = true →
    (s.crew c).waveOver v = true →
    ∃ t, exec (.waveComplete c) s = .next t ∧ (t.crew c).graph.waves = vs ∧
      ∀ j, (t.crew c).sem j = signalled (s.crew c) v.sem j)

namespace Sys2Proof.Slice0

/-! ### Array commands (R177, R189 to R198) -/

/-- An array command: its operation, guard, and what its dispatch checks come to. -/
def arrayRow (s : State) : Instr → Option (ArOp × Pred × Except Refused (ArCmd × Crew))
  | .arCarve a b f g => some (.carve, g, s.checkArCarve a b f)
  | .arMmap a b f g => some (.mmap, g, s.checkArMmap a b f)
  | .arCoop a f g => some (.coop, g, s.checkArCoop a f)
  | .arHold a b f g => some (.hold, g, s.checkArHold a b f)
  | .arStep a f g => some (.step, g, s.checkArStep a f)
  | .arFeed a b f g => some (.feed, g, s.checkArFeed a b f)
  | .mxRun a f g => some (.run, g, s.checkMxRun a f)
  | .arZero a b f g => some (.zero, g, s.checkArZero a b f)
  | .arDrain a f g => some (.drain, g, s.checkArDrain a f)
  | .arChk a b f g => some (.chk, g, s.checkArChk a b f)
  | _ => none

/-- Table 7.4: the queue that an operation goes to: 1 configuration, 2 feed, 3 drain. -/
def arrayPlace : ArOp → Nat
  | .carve => 1
  | .mmap => 1
  | .coop => 1
  | .wave => 1
  | .drain => 3
  | .chk => 3
  | .hold => 2
  | .step => 2
  | .feed => 2
  | .run => 2
  | .zero => 2

/-- A product as a block adder takes it: special, or exact in units of 2^-32 (R32). -/
def exactProduct : Machine.Num → Prop
  | .fin _ m e => m < 2 ^ 32 ∧ -32 ≤ e ∧ e ≤ 40
  | _ => True

/-- A queue of the array, and the depths of the queues (Table 10.2). -/
def arrayQueue (r : Array) (n : Nat) : List ArCmd := if n = 1 then r.cfgq else if n = 2 then r.feedq else r.drainq
def arrayDepth (n : Nat) : Nat := if n = 2 then 32 else 16

/-- An array command as the current strand puts it into its queue. -/
def arrayCommand (s : State) (op : ArOp) (a b : Nat) (groups : List Group) (f : Reg) : ArCmd :=
  ⟨op, a, b, 0, groups, f.toNat, s.cur.strand, s.mine.array.nextSeq, s.mine.array.period, s.mine.graph.period⟩

/-- A vector element queue command as the current strand puts it into the VE queue. -/
def elementEntry (s : State) (c : VeCmd) (f : Reg) : VeEntry := ⟨c, f.toNat, s.cur.strand, s.mine.graph.period, false⟩

end Sys2Proof.Slice0

/-- R177, R189 to R198: an array command whose checks hold and whose queue has room stands last in its queue, and no other queue and neither plane of the array
changes; with the queue full its strand waits; one that a check refuses traps with that check's cause. ar.step of a rowtag, ar.zero of entries that exist and ar.chk
of an aligned block in the scratchpad pass their checks. -/
def Obligations.ArrayDispatch : Prop :=
  (∀ (i : Instr) (op : ArOp) (g : Pred) (c : ArCmd) (w : Crew) (s : State), arrayRow s i = some (op, g, .ok (c, w)) → s.me.getP g = true →
    (arrayQueue s.mine.array (arrayPlace op)).length < arrayDepth (arrayPlace op) →
    ∃ t, exec i s = .next t ∧ onlyDispatched s t ∧ c.op = op ∧ c.strand = s.cur.strand ∧ c.seq = s.mine.array.nextSeq ∧
      (∀ n, 1 ≤ n → n ≤ 3 → arrayQueue t.mine.array n = arrayQueue s.mine.array n ++ (if n = arrayPlace op then [c] else [])) ∧
      t.mine.array.nextSeq = s.mine.array.nextSeq + 1 ∧
      t.mine.array.active = s.mine.array.active ∧ t.mine.array.idle = s.mine.array.idle ∧ t.mine.array.cells = s.mine.array.cells) ∧
  (∀ (i : Instr) (op : ArOp) (g : Pred) (x : Except Refused (ArCmd × Crew)) (s : State), arrayRow s i = some (op, g, x) → s.me.getP g = true →
    arrayDepth (arrayPlace op) ≤ (arrayQueue s.mine.array (arrayPlace op)).length → exec i s = .next s) ∧
  (∀ (i : Instr) (op : ArOp) (g : Pred) (r : Refused) (s : State), arrayRow s i = some (op, g, .error r) → s.me.getP g = true →
    (arrayQueue s.mine.array (arrayPlace op)).length < arrayDepth (arrayPlace op) → exec i s = .next (s.takeTrap r.1 (BitVec.ofNat 64 r.2))) ∧
  (∀ (a f : Reg) (g : Pred) (s : State), s.me.getP g = true → s.mine.array.feedq.length < 32 → (s.me.getX a).toNat < 256 →
    ∃ t, exec (.arStep a f g) s = .next t ∧ onlyDispatched s t ∧ t.mine.array.feedq = s.mine.array.feedq ++ [arrayCommand s .step (s.me.getX a).toNat 0
      (s.mine.now.array.groups.filter (fun x => field x.word 55 48 == (s.me.getX a).toNat)) f]) ∧
  (∀ (a b f : Reg) (g : Pred) (s : State), s.me.getP g = true → s.mine.array.feedq.length < 32 → 1 ≤ (s.me.getX b).toNat →
    (s.me.getX a).toNat < 1048576 → (s.me.getX b).toNat ≤ 524288 → (s.me.getX a).toNat + (s.me.getX b).toNat ≤ s.mine.accEntries →
    ∃ t, exec (.arZero a b f g) s = .next t ∧ onlyDispatched s t ∧
      t.mine.array.feedq = s.mine.array.feedq ++ [arrayCommand s .zero (s.me.getX a).toNat (s.me.getX b).toNat [] f]) ∧
  (∀ (a b f : Reg) (g : Pred) (s : State), s.me.getP g = true → s.mine.array.drainq.length < 16 → (s.me.getX a).toNat % 64 = 0 →
    (s.me.getX a).toNat + 64 ≤ s.mine.spSize → (s.me.getX b).toNat < 2 →
    ∃ t, exec (.arChk a b f g) s = .next t ∧ onlyDispatched s t ∧
      t.mine.array.drainq = s.mine.array.drainq ++ [arrayCommand s .chk (s.me.getX a).toNat (s.me.getX b).toNat [] f])

namespace Sys2Proof.Slice0
/-- R35, R166, R172, R180, R195, R197: a leaf whose latched operand meets a full slot of its K position fires: its latch empties and, unless the slot was loaded absent, the pair joins
its span. A complete span that nothing before it holds up is accumulated once into its entry and is gone; the combine stage accumulates a joined element so. A drain sends the stop it owes,
and its values in order. A completed command of the head of each queue leaves it and signals. With no physical error every check of a product and of a block's sum passes, and an error that is
no multiple of 7 fails (R41). A drain to f64 keeps a subnormal entry whatever flush-to-zero says (R40). -/
def arrayStepsDoneRule : Prop :=
  (∀ (c key : Nat) (x : Cell) (m : Moving) (s : State), (s.core c).held = true → tfind (s.crew c).array.cells key = some x → x.latch = some m →
    x.slot.full = true → x.slot.kpos = m.kpos →
    ∃ t y, exec (.leafFire c key 0) s = .next t ∧ tfind (t.crew c).array.cells key = some y ∧ y.latch = none ∧ y.ring = x.ring ∧ y.cur = x.cur ∧
      (t.crew c).array.spans = (s.crew c).array.spans.map (fun z => if z.id = m.span then { z with
        pairs := if x.slot.absent then z.pairs else tset z.pairs m.kpos ⟨x.slot.value, m.value, x.slot.scale, m.scale, 0⟩
        poison := if x.slot.absent then z.poison else z.poison || x.slot.poison || m.poison
        pending := z.pending - 1 } else z) ∧ (t.crew c).pool = (s.crew c).pool) ∧
  (∀ (c cell v n : Nat) (fl : FlagSet) (x : Span) (rest : List Span) (s : State), (s.core c).held = true → (s.crew c).array.spans = x :: rest →
    x.first = cell / 2 → x.closed = true → x.pending = 0 → x.slice = none → x.poison = false → (s.crew c).mayAccumulate x [] = true →
    x.stagesOk (s.crew c).dualFire 0 = true →
    (s.crew c).entryPoisoned (x.code == 17) x.entry = false → x.result (fun _ => 0) = (some v, fl) → n = (if x.code = 17 then 8 else 4) →
    Memory.wf (s.crew c).pool = true →
    ∃ t, exec (.spanAccumulate c cell 0) s = .next t ∧ (t.crew c).array.spans = rest.filter (fun y => y.id != x.id) ∧
      mnat (t.crew c).pool ((s.crew c).entryAt x.entry) n =
        (accumulate x.code (mnat (s.crew c).pool ((s.crew c).entryAt x.entry) n) v).1 % 256 ^ n ∧
      ∀ y, (y < (s.crew c).entryAt x.entry ∨ (s.crew c).entryAt x.entry + n ≤ y) → mget (t.crew c).pool y = mget (s.crew c).pool y) ∧
  (∀ (c e entry : Nat) (q : ArCmd) (qs : List ArCmd) (x : Tile) (s : State), (s.core c).held = true → s.cur.err = 0 → (s.crew c).array.feedq = q :: qs → q.op = .run →
    (s.crew c).array.meet = .met → x = tileOf q.blk → e = (s.crew c).array.combined → entry = x.cbase + e / x.nloc * x.cstride + x.width * (e % x.nloc) →
    x.ks ≠ 1 → x.ik (coopIndex c q.b) = 0 → e < x.mloc * x.nloc →
    (∀ i, i < x.ks → (tfind (s.crew c).array.slices (e * x.ks + i)).isSome = true) →
    (∀ i, i < (s.crew c).entrySpan ((s.crew c).accWide || x.keepwide) → (s.crew c).drainReads q.seq (entry + i) = false) →
    ∃ t, exec (.coopCombine c) s = .next t ∧ (t.crew c).array.combined = e + 1 ∧
      (∀ i, i < x.ks → tfind (t.crew c).array.slices (e * x.ks + i) = none) ∧ (t.crew c).array.feedq = q :: qs ∧
      (∀ (v n code : Nat) (fl : FlagSet), code = (if (s.crew c).accWide || x.keepwide then 17 else 6) → n = (if code = 17 then 8 else 4) →
        (s.crew c).entryPoisoned (code == 17) entry = false →
        (∀ i, i < x.ks → ∀ z, tfind (s.crew c).array.slices (e * x.ks + i) = some z → z.2 = false) →
        treeSum (fun i => (tfind (s.crew c).array.slices (e * x.ks + i)).bind (fun z => z.1)) x.ks.log2 0 = (some v, fl) →
        Memory.wf (s.crew c).pool = true →
        mnat (t.crew c).pool ((s.crew c).entryAt entry) n = (accumulate code (mnat (s.crew c).pool ((s.crew c).entryAt entry) n) v).1 % 256 ^ n ∧
        ∀ y, (y < (s.crew c).entryAt entry ∨ (s.crew c).entryAt entry + n ≤ y) → mget (t.crew c).pool y = mget (s.crew c).pool y)) ∧
  (∀ (c port k : Nat) (q : ArCmd) (s : State), (s.core c).held = true → (s.crew c).array.drainHead = some q → (drainOf q.blk).port = port →
    (s.crew c).array.drainPos.owed = some k → (s.crew c).stopped = false → (s.crew c).canAll 28 (stopToken k q.strand) [q.b] = true →
    ∃ t, exec (.drainToken c port) s = .next t ∧ (t.crew c).chans = ((s.crew c).enqueue (stopToken k q.strand) q.b).chans ∧
      (t.crew c).array.drainPos.owed = none ∧ (t.crew c).array.drainPos.row = (s.crew c).array.drainPos.row + 1 ∧ (t.crew c).pool = (s.crew c).pool) ∧
  (∀ (c port w : Nat) (row vs : List (Nat × Bool)) (q : ArCmd) (d : DrainBlock) (s : State), (s.core c).held = true →
    (s.crew c).array.drainHead = some q → d = drainOf q.blk → d.port = port → (s.crew c).array.drainPos.owed = none → d.check = false → d.clear = false →
    w = fmtWidth d.tfmt → row = d.row q.groups (s.crew c).accWide (s.crew c).array.drainPos.row →
    vs = (row.drop (s.crew c).array.drainPos.sent).take (256 / w) → vs ≠ [] → (s.crew c).stopped = false →
    (s.crew c).readable c q.seq vs = true → (∀ y ∈ vs, (s.crew c).entryPoisoned y.2 y.1 = false) →
    (∀ y, (s.crew c).canAll 28 ⟨y, q.strand, 0, false⟩ [q.b] = true) →
    ∃ t y, exec (.drainToken c port) s = .next t ∧ (t.crew c).chans = ((s.crew c).enqueue ⟨y, q.strand, 0, false⟩ q.b).chans ∧
      (∀ i, i < vs.length → y / 2 ^ (w * i) % 2 ^ w = (convert (if (vs.getD i (0, false)).2 then 17 else 6) d.tfmt ((rmOf d.rm).getD .rne) 0
        ((s.crew c).info.mode.getLsbD 3) ((s.crew c).info.mode.getLsbD 2 && d.tfmt != 17)
        ((s.crew c).entryValue (vs.getD i (0, false)).2 (vs.getD i (0, false)).1)).1 % 2 ^ w) ∧ y < 2 ^ (w * vs.length) ∧
      ((s.crew c).array.drainPos.sent + vs.length < row.length → (t.crew c).array.drainPos.sent = (s.crew c).array.drainPos.sent + vs.length ∧
        (t.crew c).array.drainPos.row = (s.crew c).array.drainPos.row) ∧ (t.crew c).pool = (s.crew c).pool) ∧
  (∀ (c : Nat) (q : ArCmd) (qs : List ArCmd) (s : State), (s.core c).held = true → (s.crew c).array.cfgq = q :: qs →
    (q.op = .carve ∨ q.op = .mmap ∨ q.op = .coop) →
    ∃ t, exec (.arrayCommandComplete c 1) s = .next t ∧ (t.crew c).array.cfgq = qs ∧ (t.crew c).array.active = (s.crew c).array.active ∧
      (t.crew c).array.idle.groups = (if q.op = .carve then q.groups else (s.crew c).array.idle.groups) ∧
      (t.crew c).array.idle.feeds = (if q.op = .mmap then q.a else (s.crew c).array.idle.feeds) ∧
      (t.crew c).array.idle.drains = (if q.op = .mmap then q.b else (s.crew c).array.idle.drains) ∧
      (t.crew c).array.idle.coop = (if q.op = .coop then q.a else (s.crew c).array.idle.coop) ∧
      ∀ j, (t.crew c).sem j = signalled (s.crew c) q.sem j) ∧
  (∀ (c : Nat) (q : ArCmd) (qs : List ArCmd) (s : State), (s.core c).held = true → (s.crew c).array.drainq = q :: qs → q.op = .drain →
    (s.crew c).array.drained = true →
    ∃ t, exec (.arrayCommandComplete c 3) s = .next t ∧ (t.crew c).array.drainq = qs ∧ (t.crew c).array.drained = false ∧
      ∀ j, (t.crew c).sem j = signalled (s.crew c) q.sem j) ∧
  (∀ (c : Nat) (q : ArCmd) (s : State), (s.core c).held = true → (s.crew c).array.feeding = [q] → q.op = .feed →
    (∀ x ∈ (s.crew c).array.spans, x.seq ≠ q.seq) →
    ∃ t, exec (.arrayCommandComplete c 2) s = .next t ∧ (t.crew c).array.feeding = [] ∧ (t.crew c).pool = (s.crew c).pool ∧
      ∀ j, (t.crew c).sem j = signalled (s.crew c) q.sem j) ∧
  (∀ (dual : Bool) (code a b err : Nat), err % 7 ≠ 0 → err < 2 ^ 64 → firingOk dual code a b err = false) ∧
  (∀ (dual : Bool) (prods : List Machine.Num) (err : Nat), prods.length ≤ 32 → (∀ v ∈ prods, exactProduct v) → err < 2 ^ 64 →
    blockAdderOk dual prods 0 = true ∧ (err % 7 ≠ 0 → blockAdderOk dual prods err = false))
end Sys2Proof.Slice0

namespace Sys2Proof.Slice0
/-- R223 to R229: an element command whose checks hold while the VE queue has room stands last in it with what it captured; no element changes yet. With the queue
full the strand waits. A stopping element stops and is otherwise as it was. -/
def elementCommandsQueuedRule : Prop :=
  (∀ (a f : Reg) (g : Pred) (s : State), s.me.getP g = true → s.mine.veq.length < 16 → (s.me.getX a).toNat < 256 →
    (∃ t, exec (.veStart a f g) s = .next t ∧ onlyDispatched s t ∧ t.mine.elems = s.mine.elems ∧
      t.mine.veq = s.mine.veq ++ [elementEntry s (.start (s.me.getX a).toNat) f]) ∧
    (∃ t, exec (.veStop a f g) s = .next t ∧ onlyDispatched s t ∧ t.mine.elems = s.mine.elems ∧
      t.mine.veq = s.mine.veq ++ [elementEntry s (.stop (s.me.getX a).toNat) f])) ∧
  (∀ (a b f : Reg) (g : Pred) (s : State), s.me.getP g = true → s.mine.veq.length < 16 → (s.me.getX a).toNat < 32 → (s.me.getX b).toNat < 8 →
    ∃ t, exec (.veSwap a b f g) s = .next t ∧ onlyDispatched s t ∧ t.mine.elems = s.mine.elems ∧
      t.mine.veq = s.mine.veq ++ [elementEntry s (.swap (s.me.getX b).toNat (s.me.getX a).toNat) f]) ∧
  (∀ (a b f : Reg) (g : Pred) (s : State) (x y first n : Nat), s.me.getP g = true → s.mine.veq.length < 16 → x = (s.me.getX a).toNat →
    y = (s.me.getX b).toNat → first = y / 8 % 1024 → n = y / 8192 % 256 → x % 32 = 0 → y < 2097152 → x + 32 * n ≤ s.mine.spSize →
    transferOk (vprivOf s.mine.info.part.toNat) (vsharedOf s.mine.info.part.toNat) first n = true →
    (∃ t, exec (.veRd a b f g) s = .next t ∧ onlyDispatched s t ∧ t.mine.elems = s.mine.elems ∧
      t.mine.veq = s.mine.veq ++ [elementEntry s (.rd x (y % 8) first n) f]) ∧
    (∃ t, exec (.veWr a b f g) s = .next t ∧ onlyDispatched s t ∧ t.mine.elems = s.mine.elems ∧
      t.mine.veq = s.mine.veq ++ [elementEntry s (.wr x (y % 8) first n) f])) ∧
  (∀ (a b f : Reg) (g : Pred) (s s1 : State) (x y n : Nat) (bytes : List Byte), s.me.getP g = true → s.mine.veq.length < 16 →
    x = (s.me.getX a).toNat → y = (s.me.getX b).toNat → n = y / 1024 % 128 → x % 4 = 0 → y < 131072 → 1 ≤ n → y / 16 % 64 + n ≤ 64 →
    s.readSpace (y / 8 % 2) x (4 * n) [] = .got bytes s1 →
    ∃ t, exec (.veKonst a b f g) s = .next t ∧ onlyDispatched s1 t ∧ t.mine.elems = s1.mine.elems ∧
      t.mine.veq = s1.mine.veq ++ [elementEntry s1 (.konst (y % 8) (y / 16 % 64) ((List.range n).map (fun j => ofBytes ((bytes.drop (4 * j)).take 4)))) f]) ∧
  (∀ (a b f : Reg) (g : Pred) (s s1 : State) (x y header : Nat) (words : List Nat) (bytes : List Byte), s.me.getP g = true → s.mine.veq.length < 16 →
    x = (s.me.getX a).toNat → y = (s.me.getX b).toNat → x % 8 = 0 → y < 16 → s.readSpace (y / 8) x 136 [] = .got bytes s1 →
    header = ofBytes (bytes.take 8) → words = (List.range 16).map (fun j => ofBytes ((bytes.drop (8 + 8 * j)).take 8)) → header < 262144 →
    imageBad (vprivOf s1.mine.info.part.toNat) (vsharedOf s1.mine.info.part.toNat) (portIns (s1.mine.comingPlane (y % 8)).ports)
      (portOuts (s1.mine.comingPlane (y % 8)).ports) (y % 8) (header % 65536) 0 words = none →
    ∃ t, exec (.vePlane a b f g) s = .next t ∧ onlyDispatched s1 t ∧ t.mine.elems = s1.mine.elems ∧
      t.mine.veq = s1.mine.veq ++ [elementEntry s1 (.plane (y % 8) (header / 65536) (header % 65536)
        ((maskBits 16 (header % 65536)).map (fun j => (j, words.getD j 0)))) f]) ∧
  (∀ (a b f : Reg) (g : Pred) (s : State) (x e : Nat), s.me.getP g = true → s.mine.veq.length < 16 → x = (s.me.getX a).toNat → e = (s.me.getX b).toNat →
    bindWordOk x = true → e < 8 → (s.mine.comingPlane e).slots = [] → s.mine.firstConflict s.mine.coming false (32 + e) [] (portIns x) = none →
    s.mine.firstConflict s.mine.coming true (32 + e) [] (portOuts x) = none →
    ∃ t, exec (.veBind a b f g) s = .next t ∧ onlyDispatched s t ∧ t.mine.elems = s.mine.elems ∧
      t.mine.veq = s.mine.veq ++ [elementEntry s (.bind e x) f]) ∧
  (∀ (a b f : Reg) (g : Pred) (s : State), s.me.getP g = true → 16 ≤ s.mine.veq.length →
    ∀ i ∈ [Instr.vePlane a b f g, .veSwap a b f g, .veBind a b f g, .veStart a f g, .veStop a f g, .veRd a b f g, .veWr a b f g, .veKonst a b f g],
      exec i s = .next s) ∧
  (∀ (c e : Nat) (s : State), (s.core c).held = true → ((s.crew c).elem e).state.getLsbD 2 = true →
    ∃ t, exec (.elementStopComplete c e) s = .next t ∧ (t.crew c).elem e = { (s.crew c).elem e with state := ((s.crew c).elem e).state &&& ~~~5 } ∧
      (t.crew c).chans = (s.crew c).chans ∧ (t.crew c).sems = (s.crew c).sems)
end Sys2Proof.Slice0

namespace Sys2Proof.Slice0

/-- The cells of a command's groups, one for each position. -/
def groupCells (q : ArCmd) : List Nat := (q.groups.map (fun g => (List.range g.positions).map g.cellOf)).flatten

/-- Where a hold reads (R192): the coordinate of slot i of group number n of its block. -/
def heldCoord (s : State) (c n i : Nat) (q : ArCmd) : Nat := s.poolNat c (blkAt q.blk 0x10 4 + n * blkAt q.blk 0x14 4 + 2 * i) 2

/-- The K position of slot i of group number n: i in a dense group, the coordinate in a sparse one. -/
def heldPosition (s : State) (c n i : Nat) (q : ArCmd) (g : Group) : Nat := if g.sparse then heldCoord s c n i q else i

/-- R192: is slot i of group number n loaded absent? -/
def heldAbsent (s : State) (c n i : Nat) (q : ArCmd) (g : Group) : Bool :=
  (g.sparse && (decide (768 ≤ heldCoord s c n i q) || (i != 0 && decide (heldCoord s c n i q ≤ heldCoord s c n (i - 1) q)))) ||
    (mxFmt g.fmt && decide (blkAt q.blk 0x18 1 ≤ heldPosition s c n i q g / 32))

/-- R192: what slot i of group number n holds after the hold: its value, K position, scale, whether it is absent, and no poison where the bytes read have none. -/
def heldSlot (s : State) (c n i : Nat) (q : ArCmd) (g : Group) (z : Slot) : Prop :=
  z.full = true ∧ z.kpos = heldPosition s c n i q g ∧ z.absent = heldAbsent s c n i q g ∧
  z.value = s.poolNat c (blkAt q.blk 0 4 + n * blkAt q.blk 4 4 + fmtBits g.fmt * i / 8) (Nat.max 1 (fmtBits g.fmt / 8)) / 2 ^ (fmtBits g.fmt * i % 8) %
    2 ^ fmtBits g.fmt ∧
  (mxFmt g.fmt = true → heldPosition s c n i q g / 32 < blkAt q.blk 0x18 1 →
    z.scale = s.poolNat c (blkAt q.blk 8 4 + n * blkAt q.blk 0xC 4 + heldPosition s c n i q g / 32) 1) ∧
  ((s.crew c).poolPoison = [] → z.poison = false)

/-- p is the place of the first empty slot of a ring, searching from cur. -/
def firstEmpty (x : Cell) (p : Nat) : Prop :=
  ∃ j, j < x.ring.length ∧ p = (x.cur + j) % x.ring.length ∧ (x.ring.getD p emptySlot).full = false ∧
    ∀ i, i < j → (x.ring.getD ((x.cur + i) % x.ring.length) emptySlot).full = true

/-- The feed at the head of a core's feed queue, its period begun, the core held. -/
def feedAt (s : State) (c : Nat) (q : ArCmd) (qs : List ArCmd) : Prop :=
  (s.core c).held = true ∧ (s.crew c).array.feedq = q :: qs ∧ q.op = .feed ∧ q.period = (s.crew c).array.passed

/-- Does position i of a group take the element with label p (R171)? Position p of a dense group; in a sparse one each whose slot cur holds that K position. -/
def takesElement (r : Array) (g : Group) (i p : Nat) : Prop :=
  i < g.positions ∧ if g.sparse then (r.cell (g.cellOf i) g.depth).slot.kpos = p else i = p

/-- The number of the span of group number n in the row at work: a new one where the row begins. -/
def rowSpan (r : Array) (n : Nat) : Nat := if r.feedPos.tok = 0 then r.nextSpan + n else r.feedPos.spans.getD n 0

/-- The elements of a token of the row format, the label of the first, and element j. -/
def perToken (q : ArCmd) : Nat := 256 / fmtBits q.rowFmt
def firstLabel (r : Array) (q : ArCmd) : Nat := perToken q * (r.feedPos.tok - (if mxFmt q.rowFmt then 1 else 0))

/-- Position i of group number n takes element j of a token of the row at work. -/
def delivered (r : Array) (q : ArCmd) (n i j : Nat) (g : Group) : Prop :=
  q.groups[n]? = some g ∧ j < perToken q ∧ firstLabel r q + j < q.kext ∧ takesElement r g i (firstLabel r q + j)

/-- The VE queue's head, and the state in which a transfer of n bytes from a reads and writes: its strand's earlier stores to them performed (R306). -/
def veAt (s : State) (c : Nat) (v : VeEntry) (vs : List VeEntry) : Prop := (s.crew c).veq = v :: vs
def veEdge (s : State) (c a n : Nat) (v : VeEntry) : State := s.dispatchEdge c v.strand (.pool c a) n

/-- The head of the VE queue gone, its semaphore signalled. -/
def veLeft (w u : Crew) (v : VeEntry) (vs : List VeEntry) : Prop := u.veq = vs ∧ ∀ j, u.sem j = signalled w v.sem j

end Sys2Proof.Slice0

namespace Sys2Proof.Slice0
/-- R171, R192, R194, R306: a turn of an engine's queue. A hold at the head, after its strand's earlier stores, writes each slot of its groups into the first empty place of its ring, counts those loaded
absent, and signals; with a ring full it waits. A feed takes one token: each element goes to the latches that take it, for the span of their group, which the row's first token begins; with a latch taken it waits. The first
token of an MX row gives its scales; stops of rank 0 to 6 and counts are ignored; an error token poisons the row; a rank-7 stop ends the feed, short. A step of the machine on a queue's turn is that turn. -/
def holdAndFeedRule : Prop :=
  (∀ (c q : Nat) (s : State), s.turn.who = .queue c q → step s = settleTurn s (.next (s.beginTurn.queueTurn c q))) ∧
  (∀ (c : Nat) (q : ArCmd) (qs : List ArCmd) (s s0 : State), (s.core c).held = true → (s.crew c).array.feedq = q :: qs → q.op = .hold →
    (s.crew c).array.mayAct q = true → s0 = s.drainStrand c q.strand → (s0.core c).held = true → (s0.crew c).memReady q.core = true → (groupCells q).Nodup →
    (∀ g ∈ q.groups, ∀ i, i < g.positions → ∃ p, firstEmpty ((s0.crew c).array.cell (g.cellOf i) g.depth) p) → (s0.crew c).array.feedq = q :: qs →
    ((s.queueTurn c 2).crew c).array.feedq = qs ∧
    (∀ (n i p : Nat) (g : Group), q.groups[n]? = some g → i < g.positions → firstEmpty ((s0.crew c).array.cell (g.cellOf i) g.depth) p →
      ∃ z, heldSlot s0 c n i q g z ∧
        (((s.queueTurn c 2).crew c).array.cell (g.cellOf i) g.depth).ring = ((s0.crew c).array.cell (g.cellOf i) g.depth).ring.set p z ∧
        (((s.queueTurn c 2).crew c).array.cell (g.cellOf i) g.depth).cur = ((s0.crew c).array.cell (g.cellOf i) g.depth).cur) ∧
    (∀ k, k ∉ groupCells q → tfind ((s.queueTurn c 2).crew c).array.cells k = tfind (s0.crew c).array.cells k) ∧
    ((s.queueTurn c 2).crew c).array.holderr = Nat.min (2 ^ 32 - 1) ((s0.crew c).array.holderr + ((List.range q.groups.length).map (fun n =>
      ((List.range (q.groups.getD n ⟨0, 0⟩).positions).filter (fun i => heldAbsent s0 c n i q (q.groups.getD n ⟨0, 0⟩))).length)).sum) ∧
    (∀ j, ((s.queueTurn c 2).crew c).sem j = signalled (s0.crew c) q.sem j) ∧ ∀ l, (s.queueTurn c 2).rawByte l = s0.rawByte l) ∧
  (∀ (c i : Nat) (q : ArCmd) (qs : List ArCmd) (g : Group) (s s0 : State), (s.core c).held = true → (s.crew c).array.feedq = q :: qs → q.op = .hold →
    s0 = s.drainStrand c q.strand → (s.crew c).array.mayAct q = true → g ∈ q.groups → i < g.positions →
    (∀ z ∈ ((s0.crew c).array.cell (g.cellOf i) g.depth).ring, z.full = true) → s.queueTurn c 2 = s0) ∧
  (∀ (c : Nat) (q : ArCmd) (qs : List ArCmd) (t : Token) (r : Array) (s : State), feedAt s c q qs → (s.crew c).see 28 q.chan = .tok t → t.kind = 0 →
    r = (s.crew c).array → (mxFmt q.rowFmt = false ∨ r.feedPos.tok ≠ 0) → (groupCells q).Nodup →
    (r.feedPos.tok ≠ 0 → r.feedPos.spans.length = q.groups.length) →
    (∀ (n i j : Nat) (g : Group), delivered r q n i j g → (r.cell (g.cellOf i) g.depth).latch = none) →
    ((s.queueTurn c 2).crew c).chans = ((s.crew c).dequeue q.chan).chans ∧
    (∀ (n i j : Nat) (g : Group), delivered r q n i j g →
      ((s.queueTurn c 2).crew c).array.cell (g.cellOf i) g.depth = { r.cell (g.cellOf i) g.depth with
        latch := some ⟨t.data / 2 ^ (fmtBits q.rowFmt * j) % 2 ^ fmtBits q.rowFmt,
          if mxFmt q.rowFmt then r.feedPos.scale.getD 0 / 2 ^ (8 * ((firstLabel r q + j) / 32)) % 256 else 0, firstLabel r q + j,
          t.poison || r.feedPos.poison, rowSpan r n⟩ }) ∧
    (∀ k, (∀ (n i j : Nat) (g : Group), delivered r q n i j g → g.cellOf i ≠ k) →
      tfind ((s.queueTurn c 2).crew c).array.cells k = tfind r.cells k) ∧
    (r.feedPos.tok = 0 → ∀ (n : Nat) (g : Group), q.groups[n]? = some g → ∃ x ∈ ((s.queueTurn c 2).crew c).array.spans, x.id = r.nextSpan + n ∧
      x.seq = q.seq ∧ x.entry = 8 * g.accbase + g.width * (q.row0 + r.feedPos.row)) ∧
    (r.feedPos.tok + 1 < q.rowTokens → ((s.queueTurn c 2).crew c).array.feedPos.tok = r.feedPos.tok + 1 ∧
      ((s.queueTurn c 2).crew c).array.feedq = q :: qs) ∧
    (q.rowTokens ≤ r.feedPos.tok + 1 → (∀ (n : Nat) (g : Group), q.groups[n]? = some g → ∀ x ∈ ((s.queueTurn c 2).crew c).array.spans,
        x.id = rowSpan r n → x.closed = true) ∧
      (r.feedPos.row + 1 < q.rows → ((s.queueTurn c 2).crew c).array.feedPos.row = r.feedPos.row + 1 ∧ ((s.queueTurn c 2).crew c).array.feedPos.tok = 0) ∧
      (q.rows ≤ r.feedPos.row + 1 → ((s.queueTurn c 2).crew c).array.feedq = qs ∧ ((s.queueTurn c 2).crew c).array.feeding = r.feeding ++ [q]))) ∧
  (∀ (c n i j : Nat) (q : ArCmd) (qs : List ArCmd) (t : Token) (g : Group) (s : State), feedAt s c q qs → (s.crew c).see 28 q.chan = .tok t → t.kind = 0 →
    (mxFmt q.rowFmt = false ∨ (s.crew c).array.feedPos.tok ≠ 0) →
    ((s.crew c).array.feedPos.tok ≠ 0 → (s.crew c).array.feedPos.spans.length = q.groups.length) → delivered (s.crew c).array q n i j g →
    ((s.crew c).array.cell (g.cellOf i) g.depth).latch.isSome = true → s.queueTurn c 2 = s) ∧
  (∀ (c : Nat) (q : ArCmd) (qs : List ArCmd) (t : Token) (s : State), feedAt s c q qs → (s.crew c).see 28 q.chan = .tok t → t.kind = 0 →
    mxFmt q.rowFmt = true → (s.crew c).array.feedPos.tok = 0 → 1 < q.rowTokens →
    ((s.queueTurn c 2).crew c).array.feedPos.scale = some t.data ∧ ((s.queueTurn c 2).crew c).array.feedPos.tok = 1 ∧
    ((s.queueTurn c 2).crew c).array.cells = (s.crew c).array.cells ∧ ((s.queueTurn c 2).crew c).chans = ((s.crew c).dequeue q.chan).chans) ∧
  (∀ (c : Nat) (q : ArCmd) (qs : List ArCmd) (t : Token) (p : Bool) (s : State), feedAt s c q qs →
    ((s.crew c).see 28 q.chan = .zero t p ∨ ((s.crew c).see 28 q.chan = .tok t ∧ (t.kind = 1 ∨ t.kind = 2))) →
    ((s.queueTurn c 2).crew c).array = (s.crew c).array ∧ ((s.queueTurn c 2).crew c).chans = ((s.crew c).dequeue q.chan).chans) ∧
  (∀ (c : Nat) (q : ArCmd) (qs : List ArCmd) (t : Token) (r : Array) (s : State), feedAt s c q qs → (s.crew c).see 28 q.chan = .tok t → t.kind = 3 →
    r = (s.crew c).array →
    ((s.queueTurn c 2).crew c).array.errrows = (if r.feedPos.error then r.errrows else Nat.min (2 ^ 32 - 1) (r.errrows + 1)) ∧
    (∀ (n : Nat) (g : Group), q.groups[n]? = some g → ∀ x ∈ ((s.queueTurn c 2).crew c).array.spans, x.id = rowSpan r n →
      (r.feedPos.tok ≠ 0 → r.feedPos.spans.length = q.groups.length) → x.poison = true) ∧
    ((s.queueTurn c 2).crew c).chans = ((s.crew c).dequeue q.chan).chans) ∧
  (∀ (c : Nat) (q : ArCmd) (qs : List ArCmd) (t : Token) (s : State), feedAt s c q qs → (s.crew c).see 28 q.chan = .seven t →
    ((s.queueTurn c 2).crew c).array.short = true ∧ ((s.queueTurn c 2).crew c).array.feedq = qs ∧
    ((s.queueTurn c 2).crew c).array.feeding = (s.crew c).array.feeding ++ [q] ∧
    ((s.queueTurn c 2).crew c).array.spans = (s.crew c).array.spans.filter (fun x => !((s.crew c).array.feedPos.spans.contains x.id)) ∧
    ((s.queueTurn c 2).crew c).chans = ((s.crew c).dequeue q.chan).chans)
end Sys2Proof.Slice0

/-- R35, R166, R171, R172, R180, R192, R194, R195, R197: leaves, spans, the combine stage, drains and completion; and the turns of holds and feeds. -/
def Obligations.ArraySteps : Prop :=
  Sys2Proof.Slice0.arrayStepsDoneRule ∧ Sys2Proof.Slice0.holdAndFeedRule

namespace Sys2Proof.Slice0
/-- R223 to R229, R306: the turn of the VE queue carries out its head. ve.rd writes the registers that it names, or the predicate block, at its scratchpad address after its strand's earlier stores, and no other
byte; ve.wr loads them from there, with no deferred fields, poisoned where their granule is, and no other register. ve.plane, ve.bind and ve.konst replace the slots, the bindings or the constants
of the idle plane alone; they wait while a swap of the element is armed. ve.swap arms a swap of a running element or is refused with swaperr. ve.start runs the elements of its mask; ve.stop marks the
running ones stopping, and leaves once all have stopped. Each signals as it leaves. -/
def elementQueueWorkRule : Prop :=
  (∀ (c a e first n : Nat) (v : VeEntry) (vs : List VeEntry) (s s0 : State), veAt s c v vs → v.cmd = .rd a e first n → first ≠ 832 →
    (s.crew c).memReady v.period = true → a % 32 = 0 → s0 = veEdge s c a (32 * n) v → memoriesWf s0 →
    veLeft (s0.crew c) ((s.queueTurn c 4).crew c) v (s0.crew c).veq.tail ∧
    (∀ i l b, i < n → l < 8 → b < 4 → ((s.queueTurn c 4).rawByte (.pool c (a + 32 * i + 4 * l + b))).toNat =
      (((s0.crew c).elem e).reg (first + i) l).v.toNat / 256 ^ b % 256) ∧
    (∀ i, i < n → (smem ((s.queueTurn c 4).crew c).poolPoison (a / 32 + i) = true ↔ ∃ l, l < 8 ∧ (((s0.crew c).elem e).reg (first + i) l).poison = true)) ∧
    (∀ m, (∀ i, i < 32 * n → m ≠ .pool c (a + i)) → (s.queueTurn c 4).rawByte m = s0.rawByte m) ∧
    ∀ m l, (((s.queueTurn c 4).crew c).elem e).reg m l = ((s0.crew c).elem e).reg m l) ∧
  (∀ (c a e : Nat) (v : VeEntry) (vs : List VeEntry) (s s0 : State), veAt s c v vs → v.cmd = .rd a e 832 1 → (s.crew c).memReady v.period = true →
    s0 = veEdge s c a 32 v → memoriesWf s0 →
    veLeft (s0.crew c) ((s.queueTurn c 4).crew c) v (s0.crew c).veq.tail ∧
    (∀ b l, b < 4 → l < 8 → (s.queueTurn c 4).rawByte (.pool c (a + 8 * b + l)) = ((s.crew c).elem e).pred b l) ∧
    ∀ m, (∀ i, i < 32 → m ≠ .pool c (a + i)) → (s.queueTurn c 4).rawByte m = s0.rawByte m) ∧
  (∀ (c a e first n : Nat) (v : VeEntry) (vs : List VeEntry) (s s0 : State), veAt s c v vs → v.cmd = .wr a e first n → first ≠ 832 →
    (s.crew c).memReady v.period = true → a % 32 = 0 → s0 = veEdge s c a (32 * n) v →
    veLeft (s0.crew c) ((s.queueTurn c 4).crew c) v (s0.crew c).veq.tail ∧
    (∀ i l, i < n → l < 8 → (((s.queueTurn c 4).crew c).elem e).reg (first + i) l =
      ⟨BitVec.ofNat 32 (s0.poolNat c (a + 32 * i + 4 * l) 4), 0, smem (s0.crew c).poolPoison (a / 32 + i)⟩) ∧
    (∀ m l, l < 8 → (m < first ∨ first + n ≤ m) → (((s.queueTurn c 4).crew c).elem e).reg m l = ((s0.crew c).elem e).reg m l) ∧
    ∀ m, (s.queueTurn c 4).rawByte m = s0.rawByte m) ∧
  (∀ (c a e : Nat) (v : VeEntry) (vs : List VeEntry) (s s0 : State), veAt s c v vs → v.cmd = .wr a e 832 1 → (s.crew c).memReady v.period = true →
    a % 32 = 0 → s0 = veEdge s c a 32 v →
    veLeft (s0.crew c) ((s.queueTurn c 4).crew c) v (s0.crew c).veq.tail ∧
    (∀ b l, b < 4 → l < 8 → (((s.queueTurn c 4).crew c).elem e).pred b l =
      if smem (s0.crew c).poolPoison (a / 32) then 0 else s0.byteAt (.pool c (a + 8 * b + l))) ∧
    (smem (s0.crew c).poolPoison (a / 32) = true → (((s.queueTurn c 4).crew c).elem e).flags.getLsbD 6 = true) ∧
    ∀ m, (s.queueTurn c 4).rawByte m = s0.rawByte m) ∧
  (∀ (c e : Nat) (v : VeEntry) (vs : List VeEntry) (s : State), veAt s c v vs → ((s.crew c).elem e).state.getLsbD 1 = false → v.cmd.writesPlane = some e →
    veLeft (s.crew c) ((s.queueTurn c 4).crew c) v vs ∧ (((s.queueTurn c 4).crew c).elem e).active = ((s.crew c).elem e).active ∧
    (∀ d m slots, v.cmd = .plane e d m slots → (((s.queueTurn c 4).crew c).elem e).idle = { ((s.crew c).elem e).idle with
      defbank := d
      valid := m
      slots := slots }) ∧
    (∀ p, v.cmd = .bind e p → (((s.queueTurn c 4).crew c).elem e).idle = { ((s.crew c).elem e).idle with ports := p }) ∧
    (∀ first words, v.cmd = .konst e first words → (((s.queueTurn c 4).crew c).elem e).idle.slots = ((s.crew c).elem e).idle.slots ∧
      (((s.queueTurn c 4).crew c).elem e).idle.ports = ((s.crew c).elem e).idle.ports ∧
      (∀ i, i < words.length → tget (((s.queueTurn c 4).crew c).elem e).idle.consts (first + i) 0 = BitVec.ofNat 32 (words.getD i 0)) ∧
      ∀ i, (i < first ∨ first + words.length ≤ i) → tget (((s.queueTurn c 4).crew c).elem e).idle.consts i 0 = tget ((s.crew c).elem e).idle.consts i 0)) ∧
  (∀ (c e : Nat) (v : VeEntry) (vs : List VeEntry) (s : State), veAt s c v vs → ((s.crew c).elem e).state.getLsbD 1 = true → v.cmd.writesPlane = some e →
    s.queueTurn c 4 = s) ∧
  (∀ (c : Nat) (v : VeEntry) (vs : List VeEntry) (s : State), veAt s c v vs → v.cmd.touchesMemory = true → (s.crew c).memReady v.period = false →
    s.queueTurn c 4 = s) ∧
  (∀ (c e ch : Nat) (v : VeEntry) (vs : List VeEntry) (s : State), veAt s c v vs → v.cmd = .swap e ch → ch < 32 →
    (((s.crew c).elem e).state.getLsbD 1 = false → ch ∈ portIns ((s.crew c).elem e).active.ports →
      ((s.crew c).elem e).idle.ports = ((s.crew c).elem e).active.ports → ((s.crew c).elem e).state.getLsbD 0 = true → ((s.crew c).elem e).active.valid ≠ 0 →
      ((s.queueTurn c 4).crew c).veq = vs ∧ (((s.queueTurn c 4).crew c).elem e).state.getLsbD 1 = true ∧
      (((s.queueTurn c 4).crew c).elem e).state.toNat / 8 % 32 = ch ∧ (((s.queueTurn c 4).crew c).elem e).swapSem = v.sem ∧
      (((s.queueTurn c 4).crew c).elem e).active = ((s.crew c).elem e).active ∧ ((s.queueTurn c 4).crew c).sems = (s.crew c).sems) ∧
    ((((s.crew c).elem e).state.getLsbD 1 = true ∨ ch ∉ portIns ((s.crew c).elem e).active.ports ∨
        ((s.crew c).elem e).idle.ports ≠ ((s.crew c).elem e).active.ports) →
      veLeft (s.crew c) ((s.queueTurn c 4).crew c) v vs ∧ ((s.queueTurn c 4).crew c).elem e = { (s.crew c).elem e with
        flags := ((s.crew c).elem e).flags ||| 256 })) ∧
  (∀ (c m : Nat) (v : VeEntry) (vs : List VeEntry) (s : State), veAt s c v vs → v.cmd = .start m →
    veLeft (s.crew c) ((s.queueTurn c 4).crew c) v vs ∧
    ∀ e, (e < 8 → m.testBit e = true → (((s.queueTurn c 4).crew c).elem e).state = ((s.crew c).elem e).state ||| 1) ∧
      (e < 8 → m.testBit e = false → ((s.queueTurn c 4).crew c).elem e = (s.crew c).elem e)) ∧
  (∀ (c m : Nat) (v : VeEntry) (vs : List VeEntry) (s : State), veAt s c v vs → v.cmd = .stop m →
    (v.begun = false → ((s.queueTurn c 4).crew c).veq = { v with begun := true } :: vs ∧
      ∀ e, (e < 8 → m.testBit e = true → ((s.crew c).elem e).state.getLsbD 0 = true →
          (((s.queueTurn c 4).crew c).elem e).state = ((s.crew c).elem e).state ||| 4) ∧
        (e < 8 → (m.testBit e = false ∨ ((s.crew c).elem e).state.getLsbD 0 = false) → ((s.queueTurn c 4).crew c).elem e = (s.crew c).elem e)) ∧
    (v.begun = true → (∃ e, e < 8 ∧ m.testBit e = true ∧ ((s.crew c).elem e).state.getLsbD 0 = true) → s.queueTurn c 4 = s) ∧
    (v.begun = true → (∀ e, e < 8 → m.testBit e = true → ((s.crew c).elem e).state.getLsbD 0 = false) →
      veLeft (s.crew c) ((s.queueTurn c 4).crew c) v vs ∧ ((s.queueTurn c 4).crew c).elems = (s.crew c).elems))
end Sys2Proof.Slice0

/-- R223 to R229: element commands queued; and what the VE queue does with each. -/
def Obligations.ElementCommands : Prop :=
  Sys2Proof.Slice0.elementCommandsQueuedRule ∧ Sys2Proof.Slice0.elementQueueWorkRule

namespace Sys2Proof.Slice0

/-! ### Triggered operations (R209 to R237) -/

/-- The width of the lane elements that the iw field names, and that of an ft field's format (R60). -/
def laneWidth (m : Nat) : Nat := if m % 4 = 0 then 32 else if m % 4 = 1 then 16 else 8
def floatCode (m : Nat) : Nat := if m % 4 = 0 then 6 else if m % 4 = 1 then 7 else 8
def floatWidth (m : Nat) : Nat := if m % 4 = 0 then 32 else 16

/-- Element j of width w of a lane. -/
def part (w j : Nat) (x : BitVec 32) : BitVec w := BitVec.ofNat w (x.toNat / 2 ^ (w * j))

/-- An integer clamped to the signed range of w bits (R31). -/
def clamped (w : Nat) (v : Int) : BitVec w :=
  if v < -((2 ^ (w - 1) : Nat) : Int) then BitVec.ofInt w (-((2 ^ (w - 1) : Nat) : Int))
  else if ((2 ^ (w - 1) : Nat) : Int) ≤ v then BitVec.ofInt w (((2 ^ (w - 1) : Nat) : Int) - 1) else BitVec.ofInt w v

/-- With S clamped, without it wrapped. -/
def wrapped (sat : Bool) (w : Nat) (v : Int) : BitVec w := if sat then clamped w v else BitVec.ofInt w v

/-- An element as an integer, unsigned with N. -/
def read (uns : Bool) {w : Nat} (x : BitVec w) : Int := if uns then (x.toNat : Int) else x.toInt

/-- The leading zeros of an element, and its set bits. -/
def isLeading {w : Nat} (x : BitVec w) (n : Nat) : Prop := n ≤ w ∧ x.toNat < 2 ^ (w - n) ∧ (n < w → 2 ^ (w - 1 - n) ≤ x.toNat)
def setBits {w : Nat} (x : BitVec w) : Nat := ((List.range w).map (fun i => if x.getLsbD i then 1 else 0)).sum

/-- A result lane whose deferred field and poison come from the two operands' lanes, or from one's. -/
def fromTwo (y a b : Lane) : Prop := y.df = a.df ||| b.df ∧ y.poison = (a.poison || b.poison)
def fromOne (y a : Lane) : Prop := y.df = a.df ∧ y.poison = a.poison

/-- Table 8.6: what an integer operation makes of lane L, where r is what the firing reads. -/
def integerLane (m : BitVec 3) (f : (w : Nat) → BitVec w → BitVec w → BitVec w → Prop) (r : Fire) (l : Nat) (y : Lane) : Prop :=
  fromTwo y (r.a l) (r.b l) ∧ ∀ j, j < 32 / laneWidth m.toNat →
    f (laneWidth m.toNat) (part _ j (r.a l).v) (part _ j (r.b l).v) (part _ j y.v)
def integerLane1 (m : BitVec 3) (f : (w : Nat) → BitVec w → BitVec w → Prop) (r : Fire) (l : Nat) (y : Lane) : Prop :=
  fromOne y (r.a l) ∧ ∀ j, j < 32 / laneWidth m.toNat → f (laneWidth m.toNat) (part _ j (r.a l).v) (part _ j y.v)

/-- A bitwise operation over the 32 bits of lane L. -/
def bitLane (f : Bool → Bool → Bool) (r : Fire) (l : Nat) (y : Lane) : Prop :=
  fromTwo y (r.a l) (r.b l) ∧ ∀ j, j < 32 → y.v.getLsbD j = f ((r.a l).v.getLsbD j) ((r.b l).v.getLsbD j)

/-- The sum of the absolute differences of the elements of two lanes. -/
def differences (uns : Bool) (w : Nat) (a b : BitVec 32) : Nat :=
  ((List.range (32 / w)).map (fun j => (read uns (part w j a) - read uns (part w j b)).natAbs)).sum

/-- Element j of a lane as a pattern, and the draw of that element (R23). -/
def pattern (w j : Nat) (x : Lane) : Nat := x.v.toNat / 2 ^ (w * j) % 2 ^ w
def drawOf (r : Fire) (l w j : Nat) : Nat := laneDraw (r.word l) (32 / w) j

/-- What a floating-point operation makes of lane L: its function of each element, and the flags it raises beside the operands' own. -/
def floatLane (m : BitVec 3) (f : Nat → FpMode → Nat → Nat → Nat → Nat × FlagSet) (r : Fire) (l : Nat) (y : Lane) : Prop :=
  let c := floatCode m.toNat
  let w := floatWidth m.toNat
  let op := fun j => f c r.mode (drawOf r l w j) (pattern w j (r.a l)) (pattern w j (r.b l))
  (∀ j, j < 32 / w → pattern w j y = (op j).1 % 2 ^ w) ∧ y.poison = ((r.a l).poison || (r.b l).poison) ∧
    y.df = (if w = 32 then (op 0).2 else (op 0).2 ||| (op 1).2) ||| (r.a l).df ||| (r.b l).df
def floatLane1 (m : BitVec 3) (f : Nat → FpMode → Nat → Nat → Nat × FlagSet) (r : Fire) (l : Nat) (y : Lane) : Prop :=
  let c := floatCode m.toNat
  let w := floatWidth m.toNat
  let op := fun j => f c r.mode (drawOf r l w j) (pattern w j (r.a l))
  (∀ j, j < 32 / w → pattern w j y = (op j).1 % 2 ^ w) ∧ y.poison = (r.a l).poison ∧
    y.df = (if w = 32 then (op 0).2 else (op 0).2 ||| (op 1).2) ||| (r.a l).df

/-- A lane with a value and flags computed from operand lanes a and b. -/
def computed (y : Lane) (v : Nat × FlagSet) (a b : Lane) : Prop :=
  y.v.toNat = v.1 % 2 ^ 32 ∧ y.df = v.2 ||| a.df ||| b.df ∧ y.poison = (a.poison || b.poison)
def computed1 (y : Lane) (v : Nat × FlagSet) (a : Lane) : Prop := y.v.toNat = v.1 % 2 ^ 32 ∧ y.df = v.2 ||| a.df ∧ y.poison = a.poison

/-- The executing lanes below a bound, in lane order. -/
def executing (r : Fire) (n : Nat) : List Nat := (List.range n).filter r.act

/-- The triggered operations that write lanes: their fields, shape, how they round (0 rne, 1 by mod[2], 2 by mod, 3 not, but they draw), and what lane L of the
result is, for a firing that reads r. -/
def laneRow (x : Element) : Instr → Option (Trig × Shape × Nat × (Fire → Nat → Lane → Prop))
  | .vadd t => some (t, .b, 0, integerLane t.mod (fun w a b y => y = wrapped (t.mod.getLsbD 2) w (a.toInt + b.toInt)))
  | .vsub t => some (t, .b, 0, integerLane t.mod (fun w a b y => y = wrapped (t.mod.getLsbD 2) w (a.toInt - b.toInt)))
  | .vmul t => some (t, .b, 0, integerLane t.mod (fun w a b y => y = wrapped (t.mod.getLsbD 2) w (a.toInt * b.toInt)))
  | .vmulh t => some (t, .b, 0, integerLane t.mod (fun w a b y =>
      y = BitVec.ofInt w (read (t.mod.getLsbD 2) a * read (t.mod.getLsbD 2) b / ((2 ^ w : Nat) : Int))))
  | .vmin t => some (t, .b, 0, integerLane t.mod (fun _ a b y => y = if read (t.mod.getLsbD 2) a ≤ read (t.mod.getLsbD 2) b then a else b))
  | .vmax t => some (t, .b, 0, integerLane t.mod (fun _ a b y => y = if read (t.mod.getLsbD 2) a ≤ read (t.mod.getLsbD 2) b then b else a))
  | .vand t => some (t, .b, 0, bitLane (fun a b => a && b))
  | .vor t => some (t, .b, 0, bitLane (fun a b => a || b))
  | .vxor t => some (t, .b, 0, bitLane (fun a b => a != b))
  | .vshl t => some (t, .b, 0, integerLane t.mod (fun w a b y => y = a <<< (b.toNat % w)))
  | .vshr t => some (t, .b, 0, integerLane t.mod (fun w a b y => y = a >>> (b.toNat % w)))
  | .vsra t => some (t, .b, 0, integerLane t.mod (fun w a b y => y = a.sshiftRight (b.toNat % w)))
  | .vclz t => some (t, .u, 0, integerLane1 t.mod (fun _ a y => isLeading a y.toNat))
  | .vpopc t => some (t, .u, 0, integerLane1 t.mod (fun _ a y => y.toNat = setBits a))
  | .vabs t => some (t, .u, 0, integerLane1 t.mod (fun w a y => y = wrapped (t.mod.getLsbD 2) w (a.toInt.natAbs : Int)))
  | .vsad t => some (t, .b, 0, fun r l y =>
      y.v.toNat = ((r.d l).v.toNat + differences (t.mod.getLsbD 2) (laneWidth t.mod.toNat) (r.a l).v (r.b l).v) % 2 ^ 32 ∧
        y.poison = ((r.a l).poison || (r.b l).poison || (r.d l).poison) ∧ y.df = (r.a l).df ||| (r.b l).df ||| (r.d l).df)
  | .fadd t => some (t, .b, 1, floatLane t.mod elFadd)
  | .fsub t => some (t, .b, 1, floatLane t.mod elFsub)
  | .fmul t => some (t, .b, 1, floatLane t.mod elFmul)
  | .ffma t => some (t, .b, 1, fun r l y =>
      let w := floatWidth t.mod.toNat
      (∀ j, j < 32 / w → pattern w j y = (elFfma (floatCode t.mod.toNat) r.mode (drawOf r l w j) (pattern w j (r.a l)) (pattern w j (r.b l))
        (pattern w j (r.d l))).1 % 2 ^ w) ∧ y.poison = ((r.a l).poison || (r.b l).poison || (r.d l).poison))
  | .fmin t => some (t, .b, 0, floatLane t.mod (fun c m _ a b => (elFminmax false c m.ftz a b, 0)))
  | .fmax t => some (t, .b, 0, floatLane t.mod (fun c m _ a b => (elFminmax true c m.ftz a b, 0)))
  | .fabs t => some (t, .u, 0, floatLane1 t.mod (fun _ _ _ a => (a % 2 ^ (floatWidth t.mod.toNat - 1), 0)))
  | .fneg t => some (t, .u, 0, floatLane1 t.mod (fun _ _ _ a => (a + 2 ^ (floatWidth t.mod.toNat - 1), 0)))
  | .fclass t => some (t, .u, 0, floatLane1 t.mod (fun c _ _ a => (elFclass c a, 0)))
  | .round t => some (t, .u, 1, floatLane1 t.mod elRound)
  | .exp2 t => some (t, .u, 1, floatLane1 t.mod (elSpecial 0x28))
  | .log2 t => some (t, .u, 1, floatLane1 t.mod (elSpecial 0x29))
  | .rcp t => some (t, .u, 1, floatLane1 t.mod (elSpecial 0x2A))
  | .rsqrt t => some (t, .u, 1, floatLane1 t.mod (elSpecial 0x2B))
  | .sin t => some (t, .u, 1, floatLane1 t.mod (elSpecial 0x2C))
  | .cos t => some (t, .u, 1, floatLane1 t.mod (elSpecial 0x2D))
  | .tanh t => some (t, .u, 1, floatLane1 t.mod (elSpecial 0x2E))
  | .sqrt t => some (t, .u, 1, floatLane1 t.mod (elSpecial 0x2F))
  | .vsel t => some (t, .b, 0, fun r l y => y = if (x.pred r.bank l).getLsbD t.mod.toNat then r.a l else r.b l)
  | .vmov t => some (t, .u, 0, fun r l y => y = r.a l)
  | .cvt t => some (t, .u, 1, fun r l y => computed1 y (cvtLane (t.b.toNat / 32) (t.b.toNat % 32) r.mode (r.word l) (r.a l).v.toNat) (r.a l))
  | .cvti t => some (t, .u, 2, fun r l y => computed1 y (cvtLane (t.b.toNat / 32) (t.b.toNat % 32) r.mode (r.word l) (r.a l).v.toNat) (r.a l))
  | .mxq t => some (t, .u, 0, fun r l y => computed1 y (mxqLane (t.b.toNat % 32) r.mode.ftz (r.a l).v.toNat) (r.a l))
  | .mxs t => some (t, .b, 0, fun r l y => computed y (mxsLane r.mode (r.a l).v.toNat (r.b l).v.toNat) (r.a l) (r.b l))
  | .perm t => some (t, .b, 0, fun r l y => y.v = (r.a ((r.b l).v.toNat % 8)).v ∧ fromTwo y (r.a ((r.b l).v.toNat % 8)) (r.b l))
  | .bcast t => some (t, .u, 0, fun r _ y => y = r.a (t.b.toNat % 8))
  | .pfx t => some (t, .b, 0, fun r l y =>
      y.poison = ((r.b 7).poison || (executing r (l + 1)).any (fun k => (r.a k).poison)) ∧
      (t.mod = 0 → y.v.toNat = ((r.b 7).v.toNat + ((executing r (l + 1)).map (fun k => (r.a k).v.toNat)).sum) % 2 ^ 32) ∧
      (t.mod = 1 → ∀ j, j < 32 → y.v.getLsbD j = (executing r (l + 1)).foldl (fun b k => b != (r.a k).v.getLsbD j) ((r.b 7).v.getLsbD j)) ∧
      (t.mod = 2 → y.v ∈ (r.b 7).v :: (executing r (l + 1)).map (fun k => (r.a k).v) ∧
        ∀ z ∈ (r.b 7).v :: (executing r (l + 1)).map (fun k => (r.a k).v), z.toInt ≤ y.v.toInt))
  | .lred t => some (t, .u, 0, fun r _ y =>
      y.poison = (executing r 8).any (fun k => (r.a k).poison) ∧
      (t.b.toNat % 8 = 0 → ∀ j, j < 32 / laneWidth t.mod.toNat → (part (laneWidth t.mod.toNat) j y.v).toNat =
        ((executing r 8).map (fun k => (part (laneWidth t.mod.toNat) j (r.a k).v).toNat)).sum % 2 ^ laneWidth t.mod.toNat) ∧
      (t.b.toNat % 8 = 1 → ∀ j, j < 32 → y.v.getLsbD j = (executing r 8).foldl (fun b k => b != (r.a k).v.getLsbD j) false) ∧
      (t.b.toNat % 8 = 2 ∨ t.b.toNat % 8 = 3 → executing r 8 ≠ [] → ∀ j, j < 32 / laneWidth t.mod.toNat →
        (∃ k ∈ executing r 8, part (laneWidth t.mod.toNat) j y.v = part (laneWidth t.mod.toNat) j (r.a k).v) ∧
        ∀ k ∈ executing r 8, if t.b.toNat % 8 = 2
          then read (t.mod.getLsbD 2) (part (laneWidth t.mod.toNat) j (r.a k).v) ≤ read (t.mod.getLsbD 2) (part (laneWidth t.mod.toNat) j y.v)
          else read (t.mod.getLsbD 2) (part (laneWidth t.mod.toNat) j y.v) ≤ read (t.mod.getLsbD 2) (part (laneWidth t.mod.toNat) j (r.a k).v)) ∧
      (4 ≤ t.b.toNat % 8 → t.mod.getLsbD 2 = false → y.v.toNat = (lredValue t r).1 % 2 ^ 32))
  | .clmul t => some (t, .b, 0, fun r l y => fromTwo y (r.a l) (r.b l) ∧ ∀ j, j < 32 → y.v.getLsbD j =
      ((List.range 32).foldl (fun b i => b != ((r.b l).v.getLsbD i && decide (i ≤ (if t.mod = 0 then j else j + 32)) &&
        (r.a l).v.getLsbD ((if t.mod = 0 then j else j + 32) - i))) false))
  | .pack t => some (t, .b, 0, fun r l y =>
      let h := laneWidth t.mod.toNat
      let n := 16 / h
      h < 32 → fromTwo y (r.a l) (r.b l) ∧ ∀ j, j < 2 * n →
        let v := if j < n then part (2 * h) j (r.a l).v else part (2 * h) (j - n) (r.b l).v
        part h j y.v = if t.mod.getLsbD 2 then clamped h v.toInt else BitVec.ofNat h v.toNat)
  | .unpack t => some (t, .u, 0, fun r l y =>
      let w := laneWidth t.mod.toNat
      let n := 16 / w
      w < 32 → fromOne y (r.a l) ∧ ∀ j, j < n →
        part (2 * w) j y.v = BitVec.ofInt (2 * w) (read (t.mod.getLsbD 2) (part w (n * (t.b.toNat % 2) + j) (r.a l).v)))
  | .rnd t => some (t, .d, 3, fun r l y => y.v = BitVec.ofNat 32 (r.word l) ∧ y.df = 0 ∧ y.poison = false)
  | _ => none

/-- The triggered operations that write a bit to each executing lane of a lane predicate: what bit, and whether an operand lane is poisoned. -/
def predicateRow : Instr → Option (Trig × Shape × (Fire → Nat → Bool × Bool))
  | .fcmp t => some (t, .b, fun r l => ((fcmpBit t.mod.toNat r.mode.ftz (r.a l).v.toNat (r.b l).v.toNat).1, (r.a l).poison || (r.b l).poison))
  | .vcmp t => some (t, .b, fun r l =>
      let a := (r.a l).v
      let b := (r.b l).v
      (match t.mod.toNat with
        | 0 => a == b
        | 1 => a != b
        | 2 => decide (a.toInt < b.toInt)
        | 3 => decide (a.toInt ≤ b.toInt)
        | 4 => decide (a.toNat < b.toNat)
        | 5 => decide (a.toNat ≤ b.toNat)
        | _ => (a &&& b) != 0, (r.a l).poison || (r.b l).poison))
  | .pset t => some (t, .d, fun _ l => (t.b.getLsbD l, false))
  | .poi t => some (t, .u, fun r _ => (r.poison, false))
  | _ => none

/-- Every triggered operation, with its fields and shape. -/
def firingRow (i : Instr) : Option (Trig × Shape) :=
  match laneRow emptyElement i, predicateRow i, i with
  | some (t, sh, _, _), _, _ => some (t, sh)
  | none, some (t, sh, _), _ => some (t, sh)
  | none, none, .enq t => some (t, .u)
  | none, none, .stop t => some (t, .d)
  | none, none, .deq t => some (t, .u)
  | none, none, .trigSig t => some (t, .z)
  | none, none, .trigNop t => some (t, .z)
  | _, _, _ => none

/-- The element whose turn it is, and its crew's channels once a firing's pops are done. -/
def acting (s : State) : Element := s.mine.elem s.cur.element
def afterPops (s : State) (t : Trig) (sh : Shape) : Crew := (t.pops sh).foldl (fun u c => u.dequeue c) s.mine

/-- The register that a name stands for under a bank (R201). -/
def registerOf (bank n : Nat) : Nat := if n < 128 then 256 + 128 * bank + n else n

end Sys2Proof.Slice0

/-- R58, R209, R210, R211: every firing whose executions agree counts itself in csr_estate, and leaves every other element, every byte of
memory, and every register lane of its own element as it was, but those of the executing lanes of a destination register. -/
def Obligations.FiringFrame : Prop :=
  ∀ (i : Instr) (t : Trig) (sh : Shape) (s : State), firingRow i = some (t, sh) → s.cur.err = 0 →
    ∃ u, exec i s = .next u ∧ u.cur = s.cur ∧ (∀ l, u.rawByte l = s.rawByte l) ∧
      (∀ e, e ≠ s.cur.element → u.mine.elem e = s.mine.elem e) ∧ (∀ c, c ≠ s.cur.core → u.core c = s.core c) ∧
      u.mine.strands = s.mine.strands ∧
      field (acting u).state.toNat 63 32 = (field (acting s).state.toNat 63 32 + 1) % 2 ^ 32 ∧
      field (acting u).state.toNat 12 8 = 16 + s.cur.slot % 16 ∧
      ∀ name l, l < 8 → (acting u).reg name l = (acting s).reg name l ∨
        (name = registerOf (s.mine.firingBank (acting s) s.cur.element t) t.d.toNat ∧
          (acting s).guardHolds (s.mine.firingBank (acting s) s.cur.element t) t l = true)

/-- R209 to R213, R218, R230 to R237, Tables 8.6 to 8.10: a firing of an operation that writes lanes puts into each executing lane of its destination register what the operation makes of what
it read, or sends them as a data token with zeros in the other lanes. -/
def Obligations.LaneResults : Prop :=
  ∀ (i : Instr) (t : Trig) (sh : Shape) (sel : Nat) (P : Fire → Nat → Lane → Prop) (s : State) (r : Fire), laneRow (acting s) i = some (t, sh, sel, P) →
    s.cur.err = 0 → r = s.mine.fireOf s.cur.element t sel →
    ∃ u, ∃ F : Nat → Lane, exec i s = .next u ∧ (∀ l, l < 8 → r.act l = true → P r l (F l)) ∧
      (t.d.toNat < 768 → u.mine.chans = (afterPops s t sh).chans ∧ ∀ l, l < 8 →
        (acting u).reg (registerOf r.bank t.d.toNat) l = if r.act l then F l else (acting s).reg (registerOf r.bank t.d.toNat) l) ∧
      (768 ≤ t.d.toNat → t.d.toNat < 800 → ∃ k : Token, u.mine.chans = ((afterPops s t sh).enqueue k (t.d.toNat - 768)).chans ∧ k.kind = 0 ∧
        k.bank = r.bank ∧ (∀ l, l < 8 → k.data / 2 ^ (32 * l) % 2 ^ 32 = if r.act l then (F l).v.toNat else 0) ∧
        k.poison = (List.range 8).any (fun l => r.act l && (F l).poison))

/-- R210, R211, R214, R233, R237: fcmp, vcmp, pset and poi write their bit, or false beside a poisoned operand, to each executing lane of the lane predicate that d names; every other bit of every
lane predicate is as it was. enq sends a data token of a's executing lanes, a count token of a's lane 0, or an error token, poisoned where an executing lane is; that a count and an error token
carry these whatever lanes execute is the model's reading (log 33). stop sends a stop of its rank with the firing's bank; deq and nop do
nothing beside their pops; sig adds one to its semaphore. -/
def Obligations.PredicateAndTokenFirings : Prop :=
  (∀ (i : Instr) (t : Trig) (sh : Shape) (P : Fire → Nat → Bool × Bool) (s : State) (r : Fire), predicateRow i = some (t, sh, P) → s.cur.err = 0 →
    832 ≤ t.d.toNat → t.d.toNat < 840 → r = s.mine.fireOf s.cur.element t 0 →
    ∃ u, exec i s = .next u ∧ u.mine.chans = (afterPops s t sh).chans ∧ ∀ b l j, l < 8 → j < 8 → ((acting u).pred b l).getLsbD j =
      if b = r.bank ∧ j = t.d.toNat - 832 ∧ r.act l = true then (P r l).1 && !(P r l).2 else ((acting s).pred b l).getLsbD j) ∧
  (∀ (t : Trig) (s : State) (r : Fire), s.cur.err = 0 → r = s.mine.fireOf s.cur.element t 0 → 768 ≤ t.d.toNat → t.d.toNat < 800 → t.b.toNat < 4 →
    t.b.toNat ≠ 1 →
    ∃ u, ∃ k : Token, exec (.enq t) s = .next u ∧ u.mine.chans = ((afterPops s t .u).enqueue k (t.d.toNat - 768)).chans ∧ k.kind = t.b.toNat ∧ k.bank = r.bank ∧
      k.poison = (List.range 8).any (fun l => r.act l && (r.a l).poison) ∧
      (t.b.toNat = 0 → ∀ l, l < 8 → k.data / 2 ^ (32 * l) % 2 ^ 32 = if r.act l then (r.a l).v.toNat else 0) ∧
      (t.b.toNat = 2 → k.data = (r.a 0).v.toNat) ∧
      (t.b.toNat = 3 → ∀ l, l < 8 → k.data / 2 ^ (32 * l) % 2 ^ 32 = if l = 0 then (r.a 0).v.toNat % 256 else (r.a l).v.toNat)) ∧
  (∀ (t : Trig) (s : State) (r : Fire), s.cur.err = 0 → r = s.mine.fireOf s.cur.element t 0 → 768 ≤ t.d.toNat → t.d.toNat < 800 →
    ∃ u, exec (.stop t) s = .next u ∧ u.mine.chans = (s.mine.enqueue ⟨t.b.toNat % 8, r.bank, 1, false⟩ (t.d.toNat - 768)).chans) ∧
  (∀ (t : Trig) (s : State), s.cur.err = 0 →
    (∃ u, exec (.deq t) s = .next u ∧ u.mine.chans = (afterPops s t .u).chans) ∧
    (∃ u, exec (.trigNop t) s = .next u ∧ u.mine.chans = s.mine.chans ∧ u.mine.sems = s.mine.sems) ∧
    (∃ u, exec (.trigSig t) s = .next u ∧ u.mine.chans = s.mine.chans ∧
      ∀ j, u.mine.sem j = signalled s.mine (t.b.toNat % 64) j))

namespace Sys2Proof.Slice0

/-- A command of the NX queue but for nx.xget: its operation, block register, semaphore, guard (Table 10.2). -/
def nxRow : Instr → Option (NxOp × Reg × Reg × Pred)
  | .nxPut a f g => some (.put, a, f, g)
  | .nxGet a f g => some (.get, a, f, g)
  | .nxSend a f g => some (.send, a, f, g)
  | .nxRoute a f g => some (.route, a, f, g)
  | .nxRing a f g => some (.ring, a, f, g)
  | .nxChan a f g => some (.chan, a, f, g)
  | .collGrp a f g => some (.grp, a, f, g)
  | .collRed a f g => some (.red, a, f, g)
  | .collBc a f g => some (.bc, a, f, g)
  | .collFlt a f g => some (.flt, a, f, g)
  | .collAr a f g => some (.ar, a, f, g)
  | .handRel a f g => some (.rel, a, f, g)
  | .handAcq a f g => some (.acq, a, f, g)
  | .handQuery a f g => some (.query, a, f, g)
  | _ => none

/-- Bytes of a block that a command does not name are zero. -/
def zeroBytes (blk o n : Nat) : Prop := ∀ i, i < n → blkAt blk (o + i) 1 = 0

/-- A range lies in the crew's scratchpad. -/
def inPool (w : Crew) (a n : Nat) : Prop := n = 0 ∨ a + n ≤ w.spSize

/-- A collective's block meets the limits of R259: source, destination and length at granules, two ranges in the scratchpad that do not meet. -/
def collLegal (w : Crew) (op : NxOp) (blk n : Nat) : Prop :=
  blkAt blk 0 4 % 32 = 0 ∧ blkAt blk 4 4 % 32 = 0 ∧ blkAt blk 8 4 % 32 = 0 ∧ n % 32 = 0 ∧ blkAt blk 0xC 4 < 2 ^ 24 ∧
    (if op = .red ∨ op = .ar then field (blkAt blk 0xC 4) 11 8 < 8 else field (blkAt blk 0xC 4) 11 8 = 0) ∧
    (op = .red ∨ op = .bc ∨ field (blkAt blk 0xC 4) 23 12 = 0) ∧ (op = .flt ∨ zeroBytes blk 0x10 12) ∧ zeroBytes blk 0x1C 28 ∧
    inPool w (blkAt blk 0 4) (blkAt blk 8 4) ∧ inPool w (blkAt blk 4 4) n ∧
    (rangesMeet (blkAt blk 0 4) (blkAt blk 8 4) (blkAt blk 4 4) n = false ∨ blkAt blk 8 4 = 0 ∨ n = 0)

/-- A handover block's page list: 1 to 256 addresses of 64 KiB pages, 8-byte aligned in the scratchpad, without poison. -/
def listLegal (s : State) (blk : Nat) (pages : List Nat) : Prop :=
  1 ≤ blkAt blk 4 4 ∧ blkAt blk 4 4 ≤ 256 ∧ blkAt blk 0 4 % 8 = 0 ∧ inPool s.mine (blkAt blk 0 4) (8 * blkAt blk 4 4) ∧
    s.dispatchPoison (blkAt blk 0 4) (8 * blkAt blk 4 4) = none ∧ (∀ p ∈ pages, p % 65536 = 0) ∧
    pages = (List.range (blkAt blk 4 4)).map (fun i => ofBytes (((s.dispatchBytes (blkAt blk 0 4) (8 * blkAt blk 4 4)).drop (8 * i)).take 8))

/-- What a command's block must hold to be queued, and the list it captures (R245, R250 to R254, R258, R259, R264 to R266). A ring declared
captures frames and has a clause of its own. -/
def nxLegal (s : State) (blk : Nat) (list : List Nat) : NxOp → Prop
  | .put | .get => list = [] ∧ 1 ≤ blkAt blk 0x10 4 ∧ blkAt blk 0x10 4 ≤ 16777216 ∧ blkAt blk 0x14 4 < 32 ∧ field (blkAt blk 0x14 4) 3 1 ≤ 5 ∧
      blkAt blk 0x18 8 % 8 = 0 ∧ ((blkAt blk 0x14 4).testBit 4 = true ∨ blkAt blk 0x18 8 = 0) ∧ zeroBytes blk 0x28 16 ∧
      ((blkAt blk 0x14 4).testBit 0 = true → inPool s.mine (blkAt blk 0 8) (blkAt blk 0x10 4))
  | .send => list = [] ∧ blkAt blk 4 4 ≤ 4032 ∧ blkAt blk 8 2 < 2048 ∧ zeroBytes blk 0xB 5 ∧ zeroBytes blk 0x18 32 ∧
      inPool s.mine (blkAt blk 0 4) (blkAt blk 4 4)
  | .route => list = [] ∧ 1 ≤ blkAt blk 4 4 ∧ blkAt blk 4 4 ≤ 65536 ∧ 1 ≤ blkAt blk 0xC 4 ∧ blkAt blk 0xC 4 ≤ 255 ∧ blkAt blk 0x14 4 ≤ 4032 ∧
      blkAt blk 0x20 4 % 4 = 0 ∧ blkAt blk 0x24 4 < 4 ∧ zeroBytes blk 0x28 16 ∧ inPool s.mine (blkAt blk 0 4) (4 * blkAt blk 4 4) ∧
      inPool s.mine (blkAt blk 8 4) (4 * blkAt blk 0xC 4) ∧
      inPool s.mine (blkAt blk 0x1C 4) (blkAt blk 0xC 4 * blkAt blk 0x20 4 + 4 + 4 * blkAt blk 4 4)
  | .ring => list = [] ∧ blkAt blk 0 8 % 64 = 0 ∧ blkAt blk 8 8 % 64 = 0 ∧ 4096 ≤ blkAt blk 0x10 4 ∧ blkAt blk 0x10 4 ≤ 2 ^ 28 ∧
      blkAt blk 0x10 4 = 2 ^ (blkAt blk 0x10 4).log2 ∧ blkAt blk 0x14 4 < 2 ^ 10 ∧ (blkAt blk 0x14 4).testBit 0 = false ∧ zeroBytes blk 0x18 32
  | .chan => list = [] ∧ blkAt blk 0 4 < 128 ∧ blkAt blk 4 4 < 4096 ∧ zeroBytes blk 0xA 2 ∧ zeroBytes blk 0x10 40 ∧
      ((blkAt blk 0 4).testBit 0 = true →
        s.mine.roleTaken s.mine.now ((blkAt blk 0 4).testBit 1) (field (blkAt blk 0 4) 6 2) 99 = false ∧
        s.mine.roleTaken s.mine.coming ((blkAt blk 0 4).testBit 1) (field (blkAt blk 0 4) 6 2) 99 = false ∧
        s.mine.streamHolds ((blkAt blk 0 4).testBit 1) (field (blkAt blk 0 4) 6 2) = false ∧
        ((blkAt blk 0 4).testBit 1 = true → smem s.mine.graph.smOuts (field (blkAt blk 0 4) 6 2) = false))
  | .grp => list = [] ∧ blkAt blk 0 4 < 2 ^ 21 ∧ 1 ≤ field (blkAt blk 0 4) 20 9 ∧ field (blkAt blk 0 4) 20 9 ≤ 448 ∧
      blkAt blk 4 4 < field (blkAt blk 0 4) 20 9 ∧ 1 ≤ blkAt blk 0x10 4 ∧ blkAt blk 0x10 4 ≤ 2048 ∧ zeroBytes blk 0x14 36
  | .flt => list = [] ∧ collLegal s.mine .flt blk (blkAt blk 0x18 4)
  | .red => list = [] ∧ collLegal s.mine .red blk (blkAt blk 8 4)
  | .bc => list = [] ∧ collLegal s.mine .bc blk (blkAt blk 8 4)
  | .ar => list = [] ∧ collLegal s.mine .ar blk (blkAt blk 8 4)
  | .rel => listLegal s blk list ∧ blkAt blk 8 4 < 56 ∧ zeroBytes blk 0xE 42
  | .acq => listLegal s blk list ∧ zeroBytes blk 0xC 44
  | .query => listLegal s blk list ∧ blkAt blk 8 4 % 8 = 0 ∧ zeroBytes blk 0xC 44 ∧ inPool s.mine (blkAt blk 8 4) (8 * blkAt blk 4 4)
  | .xget => False

/-- The command that the current strand puts into the NX queue: the block at `a` captured. -/
def nxCommand (s : State) (op : NxOp) (a f : Reg) (chans : Nat) (list : List Nat) : NxCmd :=
  ⟨op, (s.me.getX a).toNat, ofBytes (s.dispatchBytes (s.me.getX a).toNat 64), chans, list, f.toNat, s.cur.strand, s.mine.nxSeq, s.mine.graph.period⟩

/-- A step of a command in progress can be taken: its core is held, and no LATENCY_BROKEN holds it. -/
def working (s : State) (core key : Nat) (j : NxJob) : Prop :=
  (s.core core).held = true ∧ (s.crew core).job key = some j ∧ j.broken = none

end Sys2Proof.Slice0

/-- R239, R240: an NX, collective or handover command dispatched with its guard true while the NX queue has room, whose block lies 64-byte aligned in the
scratchpad without poison and meets the limits given for it, stands last in the queue with its block, its channels and its page list captured, and the strand has
passed it. A ring's declaration captures the frames its pages translate to. With the queue full the strand waits; a block address that is no multiple of 64
traps with MISALIGNED. -/
def Obligations.NxDispatch : Prop :=
  (∀ (i : Instr) (op : NxOp) (a f : Reg) (g : Pred) (list : List Nat) (s : State), nxRow i = some (op, a, f, g) → s.me.getP g = true →
    s.mine.nxq.length < 32 → s.blockRefusal (s.me.getX a).toNat 64 64 = none →
    nxLegal s (ofBytes (s.dispatchBytes (s.me.getX a).toNat 64)) list op →
    ∃ t, exec i s = .next t ∧ onlyDispatched s t ∧ t.mine.nxq = s.mine.nxq ++ [nxCommand s op a f 0 list] ∧ t.mine.nxSeq = s.mine.nxSeq + 1) ∧
  (∀ (a f : Reg) (g : Pred) (blk : Nat) (pas : List Nat) (m : Tab Nat) (s s1 : State), s.me.getP g = true → s.mine.nxq.length < 32 →
    s.blockRefusal (s.me.getX a).toNat 64 64 = none → blk = ofBytes (s.dispatchBytes (s.me.getX a).toNat 64) →
    (blkAt blk 0x14 4).testBit 0 = true → blkAt blk 0 8 % 64 = 0 → blkAt blk 8 8 % 64 = 0 → 4096 ≤ blkAt blk 0x10 4 → blkAt blk 0x10 4 ≤ 2 ^ 28 →
    blkAt blk 0x10 4 = 2 ^ (blkAt blk 0x10 4).log2 → blkAt blk 0x14 4 < 2 ^ 10 → zeroBytes blk 0x18 32 →
    s.ringPages s.cur.core (pageStarts (blkAt blk 0 8) (blkAt blk 0x10 4) ++ [blkAt blk 8 8]) [] = (.ok m, pas, s1) →
    ∃ t, exec (.nxRing a f g) s = .next t ∧ onlyDispatched s1 t ∧ t.mine.nxq = s.mine.nxq ++
      [nxCommand s .ring a f 0 (pas.getLastD 0 :: pas.dropLast.map (fun p => p / 65536 * 65536))]) ∧
  (∀ (a b f : Reg) (g : Pred) (blk ix out : Nat) (s : State), s.me.getP g = true → s.mine.nxq.length < 32 →
    s.blockRefusal (s.me.getX a).toNat 64 64 = none → blk = ofBytes (s.dispatchBytes (s.me.getX a).toNat 64) →
    blkAt blk 0 8 % xgetSize blk = 0 → blkAt blk 8 8 % 64 = 0 → blkAt blk 0x10 4 < 512 → field (blkAt blk 0x10 4) 1 0 < 2 →
    1 ≤ blkAt blk 0x18 4 → blkAt blk 0x18 4 ≤ 2048 → blkAt blk 0x1C 4 % xgetSize blk = 0 → zeroBytes blk 0x20 24 →
    (s.me.getX b).toNat = ix + 32 * out → ix < 32 → out < 32 → ix ≠ out → s.mine.roleTaken s.mine.now false ix 99 = false →
    s.mine.roleTaken s.mine.now true out 99 = false → smem s.mine.graph.smOuts out = false →
    ∃ t, exec (.nxXget a b f g) s = .next t ∧ onlyDispatched s t ∧ t.mine.nxq = s.mine.nxq ++ [nxCommand s .xget a f (s.me.getX b).toNat []] ∧
      t.mine.streamHolds false ix = true ∧ t.mine.streamHolds true out = true) ∧
  (∀ (i : Instr) (op : NxOp) (a f : Reg) (g : Pred) (s : State), nxRow i = some (op, a, f, g) → s.me.getP g = true →
    (32 ≤ s.mine.nxq.length → exec i s = .next s) ∧
    (s.mine.nxq.length < 32 → (s.me.getX a).toNat % 64 ≠ 0 → exec i s = .next (s.takeTrap 0x03 (s.me.getX a))))

namespace Sys2Proof.Slice0
/-- R239, R248, R250 to R253, R306: a finished command with every packet acknowledged writes its status word into its block at 38H, signals its semaphore and leaves
the engine. A message that a ring of this device has room for is admitted: the ring's tail is past its record, the record is counted, and nx.send finishes with
count 1; a ring that nobody declared answers NO_RING. A route sees its strand's earlier stores, as an admission by a ring of this device does (R306; that stores of the strand made after the
dispatch are performed with them is the model's choice, log 89); one whose assignments are all resolved finishes; an assignment none of whose choices names a valid expert
goes into the overflow list with bit 17 set. An endpoint that meets its match on this device is paired with it; a token of the pair leaves the
producer's channel for the consumer's buffer, and from there enters the consumer's channel. -/
def nxStepsDoneRule : Prop :=
  (∀ (c k : Nat) (j : NxJob) (s : State), working s c k j → j.phase = .finished → j.sent = [] → j.code ≠ 0x31 → j.code ≠ 0x30 → memoriesWf s →
    ∃ u, exec (.nxCommandComplete c k) s = .next u ∧ (u.crew c).job k = none ∧ (∀ n, n ≠ k → (u.crew c).job n = (s.crew c).job n) ∧
      (∀ i, i < 8 → (u.rawByte (.pool c (j.cmd.addr + 0x38 + i))).toNat = j.status / 256 ^ i % 256) ∧
      (∀ n, (u.crew c).sem n = signalled (s.crew c) j.cmd.sem n)) ∧
  (∀ (c k : Nat) (j : NxJob) (r : RecvRing) (m : Message) (s : State), working s c k j → j.cmd.op = .send → j.phase = .run →
    (s.crew c).admitsLater j = false → j.cmd.at' 8 2 = s.sys.devid → tfind s.rings (j.cmd.at' 0xA 1) = some r →
    m = j.message s.sys.devid (s.crew c).info.tile → (r.contiguous = true → r.tail % r.size + m.recordLength ≤ r.size) →
    m.recordLength ≤ (s.ringEdges c j.cmd.strand (j.cmd.at' 0xA 1)).ringFree r →
    ∃ u, exec (.ringAdmission c k) s = .next u ∧
      tfind u.rings (j.cmd.at' 0xA 1) = some { r with tail := r.tail + m.recordLength, seq := (r.seq + 1) % 2 ^ 32 } ∧
      (u.crew c).job k = some { j with phase := .finished, count := 1 }) ∧
  (∀ (c k : Nat) (j : NxJob) (s : State), working s c k j → j.cmd.op = .send → j.phase = .run → (s.crew c).admitsLater j = false →
    j.cmd.at' 8 2 = s.sys.devid → tfind s.rings (j.cmd.at' 0xA 1) = none → j.code = 0 →
    ∃ u y, exec (.ringAdmission c k) s = .next u ∧ (u.crew c).job k = some y ∧ y.phase = .finished ∧ y.code = 0x33 ∧ y.detail = j.cmd.at' 0xA 1) ∧
  (∀ (c k : Nat) (j : NxJob) (s : State), working s c k j → j.cmd.op = .route → j.phase = .run → (s.crew c).admitsLater j = false →
    j.cmd.at' 4 4 ≤ j.pos → ∃ u y, exec (.routeResolve c k) s = .next u ∧ (u.crew c).job k = some y ∧ y.phase = .finished ∧ y.count = j.count ∧
      y.code = j.code ∧ (∀ l, u.rawByte l = (s.routeEdges c j.cmd.strand j.cmd.route j.pos).rawByte l)) ∧
  (∀ (c k : Nat) (j : NxJob) (r : Route) (tok e1 e2 : Nat) (s s1 : State), working s c k j → j.cmd.op = .route → j.phase = .run →
    (s.crew c).admitsLater j = false → r = j.cmd.route → j.pos < r.count → s1 = s.routeEdges c j.cmd.strand r j.pos →
    assignment (s1.poolWord c (r.asg + 4 * j.pos)) = (tok, e1, e2) →
    r.rows + tok * r.rowstride + r.rowlen ≤ (s.crew c).spSize → s1.expert c r e1 = none → (r.second = true → s1.expert c r e2 = none) →
    r.nexp < j.asked.length → memoriesWf s →
    ∃ u y, exec (.routeResolve c k) s = .next u ∧ (u.crew c).job k = some y ∧ y.pos = j.pos + 1 ∧ y.count = j.count ∧ y.phase = .run ∧
      y.asked.getD r.nexp 0 = j.asked.getD r.nexp 0 + 1 ∧
      (∀ i, i < 4 →
        (u.rawByte (.pool c (r.sl + r.nexp * r.slstride + 4 + 4 * j.asked.getD r.nexp 0 + i))).toNat = (tok + 2 ^ 17) / 256 ^ i % 256 ∧
        (u.rawByte (.pool c (r.sl + r.nexp * r.slstride + i))).toNat = (j.asked.getD r.nexp 0 + 1) / 256 ^ i % 256)) ∧
  (∀ (c k q : Nat) (e f : Endpoint) (v : Crew) (s : State), (s.core c).held = true → tfind (s.crew c).endpoints k = some e → e.paired = false →
    e.dev = s.sys.devid → s.peerOf (s.crew c) k e = some (v, q, f) →
    ∃ u, exec (.elasticPair c k) s = .next u ∧ tfind (u.crew c).endpoints k = some { e with
      paired := true
      credit := if 32 ≤ k then (s.crew c).elasticRoom (k - 32) else v.elasticRoom (q - 32) } ∧ (u.crew c).chans = (s.crew c).chans) ∧
  (∀ (c d k q : Nat) (e f : Endpoint) (t : Token) (v : Crew) (s : State), (s.core c).held = true → tfind (s.crew c).endpoints k = some e →
    e.paired = true → k < 32 → e.dev = s.sys.devid → ((s.crew c).chan k).head = some t → s.peerOf (s.crew c) k e = some (v, q, f) →
    tfind v.endpoints q = some f → c ≠ d → (s.core d).held = true → s.crew d = v →
    (v.info.launch ≠ (s.crew c).info.launch ∨ v.info.tile ≠ (s.crew c).info.tile) →
    ∃ u, exec (.elasticTokenCross c k) s = .next u ∧ (u.crew c).chans = ((s.crew c).dequeue k).chans ∧ (u.crew d).chans = v.chans ∧
      tfind (u.crew d).endpoints q = some { f with
        buffer := f.buffer ++ [t]
        credit := if t.isStop then f.credit else f.credit - 1 }) ∧
  (∀ (c k : Nat) (e : Endpoint) (t : Token) (r : List Token) (s : State), (s.core c).held = true → tfind (s.crew c).endpoints k = some e →
    e.paired = true → 32 ≤ k → e.buffer = t :: r → (s.crew c).canSend t (k - 32) = true →
    ∃ u y, exec (.elasticTokenCross c k) s = .next u ∧ (u.crew c).chans = ((s.crew c).enqueue t (k - 32)).chans ∧
      tfind (u.crew c).endpoints k = some y ∧ y.buffer = r)
end Sys2Proof.Slice0

namespace Sys2Proof.Slice0
/-- R255 to R258, R263: a group all of whose local members have joined, whose values every other device has reported, completes, and so do the joins that wait
for it; a group whose joins or reports disagree is dropped and its joins end with MISMATCH. A member's collective on a complete group takes its number when no earlier one of
its crew is still to be numbered. The members of a device that no route reaches are lost, and every survivor gives the chunk in flight again. A line of a page in transit
is pushed into its new owner's slice, dirty data with it, where its set holds 16 lines at most and no line of another set leaves; after the last of 512 the page is present. -/
def groupsAndPagesRule : Prop :=
  (∀ (n c k : Nat) (e : CollGroup) (j : NxJob) (s : State), s.group n = some e → e.complete = false → e.mismatch = false → s.reportsDiffer n e = false →
    e.nlocal ≤ e.members.length → e.told = true → s.reportsIn n e = true → working s c k j → j.cmd.op = .grp → j.phase = .waiting →
    j.cmd.groupId = n → ∃ u, exec (.groupJoinComplete n) s = .next u ∧ u.group n = some { e with complete := true } ∧
      (u.crew c).job k = some { j with phase := .finished }) ∧
  (∀ (n c k : Nat) (e : CollGroup) (j : NxJob) (s : State), s.group n = some e → e.complete = false →
    (e.mismatch = true ∨ s.reportsDiffer n e = true) → working s c k j → j.cmd.op = .grp → j.phase = .waiting → j.cmd.groupId = n → j.code = 0 →
    ∃ u y, exec (.groupJoinComplete n) s = .next u ∧ u.group n = none ∧ (u.crew c).job k = some y ∧ y.phase = .finished ∧ y.code = 0x35) ∧
  (∀ (c k : Nat) (j : NxJob) (e : CollGroup) (m : CollMember) (s : State), working s c k j → j.cmd.op.collKind ≠ 0 → j.phase = .run →
    s.group j.cmd.groupId = some e → e.complete = true → e.memberOf (s.crew c).info = some m →
    (∀ p ∈ (s.crew c).nx, p.2.cmd.op.collKind ≠ 0 → p.2.cmd.groupId = j.cmd.groupId → p.2.cmd.seq < j.cmd.seq → p.2.phase ≠ .run) →
    ∃ u, exec (.collChunk c k) s = .next u ∧ (u.crew c).job k = some { j with
        phase := .waiting
        turn := m.issued } ∧ ∀ l, u.rawByte l = s.rawByte l) ∧
  (∀ (n d r : Nat) (e : CollGroup) (s : State), s.group n = some e → d ≠ s.sys.devid → d ∈ e.devs → s.routeUp d = false →
    r / e.nlocal = e.devs.idxOf d → r < e.size → smem e.lost r = false →
    ∃ u y, exec (.memberLoss n d) s = .next u ∧ u.group n = some y ∧ smem y.lost r = true ∧ e.generation < y.generation ∧
      y.chunks = e.chunks ∧ y.devs = e.devs ∧ (∀ c k j, (u.core c).held = true → (u.crew c).job k = some j → j.cmd.op.collKind ≠ 0 →
        j.cmd.groupId = n → j.given = false)) ∧
  (∀ (p : Nat) (h : Handover) (s : State), tfind s.handovers p = some h → h.state = 1 → h.pushed < 512 →
    ∃ u, exec (.handoverPush p) s = .next u ∧ tfind u.handovers p = some { h with
        pushed := h.pushed + 1
        state := if h.pushed + 1 = 512 then 2 else 1 } ∧
      u.line (p * 512 + h.pushed) = ⟨[h.owner], if (s.line (p * 512 + h.pushed)).dirty then some h.owner else none,
        (s.line (p * 512 + h.pushed)).dirty⟩ ∧
      (tget (u.cluster h.owner).ways ((p * 512 + h.pushed) % 4096) []).length ≤ 16 ∧
      (∀ n, n ≠ p * 512 + h.pushed → n ∉ tget (s.cluster h.owner).ways ((p * 512 + h.pushed) % 4096) [] → u.line n = s.line n) ∧ (∀ q, q ≠ p → tfind u.handovers q = tfind s.handovers q) ∧ u.cores = s.cores ∧
      u.hbm = s.hbm)
end Sys2Proof.Slice0

namespace Sys2Proof.Slice0

/-- The next unit of a copy, n bytes, read by the command that entry k of core c's engine runs: its bytes, and the device after the read. They stand in the scratchpad, or in one page of the
global space within the device; its strand's earlier stores to them are performed first (R306). -/
def unitRead (s : State) (c k n : Nat) (j : NxJob) (bs : List Byte) (t : State) : Prop :=
  (j.cmd.copy.srcSp = true ∧ t = s.dispatchEdge c j.cmd.strand (.pool c (j.cmd.copy.src + j.pos)) n ∧
    bs = t.bytesAt (.pool c (j.cmd.copy.src + j.pos)) n) ∨
  (j.cmd.copy.srcSp = false ∧ j.pieces = [] ∧ (j.cmd.copy.src + j.pos) / 65536 = (j.cmd.copy.src + j.pos + n - 1) / 65536 ∧
    ∃ l pa policy s0, s.target c j.cmd.strand k (j.cmd.copy.src + j.pos) n needRead = (.here l pa policy, s0) ∧
      t = (s0.dispatchEdge c j.cmd.strand l n).touchRange (c / 8) pa n policy false ∧ bs = (s0.dispatchEdge c j.cmd.strand l n).bytesAt l n)

/-- The place that a unit of n bytes at an address goes to within the device, and the device before it is written: in the scratchpad, or in the global space. -/
def unitPlace (s : State) (c k n d : Nat) (j : NxJob) (sp : Bool) (l : Loc) (t : State) : Prop :=
  (sp = true ∧ l = .pool c d ∧ t = s.dispatchEdge c j.cmd.strand l n) ∨
  (sp = false ∧ ∃ pa policy s0, s.target c j.cmd.strand k d n needWrite = (.here l pa policy, s0) ∧ t = s0.dispatchEdge c j.cmd.strand l n)

/-- A copy's next unit: the command at work is a copy that is not at its end, and the unit has n bytes. -/
def copying (s : State) (c k n : Nat) (j : NxJob) : Prop :=
  working s c k j ∧ (j.cmd.op = .put ∨ j.cmd.op = .get) ∧ j.phase ≠ .finished ∧ j.pos < j.cmd.copy.len ∧
    n = Nat.min (j.cmd.copy.len - j.pos) (4096 - (j.cmd.copy.dst + j.pos) % 4096)

/-- An indexed remote read at work on a data token: not blocked, its token in progress may grow, and x is its next index. -/
def following (s : State) (c k x : Nat) (j : NxJob) (a : Active) : Prop :=
  working s c k j ∧ j.cmd.op = .xget ∧ j.phase ≠ .finished ∧ j.gather = some a ∧ (s.crew c).xgetBlocked j = false ∧ (s.crew c).stopped = false ∧
    a.send = [] ∧ a.ended = false ∧ (a.outN = 0 → (s.crew c).creditFor j.cmd.output = true) ∧
    (s.crew c).mayRead ((s.crew c).isNew j.cmd.period) 99 j.cmd.index = true ∧
    ∃ t, ((s.crew c).chan j.cmd.index).head = some t ∧ t.kind = 0 ∧ t.poison = false ∧ x = t.data / 2 ^ (j.cmd.ixWidth * a.sub1) % 2 ^ j.cmd.ixWidth

/-- The image of a handover record (Table 9.7); all ones for a page without one. -/
def recordImage : HandPage → Nat
  | .page _ h => h.count % 65536 * 2 ^ 48 + h.layer % 65536 * 2 ^ 32 + h.state % 4 * 2 ^ 6 + h.owner % 64
  | _ => 2 ^ 64 - 1

/-- A member's collective at work on a group: complete, the member's next, its number reached. -/
def collective (s : State) (c k : Nat) (j : NxJob) (e : CollGroup) (m : CollMember) : Prop :=
  working s c k j ∧ j.cmd.op.collKind ≠ 0 ∧ j.phase = .waiting ∧ s.group j.cmd.groupId = some e ∧ e.complete = true ∧
    e.memberOf (s.crew c).info = some m ∧ j.turn = e.turns

/-- What a chunk of n bytes leaves a member of rank r: the combined parts for a reduction, at its root alone for coll.red; the root's part for a broadcast. -/
def chunkResult (e : CollGroup) (ps : List CollPart) (n r : Nat) (c : NxCmd) : Option (List Byte) :=
  match c.op with
  | .ar => some (combineParts c.collCode e.size n ps)
  | .red => if r = c.collRoot then some (combineParts c.collCode e.size n ps) else none
  | .bc => (ps.find? (fun p => p.rank == c.collRoot)).map CollPart.bytes
  | _ => none

end Sys2Proof.Slice0

namespace Sys2Proof.Slice0
/-- R245, R246, R306: a unit of nx.put or nx.get, which ends at the destination's next 4 KiB boundary (log 53), is read and its bytes stand at the destination within the
device, counted; for another device they go as one write, and a source of another device is asked for. With every packet acknowledged the copy ends, after the flag store where the block
asks for one and every byte was copied. An index of nx.xget whose element lies in its peer's window and is had puts the element into the token in progress; one outside fails with code 1; a
token that waits enters the output channel. That the strand's stores made after the dispatch are performed with the earlier ones is the model's choice (log 89). -/
def nxCopiesRule : Prop :=
  (∀ (c k n : Nat) (j : NxJob) (bs : List Byte) (l : Loc) (s s1 s2 : State), copying s c k n j → unitRead s c k n j bs s1 →
    unitPlace s1 c k n (j.cmd.copy.dst + j.pos) j j.cmd.copy.dstSp l s2 → memoryPlace l = true → memoriesWf s2 →
    ∃ u, exec (.nxCommandComplete c k) s = .next u ∧ (u.crew c).job k = some { j with
        pos := j.pos + n
        count := j.count + n
        pieces := []
        asked := []
        withheld := none } ∧ (∀ i, i < n → u.rawByte (l.plus i) = bs.getD i 0) ∧
      ∀ m, (∀ i, i < n → m ≠ l.plus i) → u.rawByte m = s2.rawByte m) ∧
  (∀ (c k n dev a : Nat) (j : NxJob) (bs : List Byte) (s s1 s0 s2 : State), copying s c k n j → unitRead s c k n j bs s1 → j.cmd.copy.dstSp = false →
    s1.target c j.cmd.strand k (j.cmd.copy.dst + j.pos) n needWrite = (.remote dev a, s0) → s0.flowOpen dev 0 = true →
    s2 = s0.dispatchEdge c j.cmd.strand (.remote dev a) n →
    ∃ u p, exec (.nxCommandComplete c k) s = .next u ∧ (u.flow dev 0).unacked = (s2.flow dev 0).unacked ++ [p] ∧ p.dst = dev ∧ p.op = opWrite ∧
      p.addr = a ∧ p.payload = bs ∧ p.seq = (s2.flow dev 0).next ∧ (∀ m, u.rawByte m = s2.rawByte m) ∧ (u.crew c).job k = some { j with
        pos := j.pos + n
        sent := (4 * dev, p.seq) :: j.sent
        pieces := []
        asked := []
        withheld := none }) ∧
  (∀ (c k n dev a : Nat) (j : NxJob) (s s0 s1 : State), copying s c k n j → j.cmd.copy.srcSp = false → j.pieces = [] → j.asked = [] →
    (j.cmd.copy.src + j.pos) / 65536 = (j.cmd.copy.src + j.pos + n - 1) / 65536 →
    s.target c j.cmd.strand k (j.cmd.copy.src + j.pos) n needRead = (.remote dev a, s0) → s0.flowOpen dev 0 = true →
    s1 = s0.dispatchEdge c j.cmd.strand (.remote dev a) n →
    ∃ u p, exec (.nxCommandComplete c k) s = .next u ∧ (u.flow dev 0).unacked = (s1.flow dev 0).unacked ++ [p] ∧ p.dst = dev ∧ p.op = opRead ∧
      p.addr = a ∧ p.field 0 = n ∧ (u.crew c).job k = some { j with asked := [0] }) ∧
  (∀ (c k : Nat) (j : NxJob) (s : State), working s c k j → (j.cmd.op = .put ∨ j.cmd.op = .get) → j.phase ≠ .finished → j.cmd.copy.len ≤ j.pos →
    j.sent = [] →
    (((blkAt j.cmd.blk 0x14 4).testBit 4 = false ∨ j.count ≠ j.cmd.copy.len) → ∃ u, exec (.nxCommandComplete c k) s = .next u ∧
      (u.crew c).job k = some { j with phase := .finished } ∧ ∀ m, u.rawByte m = s.rawByte m) ∧
    (∀ (l : Loc) (s2 : State), (blkAt j.cmd.blk 0x14 4).testBit 4 = true → j.count = j.cmd.copy.len →
      unitPlace s c k 8 (blkAt j.cmd.blk 0x18 8) j false l s2 → memoryPlace l = true → memoriesWf s2 →
      ∃ u, exec (.nxCommandComplete c k) s = .next u ∧ (u.crew c).job k = some { j with phase := .finished } ∧
        (∀ i, i < 8 → (u.rawByte (l.plus i)).toNat = blkAt j.cmd.blk 0x20 8 / 256 ^ i % 256) ∧
        ∀ m, (∀ i, i < 8 → m ≠ l.plus i) → u.rawByte m = s2.rawByte m)) ∧
  (∀ (c k x o v : Nat) (p : Bool) (j : NxJob) (a b : Active) (s s1 : State), following s c k x j a → o = x % 2 ^ field (blkAt j.cmd.blk 0x10 4) 5 2 →
    x / 2 ^ field (blkAt j.cmd.blk 0x10 4) 5 2 < blkAt j.cmd.blk 0x18 4 → (o + 1) * xgetSize j.cmd.blk ≤ blkAt j.cmd.blk 0x1C 4 →
    s.readElem (c / 8) c (64 + k) 0 a (blkAt j.cmd.blk 0 8 + x / 2 ^ field (blkAt j.cmd.blk 0x10 4) 5 2 * blkAt j.cmd.blk 8 8 + o * xgetSize j.cmd.blk : Nat)
      (xgetSize j.cmd.blk) = (.value v p, s1, b) →
    (b.outN + 1) * (8 * xgetSize j.cmd.blk) ≠ 256 → (blkAt j.cmd.blk 0x14 4 = 0 ∨ b.pos + 1 < blkAt j.cmd.blk 0x14 4) →
    ∃ u y, exec (.nxCommandComplete c k) s = .next u ∧ (u.crew c).job k = some { j with gather := some y } ∧ y.pos = b.pos + 1 ∧ y.outN = b.outN + 1 ∧
      y.out = b.out + v % 2 ^ (8 * xgetSize j.cmd.blk) * 2 ^ (8 * xgetSize j.cmd.blk * b.outN) ∧ y.outPoison = (b.outPoison || p) ∧
      (u.crew c).chans = (if 256 / j.cmd.ixWidth ≤ b.sub1 + 1 then ((s1.crew c).dequeue j.cmd.index).chans else (s1.crew c).chans) ∧
      ∀ m, u.rawByte m = s1.rawByte m) ∧
  (∀ (c k x : Nat) (j : NxJob) (a : Active) (s : State), following s c k x j a → a.outError = none →
    (blkAt j.cmd.blk 0x18 4 ≤ x / 2 ^ field (blkAt j.cmd.blk 0x10 4) 5 2 ∨
      blkAt j.cmd.blk 0x1C 4 < (x % 2 ^ field (blkAt j.cmd.blk 0x10 4) 5 2 + 1) * xgetSize j.cmd.blk) →
    (a.outN + 1) * (8 * xgetSize j.cmd.blk) ≠ 256 → (blkAt j.cmd.blk 0x14 4 = 0 ∨ a.pos + 1 < blkAt j.cmd.blk 0x14 4) →
    ∃ u y ea, exec (.nxCommandComplete c k) s = .next u ∧ (u.crew c).job k = some { j with gather := some y } ∧ y.pos = a.pos + 1 ∧ y.outN = a.outN + 1 ∧
      y.outError = some (1 + 256 * ea) ∧ ∀ m, u.rawByte m = s.rawByte m) ∧
  (∀ (c k : Nat) (j : NxJob) (a : Active) (t : Token) (r : List Token) (s : State), working s c k j → j.cmd.op = .xget → j.phase ≠ .finished →
    j.gather = some a → (s.crew c).xgetBlocked j = false → (s.crew c).stopped = false → a.send = t :: r → (s.crew c).canSend t j.cmd.output = true →
    (s.crew c).mayWrite ((s.crew c).isNew j.cmd.period) 99 j.cmd.output = true →
    ∃ u, exec (.nxCommandComplete c k) s = .next u ∧ (u.crew c).chans = ((s.crew c).enqueue t j.cmd.output).chans ∧
      (u.crew c).job k = some { j with gather := some { a with send := r } })
end Sys2Proof.Slice0

/-- R239, R245, R246, R248, R250 to R253: completion, admission, routes and elastic pairs; and the work of copies and indexed remote reads. -/
def Obligations.NxSteps : Prop :=
  Sys2Proof.Slice0.nxStepsDoneRule ∧ Sys2Proof.Slice0.nxCopiesRule

namespace Sys2Proof.Slice0
/-- R262, R264 to R266: hand.rel of pages that its cluster owns, none in transit or with an update under way, hands each over: its record names the new owner and the layer, counts one more, and
stands in transit, or present where the owner keeps it; the cluster's translations of the pages are gone, and its strands' stores performed (those to other pages too by the model's choice, log 55). A page of another cluster
refuses the whole with OWNER, its index and nothing handed over. hand.acq sets a page owned that stands with the count and layer it asks for, in its cluster and not in transit; a page that is past the count ends it with STALE,
one of another layer with LATER. hand.query writes the image of every record of its list. -/
def handoverWorkRule : Prop :=
  (∀ (c k : Nat) (j : NxJob) (pas : List (Nat × Handover)) (s s1 : State), working s c k j → j.cmd.op = .rel → j.phase ≠ .finished →
    s.handPages c j.cmd.list = (pas.map (fun x => .page x.1 x.2), s1) →
    (∀ x ∈ pas, x.2.owner = c / 8 ∧ x.2.state ≠ 1 ∧ s1.pageBusy (c / 8) x.1 = false) → (pas.map (fun x => x.1 / 65536)).Nodup →
    ∃ u, exec (.nxCommandComplete c k) s = .next u ∧
      (∀ x ∈ pas, tfind u.handovers (x.1 / 65536) = some ⟨blkAt j.cmd.blk 8 4, blkAt j.cmd.blk 0xC 2, (x.2.count + 1) % 65536, 1,
        if blkAt j.cmd.blk 8 4 = c / 8 then 512 else 0⟩) ∧
      (∀ p, (∀ x ∈ pas, x.1 / 65536 ≠ p) → tfind u.handovers p = tfind s1.handovers p) ∧
      (∀ x ∈ pas, ∀ e ∈ (u.cluster (c / 8)).tlb, e.level = 0 → u.ownHbm (leafFrame e.leaf) ≠ x.1) ∧
      (∀ i n, i < 8 → n < 4 → (u.strandAt (8 * (c / 8) + i) n).buffer = []) ∧
      (u.crew c).job k = some { j with
        phase := .finished
        count := blkAt j.cmd.blk 4 4
        withheld := none }) ∧
  (∀ (c k i pa va : Nat) (h : Handover) (j : NxJob) (ps : List HandPage) (s s1 : State), working s c k j → j.cmd.op = .rel → j.phase ≠ .finished → j.code = 0 →
    s.handPages c j.cmd.list = (ps, s1) → ps[i]? = some (.page pa h) → h.owner ≠ c / 8 → j.cmd.list[i]? = some va →
    (∀ m, m < i → ∃ p g, ps[m]? = some (.page p g) ∧ g.owner = c / 8) →
    ∃ u, exec (.nxCommandComplete c k) s = .next u ∧ u.handovers = s1.handovers ∧ (∀ m, u.rawByte m = s1.rawByte m) ∧ (u.crew c).job k = some { j with
      phase := .finished
      code := 0x30
      detail := i % 2 ^ 24
      ownerVa := some va }) ∧
  (∀ (c k pa va : Nat) (h : Handover) (l : List Nat) (j : NxJob) (s s1 : State), working s c k j → j.cmd.op = .acq → j.phase ≠ .finished → j.code = 0 →
    j.cmd.list = l ++ [va] → (∀ i, i < l.length → i ∈ j.asked) → l.length ∉ j.asked → s.handPage c va = (.page pa h, s1) →
    (h.count = blkAt j.cmd.blk 8 2 → h.layer = blkAt j.cmd.blk 0xA 2 → h.owner = c / 8 → h.state ≠ 1 → j.asked.length = l.length →
      ∃ u, exec (.nxCommandComplete c k) s = .next u ∧ tfind u.handovers (pa / 65536) = some { h with state := 0 } ∧
        (∀ p, p ≠ pa / 65536 → tfind u.handovers p = tfind s1.handovers p) ∧ (u.crew c).job k = some { j with
          phase := .finished
          asked := l.length :: j.asked
          count := j.count + 1 }) ∧
    (1 ≤ (h.count + 65536 - blkAt j.cmd.blk 8 2) % 65536 → (h.count + 65536 - blkAt j.cmd.blk 8 2) % 65536 ≤ 32767 → j.asked.length = l.length →
      ∃ u y, exec (.nxCommandComplete c k) s = .next u ∧ u.handovers = s1.handovers ∧ (u.crew c).job k = some y ∧ y.phase = .finished ∧ y.code = 0x37 ∧
        y.detail = l.length % 2 ^ 24 ∧ y.count = j.count) ∧
    (h.count = blkAt j.cmd.blk 8 2 → h.layer ≠ blkAt j.cmd.blk 0xA 2 → j.asked.length = l.length →
      ∃ u y, exec (.nxCommandComplete c k) s = .next u ∧ u.handovers = s1.handovers ∧ (u.crew c).job k = some y ∧ y.phase = .finished ∧ y.code = 0x39 ∧
        y.detail = l.length % 2 ^ 24 ∧ y.count = j.count)) ∧
  (∀ (c k a : Nat) (j : NxJob) (ps : List HandPage) (s s1 s2 : State), working s c k j → j.cmd.op = .query → j.phase ≠ .finished →
    s.handPages c j.cmd.list = (ps, s1) → (∀ p ∈ ps, p ≠ .wait) → a = blkAt j.cmd.blk 8 4 →
    s2 = s1.dispatchEdge c j.cmd.strand (.pool c a) (8 * ps.length) → memoriesWf s2 →
    ∃ u y, exec (.nxCommandComplete c k) s = .next u ∧
      (∀ i b, i < ps.length → b < 8 → (u.rawByte (.pool c (a + 8 * i + b))).toNat = recordImage (ps.getD i .plain) / 256 ^ b % 256) ∧
      (∀ m, (∀ i, i < 8 * ps.length → m ≠ .pool c (a + i)) → u.rawByte m = s2.rawByte m) ∧ u.handovers = s1.handovers ∧
      (u.crew c).job k = some y ∧ y.phase = .finished ∧ y.count = blkAt j.cmd.blk 4 4 ∧
      ((∀ p ∈ ps, ∀ x, p ≠ .xlate x) → y.code = j.code ∧ y.detail = j.detail))
end Sys2Proof.Slice0

namespace Sys2Proof.Slice0
/-- R256, R257, R259: a member's part of the chunk in flight, read from its source after its strand's earlier stores (R306), joins the group's parts and goes to every other device with a live member. Once every live
member's part is there and the other devices hold them too, the chunk is combined: coll.ar leaves every member of this device the combined bytes, coll.red its root alone,
coll.bc the root's bytes, and coll.flt with the last chunk the records of its key range in the order of source rank and position; each goes on to its next chunk, or ends, a filtered exchange with its count. -/
def collectiveWorkRule : Prop :=
  (∀ (c k n r : Nat) (j : NxJob) (e : CollGroup) (m : CollMember) (s s0 : State), collective s c k j e m → j.given = false → r = s.rankOf e m.rank →
    s0 = (s.dispatchEdge c j.cmd.strand (.pool c (blkAt j.cmd.blk 0 4)) (blkAt j.cmd.blk 8 4)).dispatchEdge c j.cmd.strand (.pool c (blkAt j.cmd.blk 4 4))
      (if j.cmd.op = .flt then blkAt j.cmd.blk 0x18 4 else blkAt j.cmd.blk 8 4) →
    n = (if j.cmd.op = .bc ∧ r ≠ j.cmd.collRoot then 0 else Nat.min 1048576 (blkAt j.cmd.blk 8 4 - j.pos * 1048576)) →
    (∀ x ∈ e.parts, ¬ (x.rank = r ∧ x.turn = j.turn ∧ x.chunk = j.pos)) → (s.groupPeers e).Nodup →
    (∀ d ∈ s.groupPeers e, (s.flow d 3).unacked.length + Nat.max 1 ((n + 4095) / 4096) ≤ 1024) →
    ∃ u p y, exec (.collChunk c k) s = .next u ∧ u.group j.cmd.groupId = some y ∧ y.parts = e.parts ++ [p] ∧ p.rank = r ∧ p.turn = j.turn ∧
      p.chunk = j.pos ∧ p.seq = e.chunks ∧ p.bytes = s0.bytesAt (.pool c (blkAt j.cmd.blk 0 4 + j.pos * 1048576)) n ∧
      (∀ d ∈ s.groupPeers e, ∃ qs, (u.flow d 3).unacked = (s0.flow d 3).unacked ++ qs ∧ (qs.map Packet.payload).flatten = p.bytes ∧
        ∀ q ∈ qs, q.dst = d ∧ q.op = opChunk) ∧
      (u.crew c).job k = some { j with given := true } ∧ ∀ l, u.rawByte l = s0.rawByte l) ∧
  (∀ (c k n i : Nat) (last : Bool) (j : NxJob) (e : CollGroup) (m : CollMember) (ps : List CollPart) (jobs : List (Nat × Nat × Nat × NxJob)) (s : State),
    collective s c k j e m → j.given = true → jobs = s.collJobs j.cmd.groupId e → jobs.length = (e.members.filter (fun x => !x.ended)).length →
    (jobs.map (fun x => x.1)).Nodup → (∀ x ∈ jobs, x.2.2.2.pos = i ∧ x.2.2.2.cmd.collLen = j.cmd.collLen) → e.kept = [] → e.partsIn = true →
    (e.readyTold = true ∨ s.groupPeers e = []) → s.peersReady e = true → ps = e.partsNow → e.disagree ps = false → j.cmd.collLen % 32 = 0 →
    n = Nat.min 1048576 (j.cmd.collLen - i * 1048576) → last = decide (chunkCount j.cmd.collLen ≤ i + 1) → memoriesWf s →
    ∃ u y, exec (.collChunk c k) s = .next u ∧ u.group j.cmd.groupId = some y ∧ y.chunks = (e.chunks + 1) % 2 ^ 32 ∧
      y.turns = (if last then e.turns + 1 else e.turns) ∧
      ∀ x ∈ jobs,
        (∀ bs, chunkResult e ps n x.2.2.1 x.2.2.2.cmd = some bs → ∀ b, b < n → b < bs.length / 32 * 32 →
          u.rawByte (.pool x.1 (blkAt x.2.2.2.cmd.blk 4 4 + i * 1048576 + b)) = bs.getD b 0) ∧
        (last = true → x.2.2.2.cmd.op = .flt → ∀ q b, q < (takenRecords e x.2.2.2.cmd x.2.2.2.turn).length → b < 32 →
          ((takenRecords e x.2.2.2.cmd x.2.2.2.turn).getD q ([], false)).1.length = 32 →
          u.rawByte (.pool x.1 (blkAt x.2.2.2.cmd.blk 4 4 + 32 * q + b)) = ((takenRecords e x.2.2.2.cmd x.2.2.2.turn).getD q ([], false)).1.getD b 0) ∧
        (u.crew x.1).job x.2.1 = some (if last then
          (if e.lost = [] then { x.2.2.2 with
              phase := .finished
              pos := i + 1
              given := false
              count := if x.2.2.2.cmd.op = .flt then 32 * (takenRecords e x.2.2.2.cmd x.2.2.2.turn).length else 0 }
            else { x.2.2.2.fail nxDegraded e.lost.length with
              pos := i + 1
              given := false
              count := if e.lostAt = e.chunks ∧ e.kept = ps then (e.chunks + 1) % 2 ^ 32 else e.lostAt })
          else { x.2.2.2 with
            pos := i + 1
            given := false }))
end Sys2Proof.Slice0

/-- R255 to R259, R262 to R266: groups, losses and pages pushed; and the work of handover commands and collectives. -/
def Obligations.GroupsAndHandover : Prop :=
  Sys2Proof.Slice0.groupsAndPagesRule ∧ Sys2Proof.Slice0.handoverWorkRule ∧ Sys2Proof.Slice0.collectiveWorkRule

namespace Sys2Proof.Slice0

/-- A packet of a source that this device may take up: devid is locked, and the source is another device (R373). -/
def fromOther (s : State) (src : Nat) : Prop := s.sys.lock = true ∧ src < 2048 ∧ src ≠ s.sys.devid

/-- The number that the next packet of a flow to this device must have. -/
def expected (s : State) (p : Packet) : Nat := tget s.fabric.expect (4 * p.src + p.cls) 0

/-- Does a packet write byte i of its payload? A stream's sixth operation field says which bytes it writes (R299). -/
def writesByte (p : Packet) (i : Nat) : Prop := i < p.payload.length ∧ (p.field 1 = forToken → (p.field 5).testBit i = true)

/-- Nothing but the fabric's state has changed. -/
def onlyFabric (s t : State) : Prop := t = { s with fabric := t.fabric }

/-- A save of the gang of a core's crew has begun: each of its crews holds the request, with its strands and its scratchpad as they were (R348). -/
def saveBegun (s t : State) (core reason wva : Nat) : Prop :=
  ∀ d ∈ s.mates core, (∃ image, (t.crew d).saving = some ⟨reason, false, false, s.time, wva, image, []⟩) ∧ (t.crew d).strands = (s.crew d).strands ∧
    (t.crew d).pool = (s.crew d).pool

end Sys2Proof.Slice0

namespace Sys2Proof.Slice0
/-- R268, R269: a packet in its turn is accepted once: the flow expects the next number, and a write's bytes stand in this device's memory, an atomic's location
holds its result with the old value cached as its answer. A packet that comes again changes nothing but what is sent back; one out of turn is dropped; its header
acknowledges the reverse flow all the same. An acknowledgement takes every packet of its flow up to its number out of the retry buffer, of the atomic class those that have been answered. What a packet of each class carries is the model's (DESIGN CHOICE, log 31). -/
def packetsAcceptedRule : Prop :=
  (∀ (src seq : Nat) (l : List Nat) (p : Packet) (s : State), fromOther s src → packetOf s.sys.devid src (seq % 65536) l = some p → p.cls = 0 →
    p.op = opWrite → expected s p = seq % 65536 → s.takes p = true → s.homeRefusal p.place p.payload.length true = 0 → memoriesWf s →
    (∀ i j, writesByte p i → writesByte p j → i ≠ j → s.hbmLoc (p.place + i) ≠ s.hbmLoc (p.place + j)) →
    ∃ u, exec (.packetReceive src seq l) s = .next u ∧ expected u p = (seq % 65536 + 1) % 65536 ∧
      (∀ i, writesByte p i → u.rawByte (s.hbmLoc (p.place + i)) = p.payload.getD i 0) ∧
      (∀ m, (∀ i, writesByte p i → m ≠ s.hbmLoc (p.place + i)) → u.rawByte m = s.rawByte m)) ∧
  (∀ (src seq n : Nat) (l : List Nat) (p : Packet) (s : State), fromOther s src → packetOf s.sys.devid src (seq % 65536) l = some p → p.cls = 2 →
    p.op = opAtomic → expected s p = seq % 65536 → s.takes p = true → n = p.field 1 / 8 → n ≤ 8 → s.homeRefusal p.place n true = 0 →
    s.poisonedAt (s.hbmLoc p.place) n = false → s.bytesAt (s.hbmLoc p.place) n = s.rawBytes (s.hbmLoc p.place) n → p.field 0 ≠ 9 → memoriesWf s →
    ∃ u, exec (.packetReceive src seq l) s = .next u ∧ expected u p = (seq % 65536 + 1) % 65536 ∧
      u.rawBytes (s.hbmLoc p.place) n = bytesOf n (atomicNew (p.field 0) (p.field 1) (ofBytes (s.rawBytes (s.hbmLoc p.place) n)) (p.field 2) (p.field 3)) ∧
      tfind (tget u.fabric.cache src []) p.seq = some (atomicAnswer (ofBytes (s.rawBytes (s.hbmLoc p.place) n)) false 0 0)) ∧
  (∀ (src seq : Nat) (l : List Nat) (p : Packet) (s : State), fromOther s src → packetOf s.sys.devid src (seq % 65536) l = some p →
    (p.cls = 2 → p.op ≠ opAnswer) → expected s p ≠ seq % 65536 → expected s p < 65536 →
    ∃ u, exec (.packetReceive src seq l) s = .next (u.ackFlow (4 * src + p.cls) p.ack) ∧ onlyFabric s u ∧ u.fabric.expect = s.fabric.expect ∧
      u.fabric.out = s.fabric.out ∧ u.fabric.cache = s.fabric.cache ∧ (32768 < (expected s p + 65536 - seq % 65536) % 65536 → u = s)) ∧
  (∀ (f seq : Nat) (a r : List Packet) (q : Packet) (s : State), (tget s.fabric.out f emptyFlow).unacked = a ++ q :: r → a.length < 1024 →
    (∀ x ∈ a, x.seq ≠ seq) → q.seq = seq → (f % 4 = 2 → ∀ x ∈ q :: a, x.seq ∈ (tget s.fabric.out f emptyFlow).answered) →
    ∃ u, exec (.ackReceive f seq) s = .next u ∧ (tget u.fabric.out f emptyFlow).unacked = r ∧ ∀ g, g ≠ f → tget u.fabric.out g emptyFlow =
      tget s.fabric.out g emptyFlow) ∧
  (∀ (f seq : Nat) (q : Packet) (r : List Packet) (s : State), f % 4 = 2 → (tget s.fabric.out f emptyFlow).unacked = q :: r →
    q.seq ∉ (tget s.fabric.out f emptyFlow).answered → ∃ u, exec (.ackReceive f seq) s = .next u ∧ (tget u.fabric.out f emptyFlow).unacked = q :: r)
end Sys2Proof.Slice0

namespace Sys2Proof.Slice0
/-- R270, R372, R375: a route in use whose acknowledgements are missing, and every route through a link that goes down, is marked failed; while another route of
the device serves, the packets of its flows stay in the retry buffers and take that route; with none left a strand that waits for the device takes FABRIC_UNREACHABLE. A
link or a port that comes up serves. -/
def routesAndLinksRule : Prop :=
  (∀ (d i : Nat) (s : State), s.routeInUse d = some i → (∃ c, c < 4 ∧ (s.flow d c).unacked ≠ []) →
    ∃ u, exec (.ackTimeout d) s = .next u ∧ (tget u.fabric.routes (4 * d + i) 0).testBit 21 = true ∧
      (∀ k, k ≠ 4 * d + i → tget u.fabric.routes k 0 = tget s.fabric.routes k 0) ∧ (u.routeUp d = true → (∀ l, u.rawByte l = s.rawByte l) ∧ ∀ c, c < 4 →
        (u.flow d c).unacked = (s.flow d c).unacked.map (fun q => { q with route := u.routeTag d }))) ∧
  (∀ (d i c k : Nat) (p : Pending) (s : State), s.routeInUse d = some i → (∃ c, c < 4 ∧ (s.flow d c).unacked ≠ []) →
    (∀ j, j < 4 → j ≠ i → (tget s.fabric.routes (4 * d + j) 0).testBit 20 = true → (tget s.fabric.routes (4 * d + j) 0).testBit 21 = true) →
    (s.core c).held = true → k < 4 → (s.strandAt c k).hold = .response p → isFabricPa p.pa = true → field p.pa 50 40 = d →
    (s.strandAt c k).traps.length < 2 →
    ∃ u b, exec (.ackTimeout d) s = .next u ∧
      u.strandAt c k = { (s.strandAt c k).pushTrap ((s.core c).tvec &&& ~~~3) 0x10 (BitVec.ofNat 64 d) (s.strandAt c k).pc with buffer := b }) ∧
  (∀ (n : Nat) (s : State), ∃ u, exec (.linkDown n) s = .next u ∧ smem u.sys.ports n = false ∧
    (∀ m, m ≠ n → smem u.sys.ports m = smem s.sys.ports m) ∧
    (∀ k, (tget s.fabric.routes k 0).testBit 20 = true → field (tget s.fabric.routes k 0) 3 0 = n → (tget u.fabric.routes k 0).testBit 21 = true) ∧
    ((∀ r ∈ s.fabric.routes, tget s.fabric.routes r.1 0 = r.2) →
      ∀ k, field (tget s.fabric.routes k 0) 3 0 ≠ n → tget u.fabric.routes k 0 = tget s.fabric.routes k 0)) ∧
  (∀ (n : Nat) (s : State), ∃ u, exec (.nuethPortTrained n) s = .next u ∧ (n < 16 → smem u.sys.ports n = true) ∧
    (∀ m, m ≠ n → smem u.sys.ports m = smem s.sys.ports m) ∧ u.cores = s.cores ∧ u.fabric = s.fabric) ∧
  (∀ (n : Nat) (s : State), ∃ u, exec (.hostLinkDown n) s = .next u ∧ smem u.sys.links n = false ∧
    (∀ m, m ≠ n → smem u.sys.links m = smem s.sys.links m) ∧ u.cores = s.cores ∧ u.hbm = s.hbm) ∧
  (∀ (n : Nat) (s : State), ∃ u, exec (.hostLinkUp n) s = .next u ∧ ((n = 0 ∨ n = 2) → smem u.sys.links n = true) ∧
    (∀ m, m ≠ n → smem u.sys.links m = smem s.sys.links m) ∧ u.cores = s.cores ∧ u.hbm = s.hbm)
end Sys2Proof.Slice0

/-- R268 to R270: packets accepted and acknowledged, and failing routes. -/
def Obligations.FabricPackets : Prop :=
  Sys2Proof.Slice0.packetsAcceptedRule ∧ Sys2Proof.Slice0.routesAndLinksRule

/-- R335, R342, R345, R346: a crew whose ending is decided, or that has drained with every strand halted, leaves its core free and is counted for its launch; a crew whose
strands and engines have made no progress for a second is given WATCHDOG, unless it waits on memory or a wide barrier. -/
def Obligations.CrewsEnd : Prop :=
  (∀ (c : Nat) (e : Cause) (l : Launch) (s : State), (s.core c).held = true → (s.crew c).ending = some e → (s.crew c).saving = none →
    s.launch (s.crew c).info.launch = some l →
    ∃ u, exec (.endCrew c e) s = .next u ∧ (u.core c).held = false ∧ u.crew c = emptyCrew ∧ u.launch (s.crew c).info.launch =
      some { l with
        retired := l.retired + 1
        failed := match l.failed with | some x => some x | none => some e }) ∧
  (∀ (c : Nat) (l : Launch) (s : State), (s.core c).held = true → (s.crew c).mayRetire = true → s.launch (s.crew c).info.launch = some l →
    ∃ u, exec (.crewRetire c) s = .next u ∧ (u.core c).held = false ∧ u.crew c = emptyCrew ∧
      u.launch (s.crew c).info.launch = some { l with retired := l.retired + 1 }) ∧
  (∀ (c k : Nat) (s : State), (s.core c).held = true → (s.crew c).ending = none → (s.crew c).saving = none → (s.crew c).excused = false →
    13000000000 ≤ s.time - (s.crew c).progress → (s.crew c).trapTarget 0 = some k → tfind (s.strandAt c k).pending 0x0D = none →
    ∃ u, exec (.watchdog c) s = .next u ∧
      tfind (u.strandAt c k).pending 0x0D = some (BitVec.ofNat 64 (Nat.min (2 ^ 64 - 1) (((s.crew c).cycle - (s.crew c).progressCycle) / 20))) ∧
      (∀ j, j ≠ k → u.strandAt c j = s.strandAt c j) ∧ ∀ d, d ≠ c → u.core d = s.core d) ∧
  (∀ (c : Nat) (s : State), (s.crew c).excused = true ∨ s.time - (s.crew c).progress < 13000000000 → exec (.watchdog c) s = .next s)

/-- R331, R335, R347 to R350, R355: an access withheld beyond csr_pftime, a pre-emption after 50 µs, a swap-out and a recovery request each begin a save of the
whole gang; a gang whose strands are quiet gets its markers; a marker that waits beyond csr_snaptime, at a join or with nothing of its crew moving, ends the wait; a gang ready to be copied is kept and its cores are
free. Without a save area every access that is late is recorded, once for as long as it waits. That the wait ends too where a marker is left and nothing of the crew has moved for
csr_snaptime (log 50), and that the whole gang is saved as one (log 51), are the model's choices. A gang's awaited page found present makes it ready again, and a gang resumed in a cluster has every running strand in the monitor with PREEMPTED. -/
def Obligations.GangsSavedAndResumed : Prop :=
  (∀ (c k va t : Nat) (s : State), (s.core c).held = true →
    longest (((s.crew c).withheldBy k).filter (fun x => decide ((s.crew c).pftime.toNat * 13000 < s.time - x.2) &&
      s.withheldIn (s.crew c).info.ctx (clusterOf c) x.1)) = some (va, t) → (s.crew c).info.saveSize ≠ 0 → s.maySave c = true →
    ∃ u, exec (.drainToCheckpoint c k) s = .next u ∧ saveBegun s u c 3 va ∧ u.sys.rasWritten = s.sys.rasWritten + 1) ∧
  (∀ (c k : Nat) (late : List (Nat × Nat)) (s : State), (s.core c).held = true →
    late = ((s.crew c).withheldBy k).filter (fun x => decide ((s.crew c).pftime.toNat * 13000 < s.time - x.2) &&
      s.withheldIn (s.crew c).info.ctx (clusterOf c) x.1) → late ≠ [] → (s.crew c).info.saveSize = 0 →
    ∃ u, exec (.drainToCheckpoint c k) s = .next u ∧
      u.sys.rasWritten = s.sys.rasWritten + (late.filter (fun x => !((s.crew c).reported.contains x))).length ∧
      (∀ x ∈ late, x ∈ (u.crew c).reported) ∧ (∀ x ∈ (s.crew c).reported, x ∈ (u.crew c).reported) ∧
      (u.crew c).saving = (s.crew c).saving ∧ (u.crew c).strands = (s.crew c).strands) ∧
  (∀ (c : Nat) (s : State), (s.core c).held = true → (s.crew c).saving = none → s.maySave c = true →
    ∃ u, exec (.crewSave c 4) s = .next u ∧ saveBegun s u c 4 0) ∧
  (∀ (c : Nat) (s : State), (s.core c).held = true → (s.crew c).saving = none → s.maySave c = true → (s.crew c).suspends = true →
    ∃ u, exec (.crewSave c 5) s = .next u ∧ saveBegun s u c 5 0) ∧
  (∀ (c : Nat) (v : Save) (s : State), (s.core c).held = true → (s.crew c).saving = some v → v.placed = false →
    (∀ d ∈ s.mates c, (s.crew d).quiet = true) →
    ∃ u, exec (.crewSave c v.reason) s = .next u ∧ ∀ d ∈ s.mates c, (u.crew d).saving = (s.crew d).saving.map (fun x => { x with
      placed := true
      since := s.time })) ∧
  (∀ (c : Nat) (v : Save) (s : State), (s.core c).held = true → (s.crew c).saving = some v → v.placed = true →
    (∀ d ∈ s.mates c, ((s.onCores (s.mates c) Crew.sinkSnaps).crew d).mayCopy = true ∧ (s.crew d).ending = none ∧
      (s.onCores (s.mates c) Crew.sinkSnaps).areaReady d = true) →
    ∃ u g, exec (.crewSave c v.reason) s = .next u ∧ tfind u.cp.gangs s.cp.nextGang = some g ∧ g.launch = (s.crew c).info.launch ∧
      g.gang = (s.crew c).info.gang ∧ g.cores = s.mates c ∧ g.crews.length = (s.mates c).length ∧ g.reason = v.reason ∧
      ∀ d ∈ s.mates c, (u.core d).held = false) ∧
  (∀ (c : Nat) (v : Save) (s : State), (s.core c).held = true → (s.crew c).saving = some v → v.placed = true → (s.crew c).snapsLeft = true →
    ((∃ x ∈ v.stuck, (s.crew c).snaptime.toNat * 13000 < s.time - x.2) ∨
      (s.crew c).snaptime.toNat * 13000 < s.time - Nat.max v.since (s.crew c).progress) →
    ∃ u, exec (.snapshotFallback c) s = .next u ∧ (u.crew c).saving = some { v with fallback := true } ∧ (u.crew c).chans = (s.crew c).chans) ∧
  (∀ (n : Nat) (g : Gang) (w : Crew) (r : List Crew) (s : State), tfind s.cp.gangs n = some g → g.crews = w :: r → g.awaited = true →
    s.withheldIn w.info.ctx g.cluster g.wva = false →
    ∃ u, exec (.checkpointPageRecheck n) s = .next u ∧ tfind u.cp.gangs n = some { g with awaited := false } ∧ u.cores = s.cores) ∧
  (∀ (n cl c k : Nat) (g : Gang) (w : Crew) (s : State), tfind s.cp.gangs n = some g → s.mayPlace g.die false n cl = true →
    (∀ v ∈ g.crews, ∀ j, j < 8 → v.entryValid j = false) → (c, w) ∈ (s.freeIn cl).zip g.crews → k < 4 → (w.strand k).present = true →
    (w.strand k).halted = false → (w.strand k).traps.length < 2 →
    ∃ u, exec (.crewResume n cl) s = .next u ∧ tfind u.cp.gangs n = none ∧ (u.core c).held = true ∧ (u.crew c).pool = w.pool ∧
      u.strandAt c k = (w.strand k).pushTrap ((s.core c).tvec &&& ~~~3) 0x12 (BitVec.ofNat 64 g.reason) (w.strand k).pc) ∧
  (∀ (n cl prio crews since k : Nat) (cls l : List Nat) (s : State), s.waiting n cl = some (prio, crews, since, cls) →
    50 * 13000 ≤ s.time - since → s.victimCluster prio crews cls = some (cl, k, l) →
    ∃ u, exec (.preemptWaitExpiry n cl) s = .next u ∧ (∀ c ∈ l, (u.crew c).strands = (s.crew c).strands) ∧
      ∀ c r, l = c :: r → saveBegun s u c 1 0) ∧
  (∀ (c : Nat) (l : Launch) (s : State), (s.core c).held = true → s.maySave c = true → (∀ p ∈ (s.crew c).strands, s.strandIdle p.2 = true) →
    s.launch (s.crew c).info.launch = some l → l.preempt ≤ 1 →
    (l.nextGang (dieOf c)).isSome = true → ∃ u, exec (.swapOut c) s = .next u ∧ saveBegun s u c 2 0)

namespace Sys2Proof.Slice0

/-! ### Queues and records (spec 12) -/

/-- The steps that serve the head of a queue, and of which sort of record (R320, R325 to R328). -/
def serves (q : Nat) (x : Queue) (b : List Byte) : Instr → Prop
  | .queueScan n => n = q
  | .dependencyRecheck n => n = q ∧ x.head.isSome = true
  | .launch n => n = q ∧ recSort b = 1 ∧ (x.announced = true ∨ x.head.isSome = true)
  | .barrierAnd n => n = q ∧ recSort b = 2 ∧ (x.announced = true ∨ x.head.isSome = true)
  | .createQueue n => n = q ∧ recSort b = 17 ∧ (x.announced = true ∨ x.head.isSome = true)
  | .destroyQueue n => n = q ∧ recSort b = 18 ∧ (x.announced = true ∨ x.head.isSome = true)
  | .shootdown n => n = q ∧ recSort b = 19 ∧ (x.announced = true ∨ x.head.isSome = true)
  | .migrate n => n = q ∧ recSort b = 20 ∧ (x.announced = true ∨ x.head.isSome = true)
  | .handoverRecord n => n = q ∧ recSort b = 21 ∧ (x.announced = true ∨ x.head.isSome = true)
  | .clearRoute n => n = q ∧ recSort b = 22 ∧ (x.announced = true ∨ x.head.isSome = true)
  | .contextRoot n => n = q ∧ recSort b = 23 ∧ (x.announced = true ∨ x.head.isSome = true)
  | _ => False

/-- The head of a queue is a record that is read, present, sound (Table 12.3, steps 1 to 3) and next in turn, and its dependencies are met; `x` is the
queue before, `t` the state in which the record is taken, `l` its effective priority. -/
def headReady (s : State) (q : Nat) (x : Queue) (d : QueueDesc) (b : List Byte) (l : Nat) (t : State) : Prop :=
  (s.sys.service = 1 ∨ s.sys.service = 2) ∧ s.queue q = some x ∧ present b = true ∧ crc32c (b.take 0x7C) = at' b 0x7C 4 ∧
    recSeq b = d.rd % 65536 ∧ headOk q b = true ∧
    ∃ s0 s1 y, s.readHead q x = (.val (d, b), s0) ∧ s1 = (s0.queueReached q).noteHead q d b ∧ s1.queue q = some y ∧ l = s1.level y d b ∧
      s1.cp.queues.any (fun z => s1.before q l z) = false ∧ s1.depsMet q (queueCtx q d.ctx) (recDeps b) = (true, t)

/-- The record of a queue has been taken: its head is forgotten, and the queue is the one served last at its level. -/
def taken (u : State) (q l : Nat) : Prop :=
  (∃ y, u.queue q = some y ∧ y.head = none ∧ y.aged = 0) ∧ tget u.cp.served l 1023 = q

/-- Two states hold the same bytes of memory. -/
def sameMemory (s t : State) : Prop := ∀ l, s.rawByte l = t.rawByte l

/-- A record completes with a code and is consumed: `v` is the state after its completion's status word and signal (R324) and the clearing of its valid bit with
rd + 1 (R323). -/
def completedWith (t : State) (q : Nat) (d : QueueDesc) (b : List Byte) (code : Nat) (v : State) : Prop :=
  ∃ t2, (t.consume q d b).1 = .val () ∧
    t.cpComplete q (queueCtx q d.ctx) (recCpl b) (statusWord (recSeq b) code false false) = (true, t2) ∧ t2.consume q d b = (.val (), v)

/-- What a CP request that has succeeded leaves (Table 12.5): a queue known or forgotten, translations and pages, a handover record, a route
in use again, a context's root and tag. -/
def requestEffect (b : List Byte) (t u : State) : Prop :=
  match at' b 0x38 2 with
  | 1 => u.queue (at' b 0x48 2) = some ⟨at' b 0x40 8, at' b 0x4A 1, false, none, 0, false, .idle⟩ ∧ t.queue (at' b 0x48 2) = none
  | 2 => u.queue (at' b 0x48 2) = none
  | 3 => ∀ k e, e ∈ (u.cluster k).tlb → e.shot (if at' b 0x40 2 = 0xFFFF then none else some (at' b 0x40 2)) (at' b 0x48 8) (at' b 0x50 8) = false
  | 4 => ∀ k e, e ∈ (u.cluster k).tlb → e.shot (some (at' b 0x40 2)) (at' b 0x48 8 / 65536 * 65536) 65536 = false
  | 5 => ∃ addr e, t.requestLeaf (at' b 0x40 2) (at' b 0x48 8) = .val (0, addr, e) ∧
      tfind u.handovers (leafFrame e / 65536) = if at' b 0x54 1 = 1 then some ⟨at' b 0x50 1, at' b 0x52 2, 0, 0, 0⟩ else none
  | 6 => (tget u.fabric.routes (4 * at' b 0x40 2 + (at' b 0x42 1 - 1)) 0).testBit 21 = false
  | 7 => tget u.roots (at' b 0x40 2) 0 = at' b 0x48 8 ∧ tget u.tags (at' b 0x40 2) 0 = at' b 0x50 4 ∧
      ∀ k e, e ∈ (u.cluster k).tlb → e.ctx ≠ some (at' b 0x40 2) ∨ 2 ^ 56 ≤ e.vpage * pageSize e.level
  | _ => False

end Sys2Proof.Slice0

/-- R320, R321, R323, R325, R329: a notification announces its queue. An examination of a queue whose head is not present leaves it unannounced; an access that fails is
recorded once; a head that waits gains its whole milliseconds; a record that fails its CRC or is out of sequence is consumed (its valid bit cleared, rd counted on), and the
queue's descriptor then holds one reject more at 28H and its code, 11H or 0EH, over its number at 2CH; one whose dependencies are not met stays. -/
def Obligations.QueueScanning : Prop :=
  (∀ (n q : Nat) (x : Queue) (s : State), q = n % 1024 → s.queue q = some x → tget s.sys.tdisp (n / 1024) 0 ≠ 3 →
    ∃ u, exec (.notifyWrite n) s = .next u ∧ u.queue q = some { x with announced := true } ∧ (∀ p, p ≠ q → u.queue p = s.queue p) ∧
      u.cores = s.cores ∧ u.hbm = s.hbm) ∧
  (∀ (q : Nat) (x : Queue) (d : QueueDesc) (b : List Byte) (s s0 : State), (s.sys.service = 1 ∨ s.sys.service = 2) → s.queue q = some x →
    s.readHead q x = (.val (d, b), s0) → present b = false →
    ∃ u, exec (.queueScan q) s = .next u ∧ u.queue q = some { x with
        announced := false
        head := none
        aged := 0
        failed := false
        carried := .idle } ∧ u.cp.launches = s.cp.launches) ∧
  (∀ (q va : Nat) (c : Cause) (x : Queue) (s s0 : State), (s.sys.service = 1 ∨ s.sys.service = 2) → s.queue q = some x →
    s.readHead q x = (.trap c va, s0) →
    ∃ u, exec (.queueScan q) s = .next u ∧ u.queue q = some { x with failed := true } ∧
      u.sys.rasWritten = s.sys.rasWritten + if x.failed then 0 else 1) ∧
  (∀ (q c n : Nat) (x : Queue) (s : State), s.queue q = some x → x.head = some (c, n) →
    ∃ u, exec (.priorityAging q) s = .next u ∧ u.queue q = some { x with aged := Nat.max x.aged ((s.time - n) / 13000000) } ∧
      u.cp.launches = s.cp.launches) ∧
  (∀ (q l : Nat) (i : Instr) (x y : Queue) (d : QueueDesc) (b : List Byte) (s s0 s1 t : State), (s.sys.service = 1 ∨ s.sys.service = 2) →
    s.queue q = some x → s.readHead q x = (.val (d, b), s0) → present b = true → serves q x b i → s1 = (s0.queueReached q).noteHead q d b →
    s1.queue q = some y → l = s1.level y d b → s1.cp.queues.any (fun z => s1.before q l z) = false →
    (crc32c (b.take 0x7C) ≠ at' b 0x7C 4 ∨ recSeq b ≠ d.rd % 65536) → s1.consume q d b = (.val (), t) →
    ∃ u code, exec i s = .next u ∧ taken u q l ∧ u.cp.launches = s.cp.launches ∧ u.cp.signals = s.cp.signals ∧
      code = (if crc32c (b.take 0x7C) ≠ at' b 0x7C 4 then 0x11 else 0x0E) ∧
      sameMemory u ((t.putDesc y.desc 0x28 (lowBytes 4 (d.rejects + 1))).putDesc y.desc 0x2C (lowBytes 4 (d.rd % 65536 + 65536 * code))) ∧
      (t.windows = [] → memoriesWf t → (∀ j, j < 64 → isHbmPa (y.desc + j) = true) → ∀ j, j < 4 →
        (u.rawByte (.hbm (y.desc + 0x28 + j))).toNat = (d.rejects + 1) / 256 ^ j % 256 ∧
        (u.rawByte (.hbm (y.desc + 0x2C + j))).toNat = (d.rd % 65536 + 65536 * code) / 256 ^ j % 256)) ∧
  (∀ (q l : Nat) (x y : Queue) (d : QueueDesc) (b : List Byte) (s s0 s1 t : State), (s.sys.service = 1 ∨ s.sys.service = 2) →
    s.queue q = some x → x.head.isSome = true → s.readHead q x = (.val (d, b), s0) → present b = true →
    s1 = (s0.queueReached q).noteHead q d b → s1.queue q = some y → l = s1.level y d b →
    s1.cp.queues.any (fun z => s1.before q l z) = false → crc32c (b.take 0x7C) = at' b 0x7C 4 → recSeq b = d.rd % 65536 → headOk q b = true →
    s1.depsMet q (queueCtx q d.ctx) (recDeps b) = (false, t) →
    ∃ u, exec (.dependencyRecheck q) s = .next u ∧ u.queue q = some y ∧ y.head.isSome = true ∧ u.cp.launches = s.cp.launches)

/-- R323, R324, R326 to R328, R336: a ready launch record whose checks pass is consumed and its launch is in progress under the next number; one that a check refuses
completes with its code and starts nothing. A BARRIER_AND completes; a CP request that succeeds has its effect and completes; one that a restart cut short only completes, with CONFIG. A SIGNAL completes only once
every earlier record of its queue has. A launch whose every crew has retired completes and is no longer in progress. Memory is then as the completion and the consumption
leave it (what these write stands in ControlPlaneMemory). That a request to clear routes counts them from 1 is the model's reading (log 17); that one cut short by a
restart completes with CONFIG is R374 and Table 14.3. -/
def Obligations.RecordsServed : Prop :=
  (∀ (q l : Nat) (i : Instr) (x : Queue) (d : QueueDesc) (b : List Byte) (n : Launch) (s t t1 t2 : State), headReady s q x d b l t → serves q x b i →
    recKind b = 1 → t.checkLaunch q d.rd d.ctx l b = (.take n, t1) → t1.consume q d b = (.val (), t2) →
    ∃ u, exec i s = .next u ∧ u.launch s.cp.nextLaunch = some n ∧ u.cp.nextLaunch = s.cp.nextLaunch + 1 ∧
      (∀ k, k ≠ s.cp.nextLaunch → u.launch k = s.launch k) ∧ sameMemory u t2 ∧ n.tiles = at' b 0x18 4 ∧ n.args = at' b 0x10 8 ∧ n.gang = at' b 0x1C 2 ∧
      n.strands = at' b 0x1E 2 ∧ n.cpl = at' b 0x20 8 ∧ n.queue = q ∧ n.retired = 0 ∧ taken u q l) ∧
  (∀ (q l : Nat) (i : Instr) (x : Queue) (d : QueueDesc) (b : List Byte) (c : Cause) (s t t1 v : State), headReady s q x d b l t → serves q x b i →
    recKind b = 1 → t.checkLaunch q d.rd d.ctx l b = (.refuse c, t1) → completedWith t1 q d b c.toNat v →
    ∃ u, exec i s = .next u ∧ u.cp.launches = s.cp.launches ∧ sameMemory u v ∧ taken u q l) ∧
  (∀ (q l : Nat) (i : Instr) (x : Queue) (d : QueueDesc) (b : List Byte) (s t v : State), headReady s q x d b l t → serves q x b i → recKind b = 2 →
    completedWith t q d b 0 v → ∃ u, exec i s = .next u ∧ u.cp.launches = s.cp.launches ∧ u.cp.signals = s.cp.signals ∧ sameMemory u v ∧ taken u q l) ∧
  (∀ (q l : Nat) (i : Instr) (x : Queue) (d : QueueDesc) (b : List Byte) (s t t1 v : State), headReady s q x d b l t → serves q x b i →
    recKind b = 8 → (x.carried = .idle ∨ x.carried = .begun) → t.request q b = .done 0 t1 → completedWith t1 q d b 0 v →
    ∃ u, exec i s = .next u ∧ requestEffect b t u ∧ sameMemory u v ∧ taken u q l) ∧
  (∀ (q l : Nat) (i : Instr) (x : Queue) (d : QueueDesc) (b : List Byte) (s t v : State), headReady s q x d b l t → serves q x b i →
    recKind b = 8 → x.carried = .cut → x.head = none → completedWith t q d b 0x0E v →
    ∃ u, exec i s = .next u ∧ u.cp.launches = s.cp.launches ∧ u.roots = s.roots ∧ u.clusters = t.clusters ∧ u.handovers = s.handovers ∧ sameMemory u v ∧ taken u q l) ∧
  (∀ (q l : Nat) (x : Queue) (d : QueueDesc) (b : List Byte) (s t t2 : State), headReady s q x d b l t →
    (x.announced = true ∨ x.head.isSome = true) → recKind b = 3 → s.cp.signals = [] → t.consume q d b = (.val (), t2) →
    ∃ u, exec (.signalRecord q) s = .next u ∧ taken u q l ∧ u.cp.launches = s.cp.launches ∧
      ((∃ k n, tfind s.cp.launches k = some n ∧ n.queue = q ∧ n.count < d.rd) → u.cp.signals = [⟨q, d.ctx, d.rd, recSeq b, recCpl b⟩] ∧ sameMemory u t2) ∧
      (∀ t3, (∀ n ∈ s.cp.launches, n.2.queue = q → d.rd ≤ n.2.count) →
        ({ t2 with cp := { t2.cp with signals := [⟨q, d.ctx, d.rd, recSeq b, recCpl b⟩] } } : State).cpComplete q (queueCtx q d.ctx) (recCpl b)
          (statusWord (recSeq b) 0 false false) = (true, t3) → u.cp.signals = [] ∧ sameMemory u t3)) ∧
  (∀ (k : Nat) (n : Launch) (s t : State), s.launch k = some n → n.undispatched = false → n.tiles ≤ n.retired →
    s.cpComplete n.queue (queueCtx n.queue n.ctx) n.cpl (statusWord n.seq (match n.failed with | some c => c.toNat | none => 0) n.twilight n.degraded)
      = (true, t) → ∃ u, exec (.launchComplete k) s = .next u ∧ u.launch k = none ∧ (s.cp.signals = [] → sameMemory u t) ∧
      ∀ j, j ≠ k → u.launch j = s.launch j)

/-- R319, R323, R324, R110, R111: consuming a record clears its valid bit and counts rd on, for a queue whose ring and descriptor lie apart in device HBM; a completion
writes the status word behind its signal and takes 1 from the signal; a page migrated within device HBM has its bytes at the new frame. -/
def Obligations.ControlPlaneMemory : Prop :=
  (∀ (q : Nat) (x : Queue) (d : QueueDesc) (b : List Byte) (s u : State), s.queue q = some x → 1022 ≤ q → s.windows = [] → memoriesWf s →
    (∀ i, i < 64 → isHbmPa (x.desc + i) = true) → (∀ i, i < 128 → isHbmPa (d.entry + i) = true) →
    (x.desc + 64 ≤ d.entry ∨ d.entry + 128 ≤ x.desc) → s.consume q d b = (.val (), u) →
    (∀ i, i < 8 → (u.rawByte (.hbm (x.desc + 0x18 + i))).toNat = (d.rd + 1) / 256 ^ i % 256) ∧
      (u.rawByte (.hbm d.entry)).toNat = at' b 0 4 % 256 / 2 * 2 ∧ ∀ k, u.strandAt k = s.strandAt k) ∧
  (∀ (q a w : Nat) (s : State), s.windows = [] → memoriesWf s → a % 16 = 0 → a ≠ 0 → (∀ i, i < 16 → isHbmPa (a + i) = true) →
    s.cpReach none (a + 8) 8 cpWrite' = (.ok (a + 8) 0, s) → s.cpReach none a 8 cpBoth = (.ok a 0, s) → s.atomicCarried 0 a 0 = true → s.bytesAt (.hbm a) 8 = s.rawBytes (.hbm a) 8 →
    ∃ u, s.cpComplete q none a w = (true, u) ∧ (∀ i, i < 8 → (u.rawByte (.hbm (a + 8 + i))).toNat = w / 256 ^ i % 256) ∧
      ofBytes (u.rawBytes (.hbm a) 8) = (ofBytes (s.rawBytes (.hbm a) 8) + 2 ^ 64 - 1) % 2 ^ 64) ∧
  (∀ (q ctx va addr e dst a : Nat) (s s1 : State), s.locOf (leafFrame e) = .hbm a → s.updatesOn a = false →
    s.unperformed (fun pa => pa / 65536 == a / 65536) (fun _ => true) = false →
    s.shootdown (some ctx) (va / 65536 * 65536) 65536 = some s1 → s.windows = [] → memoriesWf s1 → s1.windows = [] → dst % 65536 = 0 →
    (∀ i, i < 8 → isHbmPa (addr + i) = true) → (addr + 8 ≤ dst ∨ dst + 65536 ≤ addr) →
    ∃ t, s.movePage q ctx va addr e dst = .done 0 t ∧ (∀ i, i < 65536 → t.rawByte (.hbm (dst + i)) = s1.rawByte (.hbm (a + i))) ∧
      ∀ i, i < 8 → (t.rawByte (.hbm (addr + i))).toNat = setBit (e - leafFrame e + dst) 12 false / 256 ^ i % 256)

/-- R68, R331, R333: a launch's next gang placed in a cluster takes its tiles to the lowest free cores, every strand at the kernel's entry with its arguments, tile, strand number
and save area in x1 to x4, and the die's range goes on behind them. An idle die asks the die with the most undispatched tiles, and a granted request moves whole gangs,
at most half, from the top of that die's range to the die that asked, both in service. -/
def Obligations.TilesDispatched : Prop :=
  (∀ (k cl a n i c j : Nat) (l : Launch) (s : State), s.launch k = some l → (∀ g ∈ s.cp.gangs, g.2.launch ≠ k) →
    s.mayPlace (dieOfCluster cl) true k cl = true → l.nextGang (dieOfCluster cl) = some (a, n) → i < n → (s.freeIn cl)[i]? = some c →
    j < l.strands → l.strands ≤ 4 →
    ∃ u y, exec (.gangPlace k cl) s = .next u ∧ (u.core c).held = true ∧ (u.crew c).info.tile = a + i ∧ (u.crew c).info.launch = k ∧
      (u.crew c).info.place = i ∧ (u.strandAt c j).pc = BitVec.ofNat 64 l.code ∧ (u.strandAt c j).getX 1 = BitVec.ofNat 64 l.args ∧
      (u.strandAt c j).getX 2 = BitVec.ofNat 64 (a + i) ∧ (u.strandAt c j).getX 3 = BitVec.ofNat 64 j ∧
      (u.strandAt c j).getX 4 = BitVec.ofNat 64 (l.savebase + (a + i) * l.savesz) ∧ (u.strandAt c j).present = true ∧
      u.launch k = some y ∧ y.placed = l.placed + 1 ∧ (∃ e, tfind l.ranges (dieOfCluster cl) = some (a, e) ∧ n = Nat.min l.gang (e - a) ∧
        tfind y.ranges (dieOfCluster cl) = some (a + n, e)) ∧ ∀ d, d ≠ dieOfCluster cl → tfind y.ranges d = tfind l.ranges d) ∧
  (∀ (d k v : Nat) (l : Launch) (s : State), s.cp.launches.find? (fun x => s.mayAsk d x.1 x.2 && x.2.richest.isSome) = some (k, l) →
    l.richest = some v → ∃ u, exec (.stealRequest d) s = .next u ∧ u.cp.requests = s.cp.requests ++ [(k, v, d)] ∧
      tfind u.cp.asked (4 * k + d) = some s.time ∧ u.cp.launches = s.cp.launches ∧ u.cores = s.cores) ∧
  (∀ (k v d n a b : Nat) (l : Launch) (s : State), (k, v, d) ∈ s.cp.requests → s.launch k = some l → smem s.sys.dies v = true →
    smem s.sys.dies d = true → tfind l.ranges v = some (a, b) → n = (b - a) / 2 / l.gang * l.gang → n ≠ 0 → l.left d = 0 →
    ∃ u y, exec (.stealGrant k v d) s = .next u ∧ (k, v, d) ∉ u.cp.requests ∧ u.launch k = some y ∧ tfind y.ranges v = some (a, b - n) ∧
      tfind y.ranges d = some (b - n, b) ∧ (∀ e, e ≠ v → e ≠ d → tfind y.ranges e = tfind l.ranges e) ∧ y.tiles = l.tiles ∧ u.cores = s.cores)

namespace Sys2Proof.Slice0

/-- The state of a TDISP function after a message (R378): lock, start, stop. -/
def tdispNext (st m : Nat) : Nat :=
  if m = 0 ∧ st = 0 then 1 else if m = 1 ∧ st = 1 then 2 else if m = 2 then 0 else st

end Sys2Proof.Slice0

/-- R361, R363, R364, R373, R374: what the resets and restarts leave. A die reset takes its die out of service with no crew on its cores and its function in ERROR; a reset of
function 0 leaves the state after reset but for the spare mapping; a restart of the control plane keeps launches and crews and looks at every queue afresh, a request in progress being cut short, one of the
data plane ends every crew and gang, one of the management plane restarts the counts. -/
def Obligations.ResetsAndRestarts : Prop :=
  (∀ (f : Nat) (s : State), 1 ≤ f → f ≤ 4 →
    ∃ u, exec (.dieReset f) s = .next u ∧ smem u.sys.dies (f - 1) = false ∧ smem u.sys.bounds (f - 1) = false ∧ tget u.sys.tdisp f 0 = 3 ∧
      smem u.sys.ide f = false ∧ (∀ c ∈ coresOfDie (f - 1), (u.core c).held = false ∧ smem u.sys.untested c = true) ∧
      (∀ d, d ≠ f - 1 → smem u.sys.dies d = smem s.sys.dies d)) ∧
  (∀ (s : State), ∃ u, exec .function0Reset s = .next u ∧ u.cores = [] ∧ u.clusters = [] ∧ u.cp = State.reset.cp ∧
    u.fabric = State.reset.fabric ∧ u.sys.service = 0 ∧ u.sys.lock = false ∧ u.sys.devid = 0 ∧ u.sys.dies = [] ∧ u.time = 0 ∧
    ((∀ h ∈ s.sys.health, tfind s.sys.health h.1 = some h.2) → ∀ c, (u.health c).spared = (s.health c).spared ∧
      (u.health c).rowsSpared = (s.health c).rowsSpared ∧ (u.health c).failing = [])) ∧
  (∀ (s : State), ∃ u, exec .controlPlaneRestart s = .next u ∧ u.cores = s.cores ∧ u.hbm = s.hbm ∧ u.cp.launches = s.cp.launches ∧
    u.cp.gangs = s.cp.gangs ∧ u.cp.signals = s.cp.signals ∧ ∀ q, u.queue q = (s.queue q).map (fun x => { x with
      announced := false
      head := none
      aged := 0
      carried := if x.carried = .begun then .cut else x.carried })) ∧
  (∀ (s : State), ∃ u, exec .dataPlaneRestart s = .next u ∧ (∀ c, (u.core c).held = false) ∧ u.cp.gangs = [] ∧ u.rings = [] ∧ u.groups = [] ∧
    (∀ c, (u.cluster c).tlb = [] ∧ (u.cluster c).icache = [])) ∧
  (∀ (s : State), ∃ u, exec .managementPlaneRestart s = .next u ∧ (∀ c, u.health c = { s.health c with counts := [] }) ∧ u.cores = s.cores ∧
    u.hbm = s.hbm ∧ u.cp = s.cp)

/-- R13, R375 to R377: the steps of start-up. An image verified in boot is measured (its digest is a free value, log 41); a bad one fails the device. A boundary trained serves its die once no core of it awaits a
test, and csr_tvec of its cores is then set (to a free multiple of 4, log 91); a stack trained serves. Twilight comes when every image is good and one die, one memory die and one stack serve; full service when all do and every core has passed every transit test (that it asks so of every core since reset, and twilight a memory die's boundary, is the model's reading, log 63); and
a device none of whose stacks has trained ten seconds after reset has failed. -/
def Obligations.StartUp : Prop :=
  (∀ (n : Nat) (good : Bool) (s : State), s.sys.service = 0 → n < 4 →
    ∃ u, exec (.firmwareVerify n good) s = .next u ∧ u.sys.measures = s.freeNat (60 + n) % 2 ^ 512 :: s.sys.measures ∧
      (good = true → smem u.sys.firmware n = true ∧ u.sys.service = 0) ∧ (good = false → u.sys.firmware = s.sys.firmware ∧ u.sys.service = 3)) ∧
  (∀ (d : Nat) (s : State), d < 4 → (∀ c ∈ s.sys.untested, dieOf c ≠ d) →
    ∃ u, exec (.hubBoundaryTrained d) s = .next u ∧ smem u.sys.bounds d = true ∧ smem u.sys.dies d = true ∧
      (∀ e, e ≠ d → smem u.sys.dies e = smem s.sys.dies e) ∧ (∀ c, dieOf c ≠ d → u.core c = s.core c) ∧
      ∀ c ∈ coresOfDie d, u.core c = { s.core c with tvec := (u.core c).tvec } ∧ (smem s.sys.dies d = false → (u.core c).tvec.toNat % 4 = 0)) ∧
  (∀ (d c : Nat) (s : State), d < 4 → c ∈ s.sys.untested → dieOf c = d →
    ∃ u, exec (.hubBoundaryTrained d) s = .next u ∧ smem u.sys.bounds d = true ∧ u.sys.dies = s.sys.dies) ∧
  (∀ (d : Nat) (s : State), 4 ≤ d → d < 8 →
    ∃ u, exec (.hubBoundaryTrained d) s = .next u ∧ smem u.sys.memDies (d - 4) = true ∧ u.sys.dies = s.sys.dies ∧ u.cores = s.cores) ∧
  (∀ (n : Nat) (s : State), n < 16 → ∃ u, exec (.stackTrained n) s = .next u ∧ smem u.sys.trained n = true ∧
    (∀ m, m ≠ n → smem u.sys.trained m = smem s.sys.trained m) ∧ u.hbm = s.hbm ∧ u.cores = s.cores) ∧
  (∀ (s : State), s.sys.service = 0 → (∀ n, n < 4 → smem s.sys.firmware n = true) → s.sys.bounds ≠ [] → s.sys.memDies ≠ [] → s.sys.trained ≠ [] →
    ∃ u, exec .enterTwilight s = .next u ∧ u.sys.service = 1 ∧ u.sys.cc = 20 ∧ u.cores = s.cores ∧ u.hbm = s.hbm) ∧
  (∀ (n : Nat) (s : State), s.sys.service = 0 → n < 4 → smem s.sys.firmware n = false → exec .enterTwilight s = .next s) ∧
  (∀ (s : State), s.sys.service = 1 → (∀ n, n < 16 → smem s.sys.trained n = true ∧ smem s.sys.ports n = true) →
    (∀ d, d < 4 → smem s.sys.bounds d = true ∧ smem s.sys.memDies d = true) → (∀ c, c < 448 → smem s.sys.tested c = true) →
    ∃ u, exec .enterFullService s = .next u ∧ u.sys.service = 2 ∧ u.sys.cc = 10 ∧ u.cores = s.cores ∧ u.hbm = s.hbm) ∧
  (∀ (n : Nat) (s : State), n < 16 → smem s.sys.trained n = false → exec .enterFullService s = .next s) ∧
  (∀ (c : Nat) (s : State), c < 448 → smem s.sys.tested c = false → exec .enterFullService s = .next s) ∧
  (∀ (s : State), s.sys.service = 0 → s.sys.trained = [] → 10 * 13000000000 ≤ s.time →
    ∃ u, exec .stackTrainingTimeout s = .next u ∧ u.sys.service = 3 ∧ u.cores = s.cores)

/-- R361, R362, R377, R378, R380: an attested measurement is the log of verified images; a key exchange gives its function keys and takes it out of ERROR; TDISP messages move a function
that is not in ERROR among its states; a transit test runs on a core that has been free for 100 µs and its result is recorded, a failing unit with it; a core whose every unit has passed is tested, which ends its wait
of a die reset; the governor only lowers the clock. The codes of the requests are the model's (PRESUMED, log 41), as are a pattern and the leaves that failed (free values). -/
def Obligations.SecurityAndTests : Prop :=
  (∀ (n : Nat) (s : State), smem s.sys.firmware 2 = true →
    ∃ u a, exec (.spdmRequest n) s = .next u ∧ u.sys.answers = a :: s.sys.answers ∧ (n = 1 → a = s.sys.measures.foldl (fun x m => 2 ^ 512 * x + m) 0) ∧
      (2 ≤ n → n ≤ 6 → smem u.sys.ide (n - 2) = true ∧ tget u.sys.tdisp (n - 2) 0 ≠ 3) ∧ u.cores = s.cores ∧ u.hbm = s.hbm) ∧
  (∀ (n : Nat) (s : State), smem s.sys.firmware 2 = false → exec (.spdmRequest n) s = .next s) ∧
  (∀ (f m : Nat) (s : State), f ≤ 4 → tget s.sys.tdisp f 0 ≠ 3 →
    ∃ u, exec (.tdispRequest f m) s = .next u ∧ tget u.sys.tdisp f 0 = tdispNext (tget s.sys.tdisp f 0) m ∧
      (∀ g, g ≠ f → tget u.sys.tdisp g 0 = tget s.sys.tdisp g 0) ∧ u.cores = s.cores) ∧
  (∀ (f m : Nat) (s : State), tget s.sys.tdisp f 0 = 3 → exec (.tdispRequest f m) s = .next s) ∧
  (∀ (c : Nat) (s : State), c < 448 → (s.core c).held = false → smem s.sys.firmware 3 = true → (s.health c).freed + 1300000 ≤ s.time →
    (∀ t, (s.health c).testing = some t → t ≤ s.time) →
    ∃ u, exec (.transitTestStart c) s = .next u ∧ (u.health c).testing = some (s.time + 2600000) ∧ u.coreFree c = false ∧
      (∀ d, d ≠ c → u.health d = s.health d) ∧ u.cores = s.cores) ∧
  (∀ (c : Nat) (s : State), (s.core c).held = true → exec (.transitTestStart c) s = .next s) ∧
  (∀ (c unit index t : Nat) (pass : Bool) (s : State), (s.health c).testing = some t → t ≤ s.time → (s.core c).held = false → 1 ≤ unit → unit ≤ 5 →
    index < unitCount c unit →
    ∃ u, exec (.transitTestResult c unit index pass) s = .next u ∧ u.sys.rasWritten = s.sys.rasWritten + 1 ∧
      (pass = false → smem (u.health c).failing (4096 * unit + index) = true) ∧ (pass = false → 2 ≤ unit → u.coreFree c = false) ∧
      (pass = false → smem u.sys.tested c = false) ∧
      (pass = true → smem s.sys.tested c = false → (∀ x ∈ unitsOf c, x = 4096 * unit + index ∨ smem (s.health c).passed x = true) →
        smem u.sys.tested c = true ∧ smem u.sys.untested c = false) ∧ (pass = true → unit = 1 → smem (u.health c).failing (4096 + index) = false) ∧
      (pass = true → unit = 1 → ∀ x ∈ (u.health c).spared, x.1 / 64 ≠ index)) ∧
  (∀ (n : Nat) (s : State), ∃ u, exec (.thermalClockLower n) s = .next u ∧ u.sys.cc = Nat.max s.sys.cc n ∧ u.cores = s.cores ∧ u.hbm = s.hbm)

/-- R55, R145, R217, R280, R327, R371, R373: the writes inside a CSR write, host writes of BAR0, and a word that is no instruction, which traps with ILLEGAL_OP and the word in csr_tval (a long
form with both its words). csr_spill takes only its sticky half; csr_ectl only a rounding mode that exists; csr_status its priority, and ie in the monitor
only. Numbers from 65,536 stand for BAR0 (DESIGN CHOICE, log 38); that clearing bit 0 of aqen leaves it 0 and removes
queue 1,023 is the model's reading (log 58). -/
def Obligations.RegisterWrites : Prop :=
  (∀ (c k : Nat) (v : Word) (s : State), ∃ u, exec (.csrSpillWrite c k v) s = .next u ∧ (u.crew c).spilled = v.extractLsb' 32 32 ∧
    (u.crew c).chans = (s.crew c).chans ∧ (u.crew c).strands = (s.crew c).strands ∧ ∀ d, d ≠ c → u.core d = s.core d) ∧
  (∀ (c k e : Nat) (v : Word) (s : State), e < 8 → (v.extractLsb' 0 3).toNat < 5 →
    ∃ u, exec (.ectlWrite c k e v) s = .next u ∧ ((u.crew c).elem e).ctl = v &&& 0x1F ∧ ((u.crew c).elem e).flags = ((s.crew c).elem e).flags ∧
      (u.crew c).strands = (s.crew c).strands ∧ ∀ f, f ≠ e → (u.crew c).elem f = (s.crew c).elem f) ∧
  (∀ (c k e : Nat) (v : Word) (s : State), e < 8 → 5 ≤ (v.extractLsb' 0 3).toNat →
    ∃ tv, exec (.ectlWrite c k e v) s = .next (s.takeTrapAt c k 0x0E tv (s.strandAt c k).pc)) ∧
  (∀ (c k : Nat) (v : Word) (s : State), ∃ u, exec (.statusWrite c k v) s = .next u ∧
    (u.strandAt c k).status = (v &&& 0x30) ||| (if (s.strandAt c k).monitor then 2 else 0) |||
      (if (s.strandAt c k).monitor then v &&& 1 else if (s.strandAt c k).ie then 1 else 0) ∧
    (u.strandAt c k).x = (s.strandAt c k).x ∧ (u.strandAt c k).pc = (s.strandAt c k).pc ∧ ∀ j, j ≠ k → u.strandAt c j = s.strandAt c j) ∧
  (∀ (c k : Nat) (v : Word) (s : State), exec (.registerWrite c k 0x041 v) s = .next (s.modCrew c (fun w => { w with replay := v }))) ∧
  (∀ (c k n : Nat) (v : Word) (s : State), (n = 0x022 ∨ n = 0x023) → v.extractLsb' 0 16 ≠ 0 →
    ∃ u, exec (.registerWrite c k n v) s = .next u ∧ (if n = 0x022 then (u.crew c).pftime else (u.crew c).snaptime) = v &&& 0xFFFF ∧
      (if n = 0x022 then (u.crew c).snaptime = (s.crew c).snaptime else (u.crew c).pftime = (s.crew c).pftime) ∧
      (u.crew c).strands = (s.crew c).strands) ∧
  (∀ (c k : Nat) (v : Word) (s : State), s.sys.aqen = 0 → tget s.sys.tdisp 0 0 ≠ 3 →
    ∃ u, exec (.registerWrite c k (65536 + 0x2000) v) s = .next u ∧ u.sys.aqdesc = v.toNat ∧ u.cores = s.cores ∧ u.cp = s.cp) ∧
  (∀ (c k : Nat) (v : Word) (s : State), s.sys.aqen ≠ 0 → tget s.sys.tdisp 0 0 ≠ 3 → exec (.registerWrite c k (65536 + 0x2000) v) s = .next s) ∧
  (∀ (v : Word) (b : List Byte) (s t : State), v.getLsbD 0 = true → s.sys.aqen ≠ 1 → s.cpRead none none s.sys.aqdesc 64 = (.val b, t) →
    ∃ u, exec (.aqenWrite v) s = .next u ∧ (queueDescOk b true = true → u.sys.aqen = 1 ∧ u.queue 1023 = some ⟨s.sys.aqdesc, 0, false, none, 0, false, .idle⟩) ∧
      (queueDescOk b true = false → u.sys.aqen = 2 ∧ u.cp.queues = s.cp.queues)) ∧
  (∀ (v : Word) (s : State), v.getLsbD 0 = false →
    ∃ u, exec (.aqenWrite v) s = .next u ∧ u.sys.aqen = 0 ∧ u.queue 1023 = none ∧ ∀ q, q ≠ 1023 → u.queue q = s.queue q) ∧
  (∀ (v : Word) (s : State), s.sys.lock = false →
    ∃ u, exec (.devidWrite v) s = .next u ∧ u.sys.devid = (v.extractLsb' 0 11).toNat ∧ u.sys.lock = v.getLsbD 63 ∧ u.cores = s.cores) ∧
  (∀ (v : Word) (s : State), s.sys.lock = true → exec (.devidWrite v) s = .next s) ∧
  (∀ (w : Half) (v : Option Half) (s : State), s.me.traps.length < 2 →
    ∃ u, exec (.illegalInstruction w v) s = .next u ∧
      u.me = s.me.pushTrap ((s.core s.cur.core).tvec &&& ~~~3) 0x01 (match v with | some x => x ++ w | none => w.setWidth 64) s.me.pc)

namespace Sys2Proof.Slice0

/-- What every reachable state keeps: every memory in its canonical form, those of the crews of suspended gangs with them. -/
def Inv (s : State) : Prop := memoriesWf s ∧ ∀ g ∈ s.cp.gangs, ∀ w ∈ g.2.crews, Memory.wf w.pool = true

/-- A save in progress without the times since which markers wait at its joins. -/
def unstuck (v : Save) : Save := { v with stuck := [] }

/-- Nothing of t but when crews last made progress, and since when markers of a save wait, differs from u. -/
def onlyProgress (t u : State) : Prop :=
  u = { t with cores := u.cores } ∧ ∀ c, u.core c = { t.core c with
    crew := { t.crew c with
      progress := (u.crew c).progress
      progressCycle := (u.crew c).progressCycle
      saving := (u.crew c).saving } } ∧ (u.crew c).saving.map unstuck = (t.crew c).saving.map unstuck

end Sys2Proof.Slice0

/-- R45 to R56, Tables 3.1 to 3.4: the words of a well-formed instruction decode to it, with every operand at every value, whatever follows them; and a triggered
word gives back its op and its fields (Table 3.7). -/
def Obligations.EncodeThenDecode : Prop :=
  (∀ (i : Instr) (w x : Half) (v : Option Half), i.wellFormed = true → encode i = some (w, v) → decode w (v.getD x) = .ok i ∧ isLong w = v.isSome) ∧
  (∀ (op : Nat) (t : Trig), op < 64 → trigOp (encodeTrig op t) = op ∧ trigFields (encodeTrig op t) = t)

/-- R53, R56: a word that decodes has one meaning, which is well formed and whose encoding it is; so no reserved code and no non-zero reserved field is read as an
instruction. -/
def Obligations.DecodeThenEncode : Prop :=
  ∀ (w v : Half) (i : Instr), decode w v = .ok i → i.wellFormed = true ∧ encode i = some (w, if isLong w then some v else none)

/-- Table 3.6, R63: the worked encodings, and words of Table 3.5 that are no instruction. -/
def Obligations.DecodedWords : Prop :=
  decode 0x00414602 0 = .ok (.add 4 5 6 2) ∧ decode 0x48715020 0 = .ok (.ldGl 7 5 2 4 0) ∧ decode 0x90A2C500 0 = .ok (.smAff 10 11 5 0) ∧
    decode 0xC0320900 0x00000060 = .ok (.amoAdd 3 8 9 3 0 false 0) ∧ decode 0x61FFFFFB 0 = .ok (.br 3 true (-5)) ∧
    decode 0x74000028 0 = .ok (.halt 0) ∧
    trigInstr (trigOp 0x03014620004C0C87) (trigFields 0x03014620004C0C87) = some (.fadd ⟨false, 0x06, 0x02, true, 3, 0, 0, 4, 771, 135⟩) ∧
    decode 0x2C000000 0 = .error .reservedMajor ∧ decode 0x000000C0 0 = .error .reservedCode ∧ decode 0x40003800 0 = .error .badSize ∧
    decode 0x74100000 0 = .error .nonzeroField ∧ decode 0x7FF00000 0 = .error .nullWait

/-- R45, R55, R207, R273: in the turn of a sequencer that issues, for the strand it picks with no trap to take, the words fetched at the pc that decode to an instruction run as
that instruction, and words that are none as ILLEGAL_OP, one instruction in a cc at most; an event of the schedule runs as itself, an element's turn as its lowest ready slot's operation. Around exec
a step adds the turn's time and notes progress. A word not cached is read from its place in memory. That one schedule gives the turns and their times is the model's choice
(DESIGN CHOICE, log 1). -/
def Obligations.StepRunsDecodedInstruction : Prop :=
  (∀ (c k : Nat) (w v : Half) (i : Instr) (s s1 s2 t : State), s.turn.who = .sequencer c → s.beginTurn.issues c = true →
    (s.beginTurn.crew c).issuedNow = false → s1 = s.beginTurn.noteReady c → s1.pick c = some k → (s1.strandAt c k).takesAsync = false →
    s1.atMonitor c k = false → s1.fetch c k = (.words w v, s2) → t = s2.issued c k → decode w v = .ok i →
    step s = settleTurn s (exec i t) ∧ (t.crew c).issuedNow = true ∧ t.cur.core = c ∧ t.cur.strand = k ∧ t.me.pc = (s.strandAt c k).pc ∧ t.me.x = (s.strandAt c k).x) ∧
  (∀ (c k : Nat) (w v : Half) (e : DecodeError) (s s1 s2 t : State), s.turn.who = .sequencer c → s.beginTurn.issues c = true →
    (s.beginTurn.crew c).issuedNow = false → s1 = s.beginTurn.noteReady c → s1.pick c = some k → (s1.strandAt c k).takesAsync = false →
    s1.atMonitor c k = false → s1.fetch c k = (.words w v, s2) → t = s2.issued c k → decode w v = .error e →
    step s = settleTurn s (exec (.illegalInstruction w (if isLong w then some v else none)) t)) ∧
  (∀ (c : Nat) (s : State), s.turn.who = .sequencer c → (s.beginTurn.crew c).issuedNow = true → step s = settleTurn s (.next s.beginTurn)) ∧
  (∀ (i : Instr) (s : State), s.turn.who = .event i → Machine.Instr.isEvent i = true → step s = settleTurn s (exec i s.beginTurn)) ∧
  (∀ (c e n op : Nat) (t : Trig) (i : Instr) (s s1 : State), s.turn.who = .element c e → s1 = s.beginTurn → (s1.core c).held = true →
    ((s1.crew c).elem e).running = true → ((s1.crew c).elem e).stopping = false → (s1.crew c).pickSlot e = some (n, op, t) →
    trigInstr op t = some i →
    ∃ u, step s = settleTurn s (exec i u) ∧ u.cur.core = c ∧ u.cur.element = e ∧ u.cur.slot = n ∧ u.cores = s1.cores) ∧
  (∀ (s t : State), ∃ u, settleTurn s (.next t) = .next u ∧ onlyProgress t u) ∧
  (∀ (c k pa leaf va : Nat) (s s1 : State), s.reach c k va 4 ⟨false, false, true, (s.strandAt c k).monitor, false⟩ = (.ok pa leaf, s1) →
    tfind (s1.cluster (clusterOf c)).icache (pa / 4) = none → s1.cutOff (s1.locOf pa) = none → (∀ d a, s1.locOf pa ≠ .remote d a) →
    s1.poisonedAt (s1.locOf pa) 4 = false →
    (s.fetchWord c k va).1 = .word (BitVec.ofNat 32 (ofBytes (s1.bytesAt (s1.locOf pa) 4))))

/-- Every memory keeps its canonical form in every step, from every state in which it has it; so that equal memories are equal lists. -/
def Obligations.StepKeepsMemoryForm : Prop :=
  ∀ (s t : State), Inv s → step s = .next t → Inv t

/-- R68, R135, R281, R327, R371, R373, R375, R376: the device right after reset is in boot with devid 0 and unlocked, no queue but the monitor's, no crew, no trained stack or die in service, the clock of
twilight, time 0 and every memory canonical; and a crew starts with zero semaphores and empty channels. That memory nobody has written reads as 0 (log 3), that aqen is 0, so that the
host has no admin queue, and no stack is trained (log 5), and the clock before full service (log 93) are the model's choices (DESIGN CHOICE). -/
def Obligations.ResetState : Prop :=
  Inv State.reset ∧ State.reset.sys.service = 0 ∧ State.reset.sys.devid = 0 ∧ State.reset.sys.lock = false ∧ State.reset.sys.aqen = 0 ∧
    State.reset.sys.trained = [] ∧ State.reset.sys.dies = [] ∧ State.reset.sys.cc = 20 ∧ State.reset.time = 0 ∧ State.reset.ns = 0 ∧
    (∀ c, (State.reset.core c).held = false) ∧ (∀ q, (State.reset.queue q).isSome = decide (q = 1022)) ∧ (∀ k, State.reset.launch k = none) ∧
    (∀ i, emptyCrew.sem i = 0) ∧ (∀ c, (emptyCrew.chan c).fifo = []) ∧ ∀ a, State.reset.rawByte (.hbm a) = 0
end

