-- ==== Sys2Proof/Laws/State.lean ====
section
/-!
SUPPORT. Reading a field after an update: one lemma per field per update of the device, a crew and a strand, so that no later proof
unfolds a record update.
-/
namespace Sys2Proof.Machine
open Sys2Proof

/-! ### Tables -/

/-- A key just set holds its value. -/
@[simp] theorem tget_tset_self {α : Type} (t : Tab α) (i : Nat) (v d : α) : tget (tset t i v) i d = v := by
  induction t with
  | nil => simp [tset, tget]
  | cons p t ih =>
    obtain ⟨k, w⟩ := p
    by_cases h1 : i < k
    · simp [tset, tget, h1]
    · by_cases h2 : i = k <;> simp [tset, tget, h1, h2, ih]

/-- Setting a key leaves every other key alone. -/
theorem tget_tset_of_ne {α : Type} (t : Tab α) (i j : Nat) (v d : α) (h : j ≠ i) : tget (tset t i v) j d = tget t j d := by
  induction t with
  | nil => simp [tset, tget, h]
  | cons p t ih =>
    obtain ⟨k, w⟩ := p
    by_cases h1 : i < k
    · simp [tset, tget, h1, h]
    · by_cases h2 : i = k
      · subst h2; simp [tset, tget, h]
      · simp only [tset, h1, h2, if_false, tget, ih]

/-! ### The device -/

@[simp] theorem State.setCore_time (s : State) (c : Nat) (k : Core) : (s.setCore c k).time = s.time := rfl
@[simp] theorem State.setCore_moment (s : State) (c : Nat) (k : Core) : (s.setCore c k).moment = s.moment := rfl
@[simp] theorem State.setCore_sched (s : State) (c : Nat) (k : Core) : (s.setCore c k).sched = s.sched := rfl
@[simp] theorem State.setCore_cur (s : State) (c : Nat) (k : Core) : (s.setCore c k).cur = s.cur := rfl
@[simp] theorem State.setCore_hbm (s : State) (c : Nat) (k : Core) : (s.setCore c k).hbm = s.hbm := rfl
@[simp] theorem State.setCore_hbmPoison (s : State) (c : Nat) (k : Core) : (s.setCore c k).hbmPoison = s.hbmPoison := rfl
@[simp] theorem State.setCore_host (s : State) (c : Nat) (k : Core) : (s.setCore c k).host = s.host := rfl
@[simp] theorem State.setCore_hostPoison (s : State) (c : Nat) (k : Core) : (s.setCore c k).hostPoison = s.hostPoison := rfl
@[simp] theorem State.setCore_lines (s : State) (c : Nat) (k : Core) : (s.setCore c k).lines = s.lines := rfl
@[simp] theorem State.setCore_clusters (s : State) (c : Nat) (k : Core) : (s.setCore c k).clusters = s.clusters := rfl
@[simp] theorem State.setCore_roots (s : State) (c : Nat) (k : Core) : (s.setCore c k).roots = s.roots := rfl
@[simp] theorem State.setCore_tags (s : State) (c : Nat) (k : Core) : (s.setCore c k).tags = s.tags := rfl
@[simp] theorem State.setCore_windows (s : State) (c : Nat) (k : Core) : (s.setCore c k).windows = s.windows := rfl
@[simp] theorem State.setCore_handovers (s : State) (c : Nat) (k : Core) : (s.setCore c k).handovers = s.handovers := rfl
@[simp] theorem State.setCore_rings (s : State) (c : Nat) (k : Core) : (s.setCore c k).rings = s.rings := rfl
@[simp] theorem State.setCore_groups (s : State) (c : Nat) (k : Core) : (s.setCore c k).groups = s.groups := rfl
@[simp] theorem State.setCore_reports (s : State) (c : Nat) (k : Core) : (s.setCore c k).reports = s.reports := rfl
@[simp] theorem State.setCore_fabric (s : State) (c : Nat) (k : Core) : (s.setCore c k).fabric = s.fabric := rfl
@[simp] theorem State.setCore_ise (s : State) (c : Nat) (k : Core) : (s.setCore c k).ise = s.ise := rfl
@[simp] theorem State.setCore_suu (s : State) (c : Nat) (k : Core) : (s.setCore c k).suu = s.suu := rfl
@[simp] theorem State.setCore_suuLines (s : State) (c : Nat) (k : Core) : (s.setCore c k).suuLines = s.suuLines := rfl
@[simp] theorem State.setCore_sys (s : State) (c : Nat) (k : Core) : (s.setCore c k).sys = s.sys := rfl
@[simp] theorem State.setCore_cp (s : State) (c : Nat) (k : Core) : (s.setCore c k).cp = s.cp := rfl

@[simp] theorem State.setCrew_time (s : State) (c : Nat) (w : Crew) : (s.setCrew c w).time = s.time := rfl
@[simp] theorem State.setCrew_moment (s : State) (c : Nat) (w : Crew) : (s.setCrew c w).moment = s.moment := rfl
@[simp] theorem State.setCrew_sched (s : State) (c : Nat) (w : Crew) : (s.setCrew c w).sched = s.sched := rfl
@[simp] theorem State.setCrew_cur (s : State) (c : Nat) (w : Crew) : (s.setCrew c w).cur = s.cur := rfl
@[simp] theorem State.setCrew_hbm (s : State) (c : Nat) (w : Crew) : (s.setCrew c w).hbm = s.hbm := rfl
@[simp] theorem State.setCrew_hbmPoison (s : State) (c : Nat) (w : Crew) : (s.setCrew c w).hbmPoison = s.hbmPoison := rfl
@[simp] theorem State.setCrew_host (s : State) (c : Nat) (w : Crew) : (s.setCrew c w).host = s.host := rfl
@[simp] theorem State.setCrew_hostPoison (s : State) (c : Nat) (w : Crew) : (s.setCrew c w).hostPoison = s.hostPoison := rfl
@[simp] theorem State.setCrew_lines (s : State) (c : Nat) (w : Crew) : (s.setCrew c w).lines = s.lines := rfl
@[simp] theorem State.setCrew_clusters (s : State) (c : Nat) (w : Crew) : (s.setCrew c w).clusters = s.clusters := rfl
@[simp] theorem State.setCrew_roots (s : State) (c : Nat) (w : Crew) : (s.setCrew c w).roots = s.roots := rfl
@[simp] theorem State.setCrew_tags (s : State) (c : Nat) (w : Crew) : (s.setCrew c w).tags = s.tags := rfl
@[simp] theorem State.setCrew_windows (s : State) (c : Nat) (w : Crew) : (s.setCrew c w).windows = s.windows := rfl
@[simp] theorem State.setCrew_handovers (s : State) (c : Nat) (w : Crew) : (s.setCrew c w).handovers = s.handovers := rfl
@[simp] theorem State.setCrew_rings (s : State) (c : Nat) (w : Crew) : (s.setCrew c w).rings = s.rings := rfl
@[simp] theorem State.setCrew_groups (s : State) (c : Nat) (w : Crew) : (s.setCrew c w).groups = s.groups := rfl
@[simp] theorem State.setCrew_reports (s : State) (c : Nat) (w : Crew) : (s.setCrew c w).reports = s.reports := rfl
@[simp] theorem State.setCrew_fabric (s : State) (c : Nat) (w : Crew) : (s.setCrew c w).fabric = s.fabric := rfl
@[simp] theorem State.setCrew_ise (s : State) (c : Nat) (w : Crew) : (s.setCrew c w).ise = s.ise := rfl
@[simp] theorem State.setCrew_suu (s : State) (c : Nat) (w : Crew) : (s.setCrew c w).suu = s.suu := rfl
@[simp] theorem State.setCrew_suuLines (s : State) (c : Nat) (w : Crew) : (s.setCrew c w).suuLines = s.suuLines := rfl
@[simp] theorem State.setCrew_sys (s : State) (c : Nat) (w : Crew) : (s.setCrew c w).sys = s.sys := rfl
@[simp] theorem State.setCrew_cp (s : State) (c : Nat) (w : Crew) : (s.setCrew c w).cp = s.cp := rfl

@[simp] theorem State.modCrew_time (s : State) (c : Nat) (f : Crew → Crew) : (s.modCrew c f).time = s.time := rfl
@[simp] theorem State.modCrew_moment (s : State) (c : Nat) (f : Crew → Crew) : (s.modCrew c f).moment = s.moment := rfl
@[simp] theorem State.modCrew_sched (s : State) (c : Nat) (f : Crew → Crew) : (s.modCrew c f).sched = s.sched := rfl
@[simp] theorem State.modCrew_cur (s : State) (c : Nat) (f : Crew → Crew) : (s.modCrew c f).cur = s.cur := rfl
@[simp] theorem State.modCrew_hbm (s : State) (c : Nat) (f : Crew → Crew) : (s.modCrew c f).hbm = s.hbm := rfl
@[simp] theorem State.modCrew_hbmPoison (s : State) (c : Nat) (f : Crew → Crew) : (s.modCrew c f).hbmPoison = s.hbmPoison := rfl
@[simp] theorem State.modCrew_host (s : State) (c : Nat) (f : Crew → Crew) : (s.modCrew c f).host = s.host := rfl
@[simp] theorem State.modCrew_hostPoison (s : State) (c : Nat) (f : Crew → Crew) : (s.modCrew c f).hostPoison = s.hostPoison := rfl
@[simp] theorem State.modCrew_lines (s : State) (c : Nat) (f : Crew → Crew) : (s.modCrew c f).lines = s.lines := rfl
@[simp] theorem State.modCrew_clusters (s : State) (c : Nat) (f : Crew → Crew) : (s.modCrew c f).clusters = s.clusters := rfl
@[simp] theorem State.modCrew_roots (s : State) (c : Nat) (f : Crew → Crew) : (s.modCrew c f).roots = s.roots := rfl
@[simp] theorem State.modCrew_tags (s : State) (c : Nat) (f : Crew → Crew) : (s.modCrew c f).tags = s.tags := rfl
@[simp] theorem State.modCrew_windows (s : State) (c : Nat) (f : Crew → Crew) : (s.modCrew c f).windows = s.windows := rfl
@[simp] theorem State.modCrew_handovers (s : State) (c : Nat) (f : Crew → Crew) : (s.modCrew c f).handovers = s.handovers := rfl
@[simp] theorem State.modCrew_rings (s : State) (c : Nat) (f : Crew → Crew) : (s.modCrew c f).rings = s.rings := rfl
@[simp] theorem State.modCrew_groups (s : State) (c : Nat) (f : Crew → Crew) : (s.modCrew c f).groups = s.groups := rfl
@[simp] theorem State.modCrew_reports (s : State) (c : Nat) (f : Crew → Crew) : (s.modCrew c f).reports = s.reports := rfl
@[simp] theorem State.modCrew_fabric (s : State) (c : Nat) (f : Crew → Crew) : (s.modCrew c f).fabric = s.fabric := rfl
@[simp] theorem State.modCrew_ise (s : State) (c : Nat) (f : Crew → Crew) : (s.modCrew c f).ise = s.ise := rfl
@[simp] theorem State.modCrew_suu (s : State) (c : Nat) (f : Crew → Crew) : (s.modCrew c f).suu = s.suu := rfl
@[simp] theorem State.modCrew_suuLines (s : State) (c : Nat) (f : Crew → Crew) : (s.modCrew c f).suuLines = s.suuLines := rfl
@[simp] theorem State.modCrew_sys (s : State) (c : Nat) (f : Crew → Crew) : (s.modCrew c f).sys = s.sys := rfl
@[simp] theorem State.modCrew_cp (s : State) (c : Nat) (f : Crew → Crew) : (s.modCrew c f).cp = s.cp := rfl

@[simp] theorem State.setStrandAt_time (s : State) (c k : Nat) (t : Strand) : (s.setStrandAt c k t).time = s.time := rfl
@[simp] theorem State.setStrandAt_moment (s : State) (c k : Nat) (t : Strand) : (s.setStrandAt c k t).moment = s.moment := rfl
@[simp] theorem State.setStrandAt_sched (s : State) (c k : Nat) (t : Strand) : (s.setStrandAt c k t).sched = s.sched := rfl
@[simp] theorem State.setStrandAt_cur (s : State) (c k : Nat) (t : Strand) : (s.setStrandAt c k t).cur = s.cur := rfl
@[simp] theorem State.setStrandAt_hbm (s : State) (c k : Nat) (t : Strand) : (s.setStrandAt c k t).hbm = s.hbm := rfl
@[simp] theorem State.setStrandAt_hbmPoison (s : State) (c k : Nat) (t : Strand) : (s.setStrandAt c k t).hbmPoison = s.hbmPoison := rfl
@[simp] theorem State.setStrandAt_host (s : State) (c k : Nat) (t : Strand) : (s.setStrandAt c k t).host = s.host := rfl
@[simp] theorem State.setStrandAt_hostPoison (s : State) (c k : Nat) (t : Strand) : (s.setStrandAt c k t).hostPoison = s.hostPoison := rfl
@[simp] theorem State.setStrandAt_lines (s : State) (c k : Nat) (t : Strand) : (s.setStrandAt c k t).lines = s.lines := rfl
@[simp] theorem State.setStrandAt_clusters (s : State) (c k : Nat) (t : Strand) : (s.setStrandAt c k t).clusters = s.clusters := rfl
@[simp] theorem State.setStrandAt_roots (s : State) (c k : Nat) (t : Strand) : (s.setStrandAt c k t).roots = s.roots := rfl
@[simp] theorem State.setStrandAt_tags (s : State) (c k : Nat) (t : Strand) : (s.setStrandAt c k t).tags = s.tags := rfl
@[simp] theorem State.setStrandAt_windows (s : State) (c k : Nat) (t : Strand) : (s.setStrandAt c k t).windows = s.windows := rfl
@[simp] theorem State.setStrandAt_handovers (s : State) (c k : Nat) (t : Strand) : (s.setStrandAt c k t).handovers = s.handovers := rfl
@[simp] theorem State.setStrandAt_rings (s : State) (c k : Nat) (t : Strand) : (s.setStrandAt c k t).rings = s.rings := rfl
@[simp] theorem State.setStrandAt_groups (s : State) (c k : Nat) (t : Strand) : (s.setStrandAt c k t).groups = s.groups := rfl
@[simp] theorem State.setStrandAt_reports (s : State) (c k : Nat) (t : Strand) : (s.setStrandAt c k t).reports = s.reports := rfl
@[simp] theorem State.setStrandAt_fabric (s : State) (c k : Nat) (t : Strand) : (s.setStrandAt c k t).fabric = s.fabric := rfl
@[simp] theorem State.setStrandAt_ise (s : State) (c k : Nat) (t : Strand) : (s.setStrandAt c k t).ise = s.ise := rfl
@[simp] theorem State.setStrandAt_suu (s : State) (c k : Nat) (t : Strand) : (s.setStrandAt c k t).suu = s.suu := rfl
@[simp] theorem State.setStrandAt_suuLines (s : State) (c k : Nat) (t : Strand) : (s.setStrandAt c k t).suuLines = s.suuLines := rfl
@[simp] theorem State.setStrandAt_sys (s : State) (c k : Nat) (t : Strand) : (s.setStrandAt c k t).sys = s.sys := rfl
@[simp] theorem State.setStrandAt_cp (s : State) (c k : Nat) (t : Strand) : (s.setStrandAt c k t).cp = s.cp := rfl

@[simp] theorem State.setMe_time (s : State) (t : Strand) : (s.setMe t).time = s.time := rfl
@[simp] theorem State.setMe_moment (s : State) (t : Strand) : (s.setMe t).moment = s.moment := rfl
@[simp] theorem State.setMe_sched (s : State) (t : Strand) : (s.setMe t).sched = s.sched := rfl
@[simp] theorem State.setMe_cur (s : State) (t : Strand) : (s.setMe t).cur = s.cur := rfl
@[simp] theorem State.setMe_hbm (s : State) (t : Strand) : (s.setMe t).hbm = s.hbm := rfl
@[simp] theorem State.setMe_hbmPoison (s : State) (t : Strand) : (s.setMe t).hbmPoison = s.hbmPoison := rfl
@[simp] theorem State.setMe_host (s : State) (t : Strand) : (s.setMe t).host = s.host := rfl
@[simp] theorem State.setMe_hostPoison (s : State) (t : Strand) : (s.setMe t).hostPoison = s.hostPoison := rfl
@[simp] theorem State.setMe_lines (s : State) (t : Strand) : (s.setMe t).lines = s.lines := rfl
@[simp] theorem State.setMe_clusters (s : State) (t : Strand) : (s.setMe t).clusters = s.clusters := rfl
@[simp] theorem State.setMe_roots (s : State) (t : Strand) : (s.setMe t).roots = s.roots := rfl
@[simp] theorem State.setMe_tags (s : State) (t : Strand) : (s.setMe t).tags = s.tags := rfl
@[simp] theorem State.setMe_windows (s : State) (t : Strand) : (s.setMe t).windows = s.windows := rfl
@[simp] theorem State.setMe_handovers (s : State) (t : Strand) : (s.setMe t).handovers = s.handovers := rfl
@[simp] theorem State.setMe_rings (s : State) (t : Strand) : (s.setMe t).rings = s.rings := rfl
@[simp] theorem State.setMe_groups (s : State) (t : Strand) : (s.setMe t).groups = s.groups := rfl
@[simp] theorem State.setMe_reports (s : State) (t : Strand) : (s.setMe t).reports = s.reports := rfl
@[simp] theorem State.setMe_fabric (s : State) (t : Strand) : (s.setMe t).fabric = s.fabric := rfl
@[simp] theorem State.setMe_ise (s : State) (t : Strand) : (s.setMe t).ise = s.ise := rfl
@[simp] theorem State.setMe_suu (s : State) (t : Strand) : (s.setMe t).suu = s.suu := rfl
@[simp] theorem State.setMe_suuLines (s : State) (t : Strand) : (s.setMe t).suuLines = s.suuLines := rfl
@[simp] theorem State.setMe_sys (s : State) (t : Strand) : (s.setMe t).sys = s.sys := rfl
@[simp] theorem State.setMe_cp (s : State) (t : Strand) : (s.setMe t).cp = s.cp := rfl

@[simp] theorem State.setMine_time (s : State) (w : Crew) : (s.setMine w).time = s.time := rfl
@[simp] theorem State.setMine_moment (s : State) (w : Crew) : (s.setMine w).moment = s.moment := rfl
@[simp] theorem State.setMine_sched (s : State) (w : Crew) : (s.setMine w).sched = s.sched := rfl
@[simp] theorem State.setMine_cur (s : State) (w : Crew) : (s.setMine w).cur = s.cur := rfl
@[simp] theorem State.setMine_hbm (s : State) (w : Crew) : (s.setMine w).hbm = s.hbm := rfl
@[simp] theorem State.setMine_hbmPoison (s : State) (w : Crew) : (s.setMine w).hbmPoison = s.hbmPoison := rfl
@[simp] theorem State.setMine_host (s : State) (w : Crew) : (s.setMine w).host = s.host := rfl
@[simp] theorem State.setMine_hostPoison (s : State) (w : Crew) : (s.setMine w).hostPoison = s.hostPoison := rfl
@[simp] theorem State.setMine_lines (s : State) (w : Crew) : (s.setMine w).lines = s.lines := rfl
@[simp] theorem State.setMine_clusters (s : State) (w : Crew) : (s.setMine w).clusters = s.clusters := rfl
@[simp] theorem State.setMine_roots (s : State) (w : Crew) : (s.setMine w).roots = s.roots := rfl
@[simp] theorem State.setMine_tags (s : State) (w : Crew) : (s.setMine w).tags = s.tags := rfl
@[simp] theorem State.setMine_windows (s : State) (w : Crew) : (s.setMine w).windows = s.windows := rfl
@[simp] theorem State.setMine_handovers (s : State) (w : Crew) : (s.setMine w).handovers = s.handovers := rfl
@[simp] theorem State.setMine_rings (s : State) (w : Crew) : (s.setMine w).rings = s.rings := rfl
@[simp] theorem State.setMine_groups (s : State) (w : Crew) : (s.setMine w).groups = s.groups := rfl
@[simp] theorem State.setMine_reports (s : State) (w : Crew) : (s.setMine w).reports = s.reports := rfl
@[simp] theorem State.setMine_fabric (s : State) (w : Crew) : (s.setMine w).fabric = s.fabric := rfl
@[simp] theorem State.setMine_ise (s : State) (w : Crew) : (s.setMine w).ise = s.ise := rfl
@[simp] theorem State.setMine_suu (s : State) (w : Crew) : (s.setMine w).suu = s.suu := rfl
@[simp] theorem State.setMine_suuLines (s : State) (w : Crew) : (s.setMine w).suuLines = s.suuLines := rfl
@[simp] theorem State.setMine_sys (s : State) (w : Crew) : (s.setMine w).sys = s.sys := rfl
@[simp] theorem State.setMine_cp (s : State) (w : Crew) : (s.setMine w).cp = s.cp := rfl

@[simp] theorem State.complete_time (s : State) (n : Nat) : (s.complete n).time = s.time := rfl
@[simp] theorem State.complete_moment (s : State) (n : Nat) : (s.complete n).moment = s.moment := rfl
@[simp] theorem State.complete_sched (s : State) (n : Nat) : (s.complete n).sched = s.sched := rfl
@[simp] theorem State.complete_cur (s : State) (n : Nat) : (s.complete n).cur = s.cur := rfl
@[simp] theorem State.complete_hbm (s : State) (n : Nat) : (s.complete n).hbm = s.hbm := rfl
@[simp] theorem State.complete_hbmPoison (s : State) (n : Nat) : (s.complete n).hbmPoison = s.hbmPoison := rfl
@[simp] theorem State.complete_host (s : State) (n : Nat) : (s.complete n).host = s.host := rfl
@[simp] theorem State.complete_hostPoison (s : State) (n : Nat) : (s.complete n).hostPoison = s.hostPoison := rfl
@[simp] theorem State.complete_lines (s : State) (n : Nat) : (s.complete n).lines = s.lines := rfl
@[simp] theorem State.complete_clusters (s : State) (n : Nat) : (s.complete n).clusters = s.clusters := rfl
@[simp] theorem State.complete_roots (s : State) (n : Nat) : (s.complete n).roots = s.roots := rfl
@[simp] theorem State.complete_tags (s : State) (n : Nat) : (s.complete n).tags = s.tags := rfl
@[simp] theorem State.complete_windows (s : State) (n : Nat) : (s.complete n).windows = s.windows := rfl
@[simp] theorem State.complete_handovers (s : State) (n : Nat) : (s.complete n).handovers = s.handovers := rfl
@[simp] theorem State.complete_rings (s : State) (n : Nat) : (s.complete n).rings = s.rings := rfl
@[simp] theorem State.complete_groups (s : State) (n : Nat) : (s.complete n).groups = s.groups := rfl
@[simp] theorem State.complete_reports (s : State) (n : Nat) : (s.complete n).reports = s.reports := rfl
@[simp] theorem State.complete_fabric (s : State) (n : Nat) : (s.complete n).fabric = s.fabric := rfl
@[simp] theorem State.complete_ise (s : State) (n : Nat) : (s.complete n).ise = s.ise := rfl
@[simp] theorem State.complete_suu (s : State) (n : Nat) : (s.complete n).suu = s.suu := rfl
@[simp] theorem State.complete_suuLines (s : State) (n : Nat) : (s.complete n).suuLines = s.suuLines := rfl
@[simp] theorem State.complete_sys (s : State) (n : Nat) : (s.complete n).sys = s.sys := rfl
@[simp] theorem State.complete_cp (s : State) (n : Nat) : (s.complete n).cp = s.cp := rfl

@[simp] theorem State.setCluster_time (s : State) (c : Nat) (k : Cluster) : (s.setCluster c k).time = s.time := rfl
@[simp] theorem State.setCluster_moment (s : State) (c : Nat) (k : Cluster) : (s.setCluster c k).moment = s.moment := rfl
@[simp] theorem State.setCluster_sched (s : State) (c : Nat) (k : Cluster) : (s.setCluster c k).sched = s.sched := rfl
@[simp] theorem State.setCluster_cur (s : State) (c : Nat) (k : Cluster) : (s.setCluster c k).cur = s.cur := rfl
@[simp] theorem State.setCluster_hbm (s : State) (c : Nat) (k : Cluster) : (s.setCluster c k).hbm = s.hbm := rfl
@[simp] theorem State.setCluster_hbmPoison (s : State) (c : Nat) (k : Cluster) : (s.setCluster c k).hbmPoison = s.hbmPoison := rfl
@[simp] theorem State.setCluster_host (s : State) (c : Nat) (k : Cluster) : (s.setCluster c k).host = s.host := rfl
@[simp] theorem State.setCluster_hostPoison (s : State) (c : Nat) (k : Cluster) : (s.setCluster c k).hostPoison = s.hostPoison := rfl
@[simp] theorem State.setCluster_lines (s : State) (c : Nat) (k : Cluster) : (s.setCluster c k).lines = s.lines := rfl
@[simp] theorem State.setCluster_roots (s : State) (c : Nat) (k : Cluster) : (s.setCluster c k).roots = s.roots := rfl
@[simp] theorem State.setCluster_tags (s : State) (c : Nat) (k : Cluster) : (s.setCluster c k).tags = s.tags := rfl
@[simp] theorem State.setCluster_windows (s : State) (c : Nat) (k : Cluster) : (s.setCluster c k).windows = s.windows := rfl
@[simp] theorem State.setCluster_handovers (s : State) (c : Nat) (k : Cluster) : (s.setCluster c k).handovers = s.handovers := rfl
@[simp] theorem State.setCluster_rings (s : State) (c : Nat) (k : Cluster) : (s.setCluster c k).rings = s.rings := rfl
@[simp] theorem State.setCluster_groups (s : State) (c : Nat) (k : Cluster) : (s.setCluster c k).groups = s.groups := rfl
@[simp] theorem State.setCluster_reports (s : State) (c : Nat) (k : Cluster) : (s.setCluster c k).reports = s.reports := rfl
@[simp] theorem State.setCluster_fabric (s : State) (c : Nat) (k : Cluster) : (s.setCluster c k).fabric = s.fabric := rfl
@[simp] theorem State.setCluster_cores (s : State) (c : Nat) (k : Cluster) : (s.setCluster c k).cores = s.cores := rfl
@[simp] theorem State.setCluster_ise (s : State) (c : Nat) (k : Cluster) : (s.setCluster c k).ise = s.ise := rfl
@[simp] theorem State.setCluster_suu (s : State) (c : Nat) (k : Cluster) : (s.setCluster c k).suu = s.suu := rfl
@[simp] theorem State.setCluster_suuLines (s : State) (c : Nat) (k : Cluster) : (s.setCluster c k).suuLines = s.suuLines := rfl
@[simp] theorem State.setCluster_sys (s : State) (c : Nat) (k : Cluster) : (s.setCluster c k).sys = s.sys := rfl
@[simp] theorem State.setCluster_cp (s : State) (c : Nat) (k : Cluster) : (s.setCluster c k).cp = s.cp := rfl

@[simp] theorem State.setFlow_time (s : State) (d c : Nat) (f : FlowOut) : (s.setFlow d c f).time = s.time := rfl
@[simp] theorem State.setFlow_moment (s : State) (d c : Nat) (f : FlowOut) : (s.setFlow d c f).moment = s.moment := rfl
@[simp] theorem State.setFlow_sched (s : State) (d c : Nat) (f : FlowOut) : (s.setFlow d c f).sched = s.sched := rfl
@[simp] theorem State.setFlow_cur (s : State) (d c : Nat) (f : FlowOut) : (s.setFlow d c f).cur = s.cur := rfl
@[simp] theorem State.setFlow_hbm (s : State) (d c : Nat) (f : FlowOut) : (s.setFlow d c f).hbm = s.hbm := rfl
@[simp] theorem State.setFlow_hbmPoison (s : State) (d c : Nat) (f : FlowOut) : (s.setFlow d c f).hbmPoison = s.hbmPoison := rfl
@[simp] theorem State.setFlow_host (s : State) (d c : Nat) (f : FlowOut) : (s.setFlow d c f).host = s.host := rfl
@[simp] theorem State.setFlow_hostPoison (s : State) (d c : Nat) (f : FlowOut) : (s.setFlow d c f).hostPoison = s.hostPoison := rfl
@[simp] theorem State.setFlow_lines (s : State) (d c : Nat) (f : FlowOut) : (s.setFlow d c f).lines = s.lines := rfl
@[simp] theorem State.setFlow_clusters (s : State) (d c : Nat) (f : FlowOut) : (s.setFlow d c f).clusters = s.clusters := rfl
@[simp] theorem State.setFlow_roots (s : State) (d c : Nat) (f : FlowOut) : (s.setFlow d c f).roots = s.roots := rfl
@[simp] theorem State.setFlow_tags (s : State) (d c : Nat) (f : FlowOut) : (s.setFlow d c f).tags = s.tags := rfl
@[simp] theorem State.setFlow_windows (s : State) (d c : Nat) (f : FlowOut) : (s.setFlow d c f).windows = s.windows := rfl
@[simp] theorem State.setFlow_handovers (s : State) (d c : Nat) (f : FlowOut) : (s.setFlow d c f).handovers = s.handovers := rfl
@[simp] theorem State.setFlow_rings (s : State) (d c : Nat) (f : FlowOut) : (s.setFlow d c f).rings = s.rings := rfl
@[simp] theorem State.setFlow_groups (s : State) (d c : Nat) (f : FlowOut) : (s.setFlow d c f).groups = s.groups := rfl
@[simp] theorem State.setFlow_reports (s : State) (d c : Nat) (f : FlowOut) : (s.setFlow d c f).reports = s.reports := rfl
@[simp] theorem State.setFlow_cores (s : State) (d c : Nat) (f : FlowOut) : (s.setFlow d c f).cores = s.cores := rfl
@[simp] theorem State.setFlow_ise (s : State) (d c : Nat) (f : FlowOut) : (s.setFlow d c f).ise = s.ise := rfl
@[simp] theorem State.setFlow_suu (s : State) (d c : Nat) (f : FlowOut) : (s.setFlow d c f).suu = s.suu := rfl
@[simp] theorem State.setFlow_suuLines (s : State) (d c : Nat) (f : FlowOut) : (s.setFlow d c f).suuLines = s.suuLines := rfl
@[simp] theorem State.setFlow_sys (s : State) (d c : Nat) (f : FlowOut) : (s.setFlow d c f).sys = s.sys := rfl
@[simp] theorem State.setFlow_cp (s : State) (d c : Nat) (f : FlowOut) : (s.setFlow d c f).cp = s.cp := rfl

@[simp] theorem State.send_time (s : State) (d c op a : Nat) (x : List Nat) (p : List Byte) (q i : Nat) : (s.send d c op a x p q i).time = s.time := rfl
@[simp] theorem State.send_moment (s : State) (d c op a : Nat) (x : List Nat) (p : List Byte) (q i : Nat) : (s.send d c op a x p q i).moment = s.moment := rfl
@[simp] theorem State.send_sched (s : State) (d c op a : Nat) (x : List Nat) (p : List Byte) (q i : Nat) : (s.send d c op a x p q i).sched = s.sched := rfl
@[simp] theorem State.send_cur (s : State) (d c op a : Nat) (x : List Nat) (p : List Byte) (q i : Nat) : (s.send d c op a x p q i).cur = s.cur := rfl
@[simp] theorem State.send_hbm (s : State) (d c op a : Nat) (x : List Nat) (p : List Byte) (q i : Nat) : (s.send d c op a x p q i).hbm = s.hbm := rfl
@[simp] theorem State.send_hbmPoison (s : State) (d c op a : Nat) (x : List Nat) (p : List Byte) (q i : Nat) : (s.send d c op a x p q i).hbmPoison = s.hbmPoison := rfl
@[simp] theorem State.send_host (s : State) (d c op a : Nat) (x : List Nat) (p : List Byte) (q i : Nat) : (s.send d c op a x p q i).host = s.host := rfl
@[simp] theorem State.send_hostPoison (s : State) (d c op a : Nat) (x : List Nat) (p : List Byte) (q i : Nat) : (s.send d c op a x p q i).hostPoison = s.hostPoison := rfl
@[simp] theorem State.send_lines (s : State) (d c op a : Nat) (x : List Nat) (p : List Byte) (q i : Nat) : (s.send d c op a x p q i).lines = s.lines := rfl
@[simp] theorem State.send_clusters (s : State) (d c op a : Nat) (x : List Nat) (p : List Byte) (q i : Nat) : (s.send d c op a x p q i).clusters = s.clusters := rfl
@[simp] theorem State.send_roots (s : State) (d c op a : Nat) (x : List Nat) (p : List Byte) (q i : Nat) : (s.send d c op a x p q i).roots = s.roots := rfl
@[simp] theorem State.send_tags (s : State) (d c op a : Nat) (x : List Nat) (p : List Byte) (q i : Nat) : (s.send d c op a x p q i).tags = s.tags := rfl
@[simp] theorem State.send_windows (s : State) (d c op a : Nat) (x : List Nat) (p : List Byte) (q i : Nat) : (s.send d c op a x p q i).windows = s.windows := rfl
@[simp] theorem State.send_handovers (s : State) (d c op a : Nat) (x : List Nat) (p : List Byte) (q i : Nat) : (s.send d c op a x p q i).handovers = s.handovers := rfl
@[simp] theorem State.send_rings (s : State) (d c op a : Nat) (x : List Nat) (p : List Byte) (q i : Nat) : (s.send d c op a x p q i).rings = s.rings := rfl
@[simp] theorem State.send_groups (s : State) (d c op a : Nat) (x : List Nat) (p : List Byte) (q i : Nat) : (s.send d c op a x p q i).groups = s.groups := rfl
@[simp] theorem State.send_reports (s : State) (d c op a : Nat) (x : List Nat) (p : List Byte) (q i : Nat) : (s.send d c op a x p q i).reports = s.reports := rfl
@[simp] theorem State.send_cores (s : State) (d c op a : Nat) (x : List Nat) (p : List Byte) (q i : Nat) : (s.send d c op a x p q i).cores = s.cores := rfl
@[simp] theorem State.send_ise (s : State) (d c op a : Nat) (x : List Nat) (p : List Byte) (q i : Nat) : (s.send d c op a x p q i).ise = s.ise := rfl
@[simp] theorem State.send_suu (s : State) (d c op a : Nat) (x : List Nat) (p : List Byte) (q i : Nat) : (s.send d c op a x p q i).suu = s.suu := rfl
@[simp] theorem State.send_suuLines (s : State) (d c op a : Nat) (x : List Nat) (p : List Byte) (q i : Nat) : (s.send d c op a x p q i).suuLines = s.suuLines := rfl
@[simp] theorem State.send_sys (s : State) (d c op a : Nat) (x : List Nat) (p : List Byte) (q i : Nat) : (s.send d c op a x p q i).sys = s.sys := rfl
@[simp] theorem State.send_cp (s : State) (d c op a : Nat) (x : List Nat) (p : List Byte) (q i : Nat) : (s.send d c op a x p q i).cp = s.cp := rfl

@[simp] theorem State.reply_time (s : State) (p : Packet) : (s.reply p).time = s.time := rfl
@[simp] theorem State.reply_moment (s : State) (p : Packet) : (s.reply p).moment = s.moment := rfl
@[simp] theorem State.reply_sched (s : State) (p : Packet) : (s.reply p).sched = s.sched := rfl
@[simp] theorem State.reply_cur (s : State) (p : Packet) : (s.reply p).cur = s.cur := rfl
@[simp] theorem State.reply_hbm (s : State) (p : Packet) : (s.reply p).hbm = s.hbm := rfl
@[simp] theorem State.reply_hbmPoison (s : State) (p : Packet) : (s.reply p).hbmPoison = s.hbmPoison := rfl
@[simp] theorem State.reply_host (s : State) (p : Packet) : (s.reply p).host = s.host := rfl
@[simp] theorem State.reply_hostPoison (s : State) (p : Packet) : (s.reply p).hostPoison = s.hostPoison := rfl
@[simp] theorem State.reply_lines (s : State) (p : Packet) : (s.reply p).lines = s.lines := rfl
@[simp] theorem State.reply_clusters (s : State) (p : Packet) : (s.reply p).clusters = s.clusters := rfl
@[simp] theorem State.reply_roots (s : State) (p : Packet) : (s.reply p).roots = s.roots := rfl
@[simp] theorem State.reply_tags (s : State) (p : Packet) : (s.reply p).tags = s.tags := rfl
@[simp] theorem State.reply_windows (s : State) (p : Packet) : (s.reply p).windows = s.windows := rfl
@[simp] theorem State.reply_handovers (s : State) (p : Packet) : (s.reply p).handovers = s.handovers := rfl
@[simp] theorem State.reply_rings (s : State) (p : Packet) : (s.reply p).rings = s.rings := rfl
@[simp] theorem State.reply_groups (s : State) (p : Packet) : (s.reply p).groups = s.groups := rfl
@[simp] theorem State.reply_reports (s : State) (p : Packet) : (s.reply p).reports = s.reports := rfl
@[simp] theorem State.reply_cores (s : State) (p : Packet) : (s.reply p).cores = s.cores := rfl
@[simp] theorem State.reply_ise (s : State) (p : Packet) : (s.reply p).ise = s.ise := rfl
@[simp] theorem State.reply_suu (s : State) (p : Packet) : (s.reply p).suu = s.suu := rfl
@[simp] theorem State.reply_suuLines (s : State) (p : Packet) : (s.reply p).suuLines = s.suuLines := rfl
@[simp] theorem State.reply_sys (s : State) (p : Packet) : (s.reply p).sys = s.sys := rfl
@[simp] theorem State.reply_cp (s : State) (p : Packet) : (s.reply p).cp = s.cp := rfl

/-! ### A crew and a strand -/

@[simp] theorem Crew.setStrand_info (w : Crew) (k : Nat) (t : Strand) : (w.setStrand k t).info = w.info := rfl
@[simp] theorem Crew.setStrand_lastIssued (w : Crew) (k : Nat) (t : Strand) : (w.setStrand k t).lastIssued = w.lastIssued := rfl
@[simp] theorem Crew.setStrand_yielded (w : Crew) (k : Nat) (t : Strand) : (w.setStrand k t).yielded = w.yielded := rfl
@[simp] theorem Crew.setStrand_sems (w : Crew) (k : Nat) (t : Strand) : (w.setStrand k t).sems = w.sems := rfl
@[simp] theorem Crew.setStrand_semMoves (w : Crew) (k : Nat) (t : Strand) : (w.setStrand k t).semMoves = w.semMoves := rfl
@[simp] theorem Crew.setStrand_semsat (w : Crew) (k : Nat) (t : Strand) : (w.setStrand k t).semsat = w.semsat := rfl
@[simp] theorem Crew.setStrand_errtok (w : Crew) (k : Nat) (t : Strand) : (w.setStrand k t).errtok = w.errtok := rfl
@[simp] theorem Crew.setStrand_pftime (w : Crew) (k : Nat) (t : Strand) : (w.setStrand k t).pftime = w.pftime := rfl
@[simp] theorem Crew.setStrand_snaptime (w : Crew) (k : Nat) (t : Strand) : (w.setStrand k t).snaptime = w.snaptime := rfl
@[simp] theorem Crew.setStrand_spilled (w : Crew) (k : Nat) (t : Strand) : (w.setStrand k t).spilled = w.spilled := rfl
@[simp] theorem Crew.setStrand_ras (w : Crew) (k : Nat) (t : Strand) : (w.setStrand k t).ras = w.ras := rfl
@[simp] theorem Crew.setStrand_replay (w : Crew) (k : Nat) (t : Strand) : (w.setStrand k t).replay = w.replay := rfl
@[simp] theorem Crew.setStrand_cycle (w : Crew) (k : Nat) (t : Strand) : (w.setStrand k t).cycle = w.cycle := rfl
@[simp] theorem Crew.setStrand_cyclePart (w : Crew) (k : Nat) (t : Strand) : (w.setStrand k t).cyclePart = w.cyclePart := rfl
@[simp] theorem Crew.setStrand_cycleAt (w : Crew) (k : Nat) (t : Strand) : (w.setStrand k t).cycleAt = w.cycleAt := rfl
@[simp] theorem Crew.setStrand_issuedCc (w : Crew) (k : Nat) (t : Strand) : (w.setStrand k t).issuedCc = w.issuedCc := rfl
@[simp] theorem Crew.setStrand_progress (w : Crew) (k : Nat) (t : Strand) : (w.setStrand k t).progress = w.progress := rfl
@[simp] theorem Crew.setStrand_progressCycle (w : Crew) (k : Nat) (t : Strand) : (w.setStrand k t).progressCycle = w.progressCycle := rfl
@[simp] theorem Crew.setStrand_pool (w : Crew) (k : Nat) (t : Strand) : (w.setStrand k t).pool = w.pool := rfl
@[simp] theorem Crew.setStrand_poolPoison (w : Crew) (k : Nat) (t : Strand) : (w.setStrand k t).poolPoison = w.poolPoison := rfl
@[simp] theorem Crew.setStrand_units (w : Crew) (k : Nat) (t : Strand) : (w.setStrand k t).units = w.units := rfl
@[simp] theorem Crew.setStrand_framed (w : Crew) (k : Nat) (t : Strand) : (w.setStrand k t).framed = w.framed := rfl
@[simp] theorem Crew.setStrand_entries (w : Crew) (k : Nat) (t : Strand) : (w.setStrand k t).entries = w.entries := rfl
@[simp] theorem Crew.setStrand_maps (w : Crew) (k : Nat) (t : Strand) : (w.setStrand k t).maps = w.maps := rfl
@[simp] theorem Crew.setStrand_chans (w : Crew) (k : Nat) (t : Strand) : (w.setStrand k t).chans = w.chans := rfl
@[simp] theorem Crew.setStrand_graph (w : Crew) (k : Nat) (t : Strand) : (w.setStrand k t).graph = w.graph := rfl
@[simp] theorem Crew.setStrand_now (w : Crew) (k : Nat) (t : Strand) : (w.setStrand k t).now = w.now := rfl
@[simp] theorem Crew.setStrand_coming (w : Crew) (k : Nat) (t : Strand) : (w.setStrand k t).coming = w.coming := rfl
@[simp] theorem Crew.setStrand_streams (w : Crew) (k : Nat) (t : Strand) : (w.setStrand k t).streams = w.streams := rfl
@[simp] theorem Crew.setStrand_array (w : Crew) (k : Nat) (t : Strand) : (w.setStrand k t).array = w.array := rfl
@[simp] theorem Crew.setStrand_elems (w : Crew) (k : Nat) (t : Strand) : (w.setStrand k t).elems = w.elems := rfl
@[simp] theorem Crew.setStrand_veq (w : Crew) (k : Nat) (t : Strand) : (w.setStrand k t).veq = w.veq := rfl
@[simp] theorem Crew.setStrand_nxq (w : Crew) (k : Nat) (t : Strand) : (w.setStrand k t).nxq = w.nxq := rfl
@[simp] theorem Crew.setStrand_nxSeq (w : Crew) (k : Nat) (t : Strand) : (w.setStrand k t).nxSeq = w.nxSeq := rfl
@[simp] theorem Crew.setStrand_nx (w : Crew) (k : Nat) (t : Strand) : (w.setStrand k t).nx = w.nx := rfl
@[simp] theorem Crew.setStrand_endpoints (w : Crew) (k : Nat) (t : Strand) : (w.setStrand k t).endpoints = w.endpoints := rfl
@[simp] theorem Crew.setStrand_puu (w : Crew) (k : Nat) (t : Strand) : (w.setStrand k t).puu = w.puu := rfl
@[simp] theorem Crew.setStrand_ending (w : Crew) (k : Nat) (t : Strand) : (w.setStrand k t).ending = w.ending := rfl
@[simp] theorem Crew.setStrand_saving (w : Crew) (k : Nat) (t : Strand) : (w.setStrand k t).saving = w.saving := rfl
@[simp] theorem Crew.setStrand_reported (w : Crew) (k : Nat) (t : Strand) : (w.setStrand k t).reported = w.reported := rfl

@[simp] theorem Crew.setElem_info (w : Crew) (e : Nat) (x : Element) : (w.setElem e x).info = w.info := rfl
@[simp] theorem Crew.setElem_strands (w : Crew) (e : Nat) (x : Element) : (w.setElem e x).strands = w.strands := rfl
@[simp] theorem Crew.setElem_lastIssued (w : Crew) (e : Nat) (x : Element) : (w.setElem e x).lastIssued = w.lastIssued := rfl
@[simp] theorem Crew.setElem_yielded (w : Crew) (e : Nat) (x : Element) : (w.setElem e x).yielded = w.yielded := rfl
@[simp] theorem Crew.setElem_sems (w : Crew) (e : Nat) (x : Element) : (w.setElem e x).sems = w.sems := rfl
@[simp] theorem Crew.setElem_semMoves (w : Crew) (e : Nat) (x : Element) : (w.setElem e x).semMoves = w.semMoves := rfl
@[simp] theorem Crew.setElem_semsat (w : Crew) (e : Nat) (x : Element) : (w.setElem e x).semsat = w.semsat := rfl
@[simp] theorem Crew.setElem_errtok (w : Crew) (e : Nat) (x : Element) : (w.setElem e x).errtok = w.errtok := rfl
@[simp] theorem Crew.setElem_pftime (w : Crew) (e : Nat) (x : Element) : (w.setElem e x).pftime = w.pftime := rfl
@[simp] theorem Crew.setElem_snaptime (w : Crew) (e : Nat) (x : Element) : (w.setElem e x).snaptime = w.snaptime := rfl
@[simp] theorem Crew.setElem_spilled (w : Crew) (e : Nat) (x : Element) : (w.setElem e x).spilled = w.spilled := rfl
@[simp] theorem Crew.setElem_ras (w : Crew) (e : Nat) (x : Element) : (w.setElem e x).ras = w.ras := rfl
@[simp] theorem Crew.setElem_replay (w : Crew) (e : Nat) (x : Element) : (w.setElem e x).replay = w.replay := rfl
@[simp] theorem Crew.setElem_cycle (w : Crew) (e : Nat) (x : Element) : (w.setElem e x).cycle = w.cycle := rfl
@[simp] theorem Crew.setElem_cyclePart (w : Crew) (e : Nat) (x : Element) : (w.setElem e x).cyclePart = w.cyclePart := rfl
@[simp] theorem Crew.setElem_cycleAt (w : Crew) (e : Nat) (x : Element) : (w.setElem e x).cycleAt = w.cycleAt := rfl
@[simp] theorem Crew.setElem_issuedCc (w : Crew) (e : Nat) (x : Element) : (w.setElem e x).issuedCc = w.issuedCc := rfl
@[simp] theorem Crew.setElem_progress (w : Crew) (e : Nat) (x : Element) : (w.setElem e x).progress = w.progress := rfl
@[simp] theorem Crew.setElem_progressCycle (w : Crew) (e : Nat) (x : Element) : (w.setElem e x).progressCycle = w.progressCycle := rfl
@[simp] theorem Crew.setElem_pool (w : Crew) (e : Nat) (x : Element) : (w.setElem e x).pool = w.pool := rfl
@[simp] theorem Crew.setElem_poolPoison (w : Crew) (e : Nat) (x : Element) : (w.setElem e x).poolPoison = w.poolPoison := rfl
@[simp] theorem Crew.setElem_units (w : Crew) (e : Nat) (x : Element) : (w.setElem e x).units = w.units := rfl
@[simp] theorem Crew.setElem_framed (w : Crew) (e : Nat) (x : Element) : (w.setElem e x).framed = w.framed := rfl
@[simp] theorem Crew.setElem_entries (w : Crew) (e : Nat) (x : Element) : (w.setElem e x).entries = w.entries := rfl
@[simp] theorem Crew.setElem_maps (w : Crew) (e : Nat) (x : Element) : (w.setElem e x).maps = w.maps := rfl
@[simp] theorem Crew.setElem_chans (w : Crew) (e : Nat) (x : Element) : (w.setElem e x).chans = w.chans := rfl
@[simp] theorem Crew.setElem_graph (w : Crew) (e : Nat) (x : Element) : (w.setElem e x).graph = w.graph := rfl
@[simp] theorem Crew.setElem_now (w : Crew) (e : Nat) (x : Element) : (w.setElem e x).now = w.now := rfl
@[simp] theorem Crew.setElem_coming (w : Crew) (e : Nat) (x : Element) : (w.setElem e x).coming = w.coming := rfl
@[simp] theorem Crew.setElem_streams (w : Crew) (e : Nat) (x : Element) : (w.setElem e x).streams = w.streams := rfl
@[simp] theorem Crew.setElem_array (w : Crew) (e : Nat) (x : Element) : (w.setElem e x).array = w.array := rfl
@[simp] theorem Crew.setElem_veq (w : Crew) (e : Nat) (x : Element) : (w.setElem e x).veq = w.veq := rfl
@[simp] theorem Crew.setElem_nxq (w : Crew) (e : Nat) (x : Element) : (w.setElem e x).nxq = w.nxq := rfl
@[simp] theorem Crew.setElem_nxSeq (w : Crew) (e : Nat) (x : Element) : (w.setElem e x).nxSeq = w.nxSeq := rfl
@[simp] theorem Crew.setElem_nx (w : Crew) (e : Nat) (x : Element) : (w.setElem e x).nx = w.nx := rfl
@[simp] theorem Crew.setElem_endpoints (w : Crew) (e : Nat) (x : Element) : (w.setElem e x).endpoints = w.endpoints := rfl
@[simp] theorem Crew.setElem_puu (w : Crew) (e : Nat) (x : Element) : (w.setElem e x).puu = w.puu := rfl
@[simp] theorem Crew.setElem_ending (w : Crew) (e : Nat) (x : Element) : (w.setElem e x).ending = w.ending := rfl
@[simp] theorem Crew.setElem_saving (w : Crew) (e : Nat) (x : Element) : (w.setElem e x).saving = w.saving := rfl
@[simp] theorem Crew.setElem_reported (w : Crew) (e : Nat) (x : Element) : (w.setElem e x).reported = w.reported := rfl

@[simp] theorem Crew.writeSpill_info (w : Crew) (v : Word) : (w.writeSpill v).info = w.info := rfl
@[simp] theorem Crew.writeSpill_strands (w : Crew) (v : Word) : (w.writeSpill v).strands = w.strands := rfl
@[simp] theorem Crew.writeSpill_lastIssued (w : Crew) (v : Word) : (w.writeSpill v).lastIssued = w.lastIssued := rfl
@[simp] theorem Crew.writeSpill_yielded (w : Crew) (v : Word) : (w.writeSpill v).yielded = w.yielded := rfl
@[simp] theorem Crew.writeSpill_sems (w : Crew) (v : Word) : (w.writeSpill v).sems = w.sems := rfl
@[simp] theorem Crew.writeSpill_semMoves (w : Crew) (v : Word) : (w.writeSpill v).semMoves = w.semMoves := rfl
@[simp] theorem Crew.writeSpill_semsat (w : Crew) (v : Word) : (w.writeSpill v).semsat = w.semsat := rfl
@[simp] theorem Crew.writeSpill_errtok (w : Crew) (v : Word) : (w.writeSpill v).errtok = w.errtok := rfl
@[simp] theorem Crew.writeSpill_pftime (w : Crew) (v : Word) : (w.writeSpill v).pftime = w.pftime := rfl
@[simp] theorem Crew.writeSpill_snaptime (w : Crew) (v : Word) : (w.writeSpill v).snaptime = w.snaptime := rfl
@[simp] theorem Crew.writeSpill_ras (w : Crew) (v : Word) : (w.writeSpill v).ras = w.ras := rfl
@[simp] theorem Crew.writeSpill_replay (w : Crew) (v : Word) : (w.writeSpill v).replay = w.replay := rfl
@[simp] theorem Crew.writeSpill_cycle (w : Crew) (v : Word) : (w.writeSpill v).cycle = w.cycle := rfl
@[simp] theorem Crew.writeSpill_cyclePart (w : Crew) (v : Word) : (w.writeSpill v).cyclePart = w.cyclePart := rfl
@[simp] theorem Crew.writeSpill_cycleAt (w : Crew) (v : Word) : (w.writeSpill v).cycleAt = w.cycleAt := rfl
@[simp] theorem Crew.writeSpill_issuedCc (w : Crew) (v : Word) : (w.writeSpill v).issuedCc = w.issuedCc := rfl
@[simp] theorem Crew.writeSpill_progress (w : Crew) (v : Word) : (w.writeSpill v).progress = w.progress := rfl
@[simp] theorem Crew.writeSpill_progressCycle (w : Crew) (v : Word) : (w.writeSpill v).progressCycle = w.progressCycle := rfl
@[simp] theorem Crew.writeSpill_pool (w : Crew) (v : Word) : (w.writeSpill v).pool = w.pool := rfl
@[simp] theorem Crew.writeSpill_poolPoison (w : Crew) (v : Word) : (w.writeSpill v).poolPoison = w.poolPoison := rfl
@[simp] theorem Crew.writeSpill_units (w : Crew) (v : Word) : (w.writeSpill v).units = w.units := rfl
@[simp] theorem Crew.writeSpill_framed (w : Crew) (v : Word) : (w.writeSpill v).framed = w.framed := rfl
@[simp] theorem Crew.writeSpill_entries (w : Crew) (v : Word) : (w.writeSpill v).entries = w.entries := rfl
@[simp] theorem Crew.writeSpill_maps (w : Crew) (v : Word) : (w.writeSpill v).maps = w.maps := rfl
@[simp] theorem Crew.writeSpill_chans (w : Crew) (v : Word) : (w.writeSpill v).chans = w.chans := rfl
@[simp] theorem Crew.writeSpill_graph (w : Crew) (v : Word) : (w.writeSpill v).graph = w.graph := rfl
@[simp] theorem Crew.writeSpill_now (w : Crew) (v : Word) : (w.writeSpill v).now = w.now := rfl
@[simp] theorem Crew.writeSpill_coming (w : Crew) (v : Word) : (w.writeSpill v).coming = w.coming := rfl
@[simp] theorem Crew.writeSpill_streams (w : Crew) (v : Word) : (w.writeSpill v).streams = w.streams := rfl
@[simp] theorem Crew.writeSpill_array (w : Crew) (v : Word) : (w.writeSpill v).array = w.array := rfl
@[simp] theorem Crew.writeSpill_elems (w : Crew) (v : Word) : (w.writeSpill v).elems = w.elems := rfl
@[simp] theorem Crew.writeSpill_veq (w : Crew) (v : Word) : (w.writeSpill v).veq = w.veq := rfl
@[simp] theorem Crew.writeSpill_nxq (w : Crew) (v : Word) : (w.writeSpill v).nxq = w.nxq := rfl
@[simp] theorem Crew.writeSpill_nxSeq (w : Crew) (v : Word) : (w.writeSpill v).nxSeq = w.nxSeq := rfl
@[simp] theorem Crew.writeSpill_nx (w : Crew) (v : Word) : (w.writeSpill v).nx = w.nx := rfl
@[simp] theorem Crew.writeSpill_endpoints (w : Crew) (v : Word) : (w.writeSpill v).endpoints = w.endpoints := rfl
@[simp] theorem Crew.writeSpill_puu (w : Crew) (v : Word) : (w.writeSpill v).puu = w.puu := rfl
@[simp] theorem Crew.writeSpill_ending (w : Crew) (v : Word) : (w.writeSpill v).ending = w.ending := rfl
@[simp] theorem Crew.writeSpill_saving (w : Crew) (v : Word) : (w.writeSpill v).saving = w.saving := rfl
@[simp] theorem Crew.writeSpill_reported (w : Crew) (v : Word) : (w.writeSpill v).reported = w.reported := rfl

@[simp] theorem Crew.addRas_info (w : Crew) (r f : Nat) : (w.addRas r f).info = w.info := by unfold Crew.addRas; rfl
@[simp] theorem Crew.addRas_strands (w : Crew) (r f : Nat) : (w.addRas r f).strands = w.strands := by unfold Crew.addRas; rfl
@[simp] theorem Crew.addRas_lastIssued (w : Crew) (r f : Nat) : (w.addRas r f).lastIssued = w.lastIssued := by unfold Crew.addRas; rfl
@[simp] theorem Crew.addRas_yielded (w : Crew) (r f : Nat) : (w.addRas r f).yielded = w.yielded := by unfold Crew.addRas; rfl
@[simp] theorem Crew.addRas_sems (w : Crew) (r f : Nat) : (w.addRas r f).sems = w.sems := by unfold Crew.addRas; rfl
@[simp] theorem Crew.addRas_semMoves (w : Crew) (r f : Nat) : (w.addRas r f).semMoves = w.semMoves := by unfold Crew.addRas; rfl
@[simp] theorem Crew.addRas_semsat (w : Crew) (r f : Nat) : (w.addRas r f).semsat = w.semsat := by unfold Crew.addRas; rfl
@[simp] theorem Crew.addRas_errtok (w : Crew) (r f : Nat) : (w.addRas r f).errtok = w.errtok := by unfold Crew.addRas; rfl
@[simp] theorem Crew.addRas_pftime (w : Crew) (r f : Nat) : (w.addRas r f).pftime = w.pftime := by unfold Crew.addRas; rfl
@[simp] theorem Crew.addRas_snaptime (w : Crew) (r f : Nat) : (w.addRas r f).snaptime = w.snaptime := by unfold Crew.addRas; rfl
@[simp] theorem Crew.addRas_spilled (w : Crew) (r f : Nat) : (w.addRas r f).spilled = w.spilled := by unfold Crew.addRas; rfl
@[simp] theorem Crew.addRas_replay (w : Crew) (r f : Nat) : (w.addRas r f).replay = w.replay := by unfold Crew.addRas; rfl
@[simp] theorem Crew.addRas_cycle (w : Crew) (r f : Nat) : (w.addRas r f).cycle = w.cycle := by unfold Crew.addRas; rfl
@[simp] theorem Crew.addRas_cyclePart (w : Crew) (r f : Nat) : (w.addRas r f).cyclePart = w.cyclePart := by unfold Crew.addRas; rfl
@[simp] theorem Crew.addRas_cycleAt (w : Crew) (r f : Nat) : (w.addRas r f).cycleAt = w.cycleAt := by unfold Crew.addRas; rfl
@[simp] theorem Crew.addRas_issuedCc (w : Crew) (r f : Nat) : (w.addRas r f).issuedCc = w.issuedCc := by unfold Crew.addRas; rfl
@[simp] theorem Crew.addRas_progress (w : Crew) (r f : Nat) : (w.addRas r f).progress = w.progress := by unfold Crew.addRas; rfl
@[simp] theorem Crew.addRas_progressCycle (w : Crew) (r f : Nat) : (w.addRas r f).progressCycle = w.progressCycle := by unfold Crew.addRas; rfl
@[simp] theorem Crew.addRas_pool (w : Crew) (r f : Nat) : (w.addRas r f).pool = w.pool := by unfold Crew.addRas; rfl
@[simp] theorem Crew.addRas_poolPoison (w : Crew) (r f : Nat) : (w.addRas r f).poolPoison = w.poolPoison := by unfold Crew.addRas; rfl
@[simp] theorem Crew.addRas_units (w : Crew) (r f : Nat) : (w.addRas r f).units = w.units := by unfold Crew.addRas; rfl
@[simp] theorem Crew.addRas_framed (w : Crew) (r f : Nat) : (w.addRas r f).framed = w.framed := by unfold Crew.addRas; rfl
@[simp] theorem Crew.addRas_entries (w : Crew) (r f : Nat) : (w.addRas r f).entries = w.entries := by unfold Crew.addRas; rfl
@[simp] theorem Crew.addRas_maps (w : Crew) (r f : Nat) : (w.addRas r f).maps = w.maps := by unfold Crew.addRas; rfl
@[simp] theorem Crew.addRas_chans (w : Crew) (r f : Nat) : (w.addRas r f).chans = w.chans := by unfold Crew.addRas; rfl
@[simp] theorem Crew.addRas_graph (w : Crew) (r f : Nat) : (w.addRas r f).graph = w.graph := by unfold Crew.addRas; rfl
@[simp] theorem Crew.addRas_now (w : Crew) (r f : Nat) : (w.addRas r f).now = w.now := by unfold Crew.addRas; rfl
@[simp] theorem Crew.addRas_coming (w : Crew) (r f : Nat) : (w.addRas r f).coming = w.coming := by unfold Crew.addRas; rfl
@[simp] theorem Crew.addRas_streams (w : Crew) (r f : Nat) : (w.addRas r f).streams = w.streams := by unfold Crew.addRas; rfl
@[simp] theorem Crew.addRas_array (w : Crew) (r f : Nat) : (w.addRas r f).array = w.array := by unfold Crew.addRas; rfl
@[simp] theorem Crew.addRas_elems (w : Crew) (r f : Nat) : (w.addRas r f).elems = w.elems := by unfold Crew.addRas; rfl
@[simp] theorem Crew.addRas_veq (w : Crew) (r f : Nat) : (w.addRas r f).veq = w.veq := by unfold Crew.addRas; rfl
@[simp] theorem Crew.addRas_nxq (w : Crew) (r f : Nat) : (w.addRas r f).nxq = w.nxq := by unfold Crew.addRas; rfl
@[simp] theorem Crew.addRas_nxSeq (w : Crew) (r f : Nat) : (w.addRas r f).nxSeq = w.nxSeq := by unfold Crew.addRas; rfl
@[simp] theorem Crew.addRas_nx (w : Crew) (r f : Nat) : (w.addRas r f).nx = w.nx := by unfold Crew.addRas; rfl
@[simp] theorem Crew.addRas_endpoints (w : Crew) (r f : Nat) : (w.addRas r f).endpoints = w.endpoints := by unfold Crew.addRas; rfl
@[simp] theorem Crew.addRas_puu (w : Crew) (r f : Nat) : (w.addRas r f).puu = w.puu := by unfold Crew.addRas; rfl
@[simp] theorem Crew.addRas_ending (w : Crew) (r f : Nat) : (w.addRas r f).ending = w.ending := by unfold Crew.addRas; rfl
@[simp] theorem Crew.addRas_saving (w : Crew) (r f : Nat) : (w.addRas r f).saving = w.saving := by unfold Crew.addRas; rfl
@[simp] theorem Crew.addRas_reported (w : Crew) (r f : Nat) : (w.addRas r f).reported = w.reported := by unfold Crew.addRas; rfl

@[simp] theorem Crew.countError_info (w : Crew) (n : Nat) : (w.countError n).info = w.info := by unfold Crew.countError; rfl
@[simp] theorem Crew.countError_strands (w : Crew) (n : Nat) : (w.countError n).strands = w.strands := by unfold Crew.countError; rfl
@[simp] theorem Crew.countError_lastIssued (w : Crew) (n : Nat) : (w.countError n).lastIssued = w.lastIssued := by unfold Crew.countError; rfl
@[simp] theorem Crew.countError_yielded (w : Crew) (n : Nat) : (w.countError n).yielded = w.yielded := by unfold Crew.countError; rfl
@[simp] theorem Crew.countError_sems (w : Crew) (n : Nat) : (w.countError n).sems = w.sems := by unfold Crew.countError; rfl
@[simp] theorem Crew.countError_semMoves (w : Crew) (n : Nat) : (w.countError n).semMoves = w.semMoves := by unfold Crew.countError; rfl
@[simp] theorem Crew.countError_semsat (w : Crew) (n : Nat) : (w.countError n).semsat = w.semsat := by unfold Crew.countError; rfl
@[simp] theorem Crew.countError_pftime (w : Crew) (n : Nat) : (w.countError n).pftime = w.pftime := by unfold Crew.countError; rfl
@[simp] theorem Crew.countError_snaptime (w : Crew) (n : Nat) : (w.countError n).snaptime = w.snaptime := by unfold Crew.countError; rfl
@[simp] theorem Crew.countError_spilled (w : Crew) (n : Nat) : (w.countError n).spilled = w.spilled := by unfold Crew.countError; rfl
@[simp] theorem Crew.countError_ras (w : Crew) (n : Nat) : (w.countError n).ras = w.ras := by unfold Crew.countError; rfl
@[simp] theorem Crew.countError_replay (w : Crew) (n : Nat) : (w.countError n).replay = w.replay := by unfold Crew.countError; rfl
@[simp] theorem Crew.countError_cycle (w : Crew) (n : Nat) : (w.countError n).cycle = w.cycle := by unfold Crew.countError; rfl
@[simp] theorem Crew.countError_cyclePart (w : Crew) (n : Nat) : (w.countError n).cyclePart = w.cyclePart := by unfold Crew.countError; rfl
@[simp] theorem Crew.countError_cycleAt (w : Crew) (n : Nat) : (w.countError n).cycleAt = w.cycleAt := by unfold Crew.countError; rfl
@[simp] theorem Crew.countError_issuedCc (w : Crew) (n : Nat) : (w.countError n).issuedCc = w.issuedCc := by unfold Crew.countError; rfl
@[simp] theorem Crew.countError_progress (w : Crew) (n : Nat) : (w.countError n).progress = w.progress := by unfold Crew.countError; rfl
@[simp] theorem Crew.countError_progressCycle (w : Crew) (n : Nat) : (w.countError n).progressCycle = w.progressCycle := by unfold Crew.countError; rfl
@[simp] theorem Crew.countError_pool (w : Crew) (n : Nat) : (w.countError n).pool = w.pool := by unfold Crew.countError; rfl
@[simp] theorem Crew.countError_poolPoison (w : Crew) (n : Nat) : (w.countError n).poolPoison = w.poolPoison := by unfold Crew.countError; rfl
@[simp] theorem Crew.countError_units (w : Crew) (n : Nat) : (w.countError n).units = w.units := by unfold Crew.countError; rfl
@[simp] theorem Crew.countError_framed (w : Crew) (n : Nat) : (w.countError n).framed = w.framed := by unfold Crew.countError; rfl
@[simp] theorem Crew.countError_entries (w : Crew) (n : Nat) : (w.countError n).entries = w.entries := by unfold Crew.countError; rfl
@[simp] theorem Crew.countError_maps (w : Crew) (n : Nat) : (w.countError n).maps = w.maps := by unfold Crew.countError; rfl
@[simp] theorem Crew.countError_chans (w : Crew) (n : Nat) : (w.countError n).chans = w.chans := by unfold Crew.countError; rfl
@[simp] theorem Crew.countError_graph (w : Crew) (n : Nat) : (w.countError n).graph = w.graph := by unfold Crew.countError; rfl
@[simp] theorem Crew.countError_now (w : Crew) (n : Nat) : (w.countError n).now = w.now := by unfold Crew.countError; rfl
@[simp] theorem Crew.countError_coming (w : Crew) (n : Nat) : (w.countError n).coming = w.coming := by unfold Crew.countError; rfl
@[simp] theorem Crew.countError_streams (w : Crew) (n : Nat) : (w.countError n).streams = w.streams := by unfold Crew.countError; rfl
@[simp] theorem Crew.countError_array (w : Crew) (n : Nat) : (w.countError n).array = w.array := by unfold Crew.countError; rfl
@[simp] theorem Crew.countError_elems (w : Crew) (n : Nat) : (w.countError n).elems = w.elems := by unfold Crew.countError; rfl
@[simp] theorem Crew.countError_veq (w : Crew) (n : Nat) : (w.countError n).veq = w.veq := by unfold Crew.countError; rfl
@[simp] theorem Crew.countError_nxq (w : Crew) (n : Nat) : (w.countError n).nxq = w.nxq := by unfold Crew.countError; rfl
@[simp] theorem Crew.countError_nxSeq (w : Crew) (n : Nat) : (w.countError n).nxSeq = w.nxSeq := by unfold Crew.countError; rfl
@[simp] theorem Crew.countError_nx (w : Crew) (n : Nat) : (w.countError n).nx = w.nx := by unfold Crew.countError; rfl
@[simp] theorem Crew.countError_endpoints (w : Crew) (n : Nat) : (w.countError n).endpoints = w.endpoints := by unfold Crew.countError; rfl
@[simp] theorem Crew.countError_puu (w : Crew) (n : Nat) : (w.countError n).puu = w.puu := by unfold Crew.countError; rfl
@[simp] theorem Crew.countError_ending (w : Crew) (n : Nat) : (w.countError n).ending = w.ending := by unfold Crew.countError; rfl
@[simp] theorem Crew.countError_saving (w : Crew) (n : Nat) : (w.countError n).saving = w.saving := by unfold Crew.countError; rfl
@[simp] theorem Crew.countError_reported (w : Crew) (n : Nat) : (w.countError n).reported = w.reported := by unfold Crew.countError; rfl

@[simp] theorem Crew.addSem_info (w : Crew) (i v : Nat) : (w.addSem i v).info = w.info := by simp only [Crew.addSem, apply_ite Crew.info, ite_self]
@[simp] theorem Crew.addSem_strands (w : Crew) (i v : Nat) : (w.addSem i v).strands = w.strands := by simp only [Crew.addSem, apply_ite Crew.strands, ite_self]
@[simp] theorem Crew.addSem_lastIssued (w : Crew) (i v : Nat) : (w.addSem i v).lastIssued = w.lastIssued := by simp only [Crew.addSem, apply_ite Crew.lastIssued, ite_self]
@[simp] theorem Crew.addSem_yielded (w : Crew) (i v : Nat) : (w.addSem i v).yielded = w.yielded := by simp only [Crew.addSem, apply_ite Crew.yielded, ite_self]
@[simp] theorem Crew.addSem_errtok (w : Crew) (i v : Nat) : (w.addSem i v).errtok = w.errtok := by simp only [Crew.addSem, apply_ite Crew.errtok, ite_self]
@[simp] theorem Crew.addSem_pftime (w : Crew) (i v : Nat) : (w.addSem i v).pftime = w.pftime := by simp only [Crew.addSem, apply_ite Crew.pftime, ite_self]
@[simp] theorem Crew.addSem_snaptime (w : Crew) (i v : Nat) : (w.addSem i v).snaptime = w.snaptime := by simp only [Crew.addSem, apply_ite Crew.snaptime, ite_self]
@[simp] theorem Crew.addSem_spilled (w : Crew) (i v : Nat) : (w.addSem i v).spilled = w.spilled := by simp only [Crew.addSem, apply_ite Crew.spilled, ite_self]
@[simp] theorem Crew.addSem_ras (w : Crew) (i v : Nat) : (w.addSem i v).ras = w.ras := by simp only [Crew.addSem, apply_ite Crew.ras, ite_self]
@[simp] theorem Crew.addSem_replay (w : Crew) (i v : Nat) : (w.addSem i v).replay = w.replay := by simp only [Crew.addSem, apply_ite Crew.replay, ite_self]
@[simp] theorem Crew.addSem_cycle (w : Crew) (i v : Nat) : (w.addSem i v).cycle = w.cycle := by simp only [Crew.addSem, apply_ite Crew.cycle, ite_self]
@[simp] theorem Crew.addSem_cyclePart (w : Crew) (i v : Nat) : (w.addSem i v).cyclePart = w.cyclePart := by simp only [Crew.addSem, apply_ite Crew.cyclePart, ite_self]
@[simp] theorem Crew.addSem_cycleAt (w : Crew) (i v : Nat) : (w.addSem i v).cycleAt = w.cycleAt := by simp only [Crew.addSem, apply_ite Crew.cycleAt, ite_self]
@[simp] theorem Crew.addSem_issuedCc (w : Crew) (i v : Nat) : (w.addSem i v).issuedCc = w.issuedCc := by simp only [Crew.addSem, apply_ite Crew.issuedCc, ite_self]
@[simp] theorem Crew.addSem_progress (w : Crew) (i v : Nat) : (w.addSem i v).progress = w.progress := by simp only [Crew.addSem, apply_ite Crew.progress, ite_self]
@[simp] theorem Crew.addSem_progressCycle (w : Crew) (i v : Nat) : (w.addSem i v).progressCycle = w.progressCycle := by simp only [Crew.addSem, apply_ite Crew.progressCycle, ite_self]
@[simp] theorem Crew.addSem_pool (w : Crew) (i v : Nat) : (w.addSem i v).pool = w.pool := by simp only [Crew.addSem, apply_ite Crew.pool, ite_self]
@[simp] theorem Crew.addSem_poolPoison (w : Crew) (i v : Nat) : (w.addSem i v).poolPoison = w.poolPoison := by simp only [Crew.addSem, apply_ite Crew.poolPoison, ite_self]
@[simp] theorem Crew.addSem_units (w : Crew) (i v : Nat) : (w.addSem i v).units = w.units := by simp only [Crew.addSem, apply_ite Crew.units, ite_self]
@[simp] theorem Crew.addSem_framed (w : Crew) (i v : Nat) : (w.addSem i v).framed = w.framed := by simp only [Crew.addSem, apply_ite Crew.framed, ite_self]
@[simp] theorem Crew.addSem_entries (w : Crew) (i v : Nat) : (w.addSem i v).entries = w.entries := by simp only [Crew.addSem, apply_ite Crew.entries, ite_self]
@[simp] theorem Crew.addSem_maps (w : Crew) (i v : Nat) : (w.addSem i v).maps = w.maps := by simp only [Crew.addSem, apply_ite Crew.maps, ite_self]
@[simp] theorem Crew.addSem_chans (w : Crew) (i v : Nat) : (w.addSem i v).chans = w.chans := by simp only [Crew.addSem, apply_ite Crew.chans, ite_self]
@[simp] theorem Crew.addSem_graph (w : Crew) (i v : Nat) : (w.addSem i v).graph = w.graph := by simp only [Crew.addSem, apply_ite Crew.graph, ite_self]
@[simp] theorem Crew.addSem_now (w : Crew) (i v : Nat) : (w.addSem i v).now = w.now := by simp only [Crew.addSem, apply_ite Crew.now, ite_self]
@[simp] theorem Crew.addSem_coming (w : Crew) (i v : Nat) : (w.addSem i v).coming = w.coming := by simp only [Crew.addSem, apply_ite Crew.coming, ite_self]
@[simp] theorem Crew.addSem_streams (w : Crew) (i v : Nat) : (w.addSem i v).streams = w.streams := by simp only [Crew.addSem, apply_ite Crew.streams, ite_self]
@[simp] theorem Crew.addSem_array (w : Crew) (i v : Nat) : (w.addSem i v).array = w.array := by simp only [Crew.addSem, apply_ite Crew.array, ite_self]
@[simp] theorem Crew.addSem_elems (w : Crew) (i v : Nat) : (w.addSem i v).elems = w.elems := by simp only [Crew.addSem, apply_ite Crew.elems, ite_self]
@[simp] theorem Crew.addSem_veq (w : Crew) (i v : Nat) : (w.addSem i v).veq = w.veq := by simp only [Crew.addSem, apply_ite Crew.veq, ite_self]
@[simp] theorem Crew.addSem_nxq (w : Crew) (i v : Nat) : (w.addSem i v).nxq = w.nxq := by simp only [Crew.addSem, apply_ite Crew.nxq, ite_self]
@[simp] theorem Crew.addSem_nxSeq (w : Crew) (i v : Nat) : (w.addSem i v).nxSeq = w.nxSeq := by simp only [Crew.addSem, apply_ite Crew.nxSeq, ite_self]
@[simp] theorem Crew.addSem_nx (w : Crew) (i v : Nat) : (w.addSem i v).nx = w.nx := by simp only [Crew.addSem, apply_ite Crew.nx, ite_self]
@[simp] theorem Crew.addSem_endpoints (w : Crew) (i v : Nat) : (w.addSem i v).endpoints = w.endpoints := by simp only [Crew.addSem, apply_ite Crew.endpoints, ite_self]
@[simp] theorem Crew.addSem_puu (w : Crew) (i v : Nat) : (w.addSem i v).puu = w.puu := by simp only [Crew.addSem, apply_ite Crew.puu, ite_self]
@[simp] theorem Crew.addSem_ending (w : Crew) (i v : Nat) : (w.addSem i v).ending = w.ending := by simp only [Crew.addSem, apply_ite Crew.ending, ite_self]
@[simp] theorem Crew.addSem_saving (w : Crew) (i v : Nat) : (w.addSem i v).saving = w.saving := by simp only [Crew.addSem, apply_ite Crew.saving, ite_self]
@[simp] theorem Crew.addSem_reported (w : Crew) (i v : Nat) : (w.addSem i v).reported = w.reported := by simp only [Crew.addSem, apply_ite Crew.reported, ite_self]
@[simp] theorem Crew.putSem_info (w : Crew) (i v : Nat) : (w.putSem i v).info = w.info := by unfold Crew.putSem; split <;> rfl
@[simp] theorem Crew.putSem_strands (w : Crew) (i v : Nat) : (w.putSem i v).strands = w.strands := by unfold Crew.putSem; split <;> rfl
@[simp] theorem Crew.putSem_lastIssued (w : Crew) (i v : Nat) : (w.putSem i v).lastIssued = w.lastIssued := by unfold Crew.putSem; split <;> rfl
@[simp] theorem Crew.putSem_yielded (w : Crew) (i v : Nat) : (w.putSem i v).yielded = w.yielded := by unfold Crew.putSem; split <;> rfl
@[simp] theorem Crew.putSem_errtok (w : Crew) (i v : Nat) : (w.putSem i v).errtok = w.errtok := by unfold Crew.putSem; split <;> rfl
@[simp] theorem Crew.putSem_pftime (w : Crew) (i v : Nat) : (w.putSem i v).pftime = w.pftime := by unfold Crew.putSem; split <;> rfl
@[simp] theorem Crew.putSem_snaptime (w : Crew) (i v : Nat) : (w.putSem i v).snaptime = w.snaptime := by unfold Crew.putSem; split <;> rfl
@[simp] theorem Crew.putSem_spilled (w : Crew) (i v : Nat) : (w.putSem i v).spilled = w.spilled := by unfold Crew.putSem; split <;> rfl
@[simp] theorem Crew.putSem_ras (w : Crew) (i v : Nat) : (w.putSem i v).ras = w.ras := by unfold Crew.putSem; split <;> rfl
@[simp] theorem Crew.putSem_replay (w : Crew) (i v : Nat) : (w.putSem i v).replay = w.replay := by unfold Crew.putSem; split <;> rfl
@[simp] theorem Crew.putSem_cycle (w : Crew) (i v : Nat) : (w.putSem i v).cycle = w.cycle := by unfold Crew.putSem; split <;> rfl
@[simp] theorem Crew.putSem_cyclePart (w : Crew) (i v : Nat) : (w.putSem i v).cyclePart = w.cyclePart := by unfold Crew.putSem; split <;> rfl
@[simp] theorem Crew.putSem_cycleAt (w : Crew) (i v : Nat) : (w.putSem i v).cycleAt = w.cycleAt := by unfold Crew.putSem; split <;> rfl
@[simp] theorem Crew.putSem_issuedCc (w : Crew) (i v : Nat) : (w.putSem i v).issuedCc = w.issuedCc := by unfold Crew.putSem; split <;> rfl
@[simp] theorem Crew.putSem_progress (w : Crew) (i v : Nat) : (w.putSem i v).progress = w.progress := by unfold Crew.putSem; split <;> rfl
@[simp] theorem Crew.putSem_progressCycle (w : Crew) (i v : Nat) : (w.putSem i v).progressCycle = w.progressCycle := by unfold Crew.putSem; split <;> rfl
@[simp] theorem Crew.putSem_pool (w : Crew) (i v : Nat) : (w.putSem i v).pool = w.pool := by unfold Crew.putSem; split <;> rfl
@[simp] theorem Crew.putSem_poolPoison (w : Crew) (i v : Nat) : (w.putSem i v).poolPoison = w.poolPoison := by unfold Crew.putSem; split <;> rfl
@[simp] theorem Crew.putSem_units (w : Crew) (i v : Nat) : (w.putSem i v).units = w.units := by unfold Crew.putSem; split <;> rfl
@[simp] theorem Crew.putSem_framed (w : Crew) (i v : Nat) : (w.putSem i v).framed = w.framed := by unfold Crew.putSem; split <;> rfl
@[simp] theorem Crew.putSem_entries (w : Crew) (i v : Nat) : (w.putSem i v).entries = w.entries := by unfold Crew.putSem; split <;> rfl
@[simp] theorem Crew.putSem_maps (w : Crew) (i v : Nat) : (w.putSem i v).maps = w.maps := by unfold Crew.putSem; split <;> rfl
@[simp] theorem Crew.putSem_chans (w : Crew) (i v : Nat) : (w.putSem i v).chans = w.chans := by unfold Crew.putSem; split <;> rfl
@[simp] theorem Crew.putSem_graph (w : Crew) (i v : Nat) : (w.putSem i v).graph = w.graph := by unfold Crew.putSem; split <;> rfl
@[simp] theorem Crew.putSem_now (w : Crew) (i v : Nat) : (w.putSem i v).now = w.now := by unfold Crew.putSem; split <;> rfl
@[simp] theorem Crew.putSem_coming (w : Crew) (i v : Nat) : (w.putSem i v).coming = w.coming := by unfold Crew.putSem; split <;> rfl
@[simp] theorem Crew.putSem_streams (w : Crew) (i v : Nat) : (w.putSem i v).streams = w.streams := by unfold Crew.putSem; split <;> rfl
@[simp] theorem Crew.putSem_array (w : Crew) (i v : Nat) : (w.putSem i v).array = w.array := by unfold Crew.putSem; split <;> rfl
@[simp] theorem Crew.putSem_elems (w : Crew) (i v : Nat) : (w.putSem i v).elems = w.elems := by unfold Crew.putSem; split <;> rfl
@[simp] theorem Crew.putSem_veq (w : Crew) (i v : Nat) : (w.putSem i v).veq = w.veq := by unfold Crew.putSem; split <;> rfl
@[simp] theorem Crew.putSem_nxq (w : Crew) (i v : Nat) : (w.putSem i v).nxq = w.nxq := by unfold Crew.putSem; split <;> rfl
@[simp] theorem Crew.putSem_nxSeq (w : Crew) (i v : Nat) : (w.putSem i v).nxSeq = w.nxSeq := by unfold Crew.putSem; split <;> rfl
@[simp] theorem Crew.putSem_nx (w : Crew) (i v : Nat) : (w.putSem i v).nx = w.nx := by unfold Crew.putSem; split <;> rfl
@[simp] theorem Crew.putSem_endpoints (w : Crew) (i v : Nat) : (w.putSem i v).endpoints = w.endpoints := by unfold Crew.putSem; split <;> rfl
@[simp] theorem Crew.putSem_puu (w : Crew) (i v : Nat) : (w.putSem i v).puu = w.puu := by unfold Crew.putSem; split <;> rfl
@[simp] theorem Crew.putSem_ending (w : Crew) (i v : Nat) : (w.putSem i v).ending = w.ending := by unfold Crew.putSem; split <;> rfl
@[simp] theorem Crew.putSem_saving (w : Crew) (i v : Nat) : (w.putSem i v).saving = w.saving := by unfold Crew.putSem; split <;> rfl
@[simp] theorem Crew.putSem_reported (w : Crew) (i v : Nat) : (w.putSem i v).reported = w.reported := by unfold Crew.putSem; split <;> rfl
@[simp] theorem Crew.takeSem_info (w : Crew) (i n : Nat) : (w.takeSem i n).info = w.info := rfl
@[simp] theorem Crew.takeSem_strands (w : Crew) (i n : Nat) : (w.takeSem i n).strands = w.strands := rfl
@[simp] theorem Crew.takeSem_lastIssued (w : Crew) (i n : Nat) : (w.takeSem i n).lastIssued = w.lastIssued := rfl
@[simp] theorem Crew.takeSem_yielded (w : Crew) (i n : Nat) : (w.takeSem i n).yielded = w.yielded := rfl
@[simp] theorem Crew.takeSem_semsat (w : Crew) (i n : Nat) : (w.takeSem i n).semsat = w.semsat := rfl
@[simp] theorem Crew.takeSem_errtok (w : Crew) (i n : Nat) : (w.takeSem i n).errtok = w.errtok := rfl
@[simp] theorem Crew.takeSem_pftime (w : Crew) (i n : Nat) : (w.takeSem i n).pftime = w.pftime := rfl
@[simp] theorem Crew.takeSem_snaptime (w : Crew) (i n : Nat) : (w.takeSem i n).snaptime = w.snaptime := rfl
@[simp] theorem Crew.takeSem_spilled (w : Crew) (i n : Nat) : (w.takeSem i n).spilled = w.spilled := rfl
@[simp] theorem Crew.takeSem_ras (w : Crew) (i n : Nat) : (w.takeSem i n).ras = w.ras := rfl
@[simp] theorem Crew.takeSem_replay (w : Crew) (i n : Nat) : (w.takeSem i n).replay = w.replay := rfl
@[simp] theorem Crew.takeSem_cycle (w : Crew) (i n : Nat) : (w.takeSem i n).cycle = w.cycle := rfl
@[simp] theorem Crew.takeSem_cyclePart (w : Crew) (i n : Nat) : (w.takeSem i n).cyclePart = w.cyclePart := rfl
@[simp] theorem Crew.takeSem_cycleAt (w : Crew) (i n : Nat) : (w.takeSem i n).cycleAt = w.cycleAt := rfl
@[simp] theorem Crew.takeSem_issuedCc (w : Crew) (i n : Nat) : (w.takeSem i n).issuedCc = w.issuedCc := rfl
@[simp] theorem Crew.takeSem_progress (w : Crew) (i n : Nat) : (w.takeSem i n).progress = w.progress := rfl
@[simp] theorem Crew.takeSem_progressCycle (w : Crew) (i n : Nat) : (w.takeSem i n).progressCycle = w.progressCycle := rfl
@[simp] theorem Crew.takeSem_pool (w : Crew) (i n : Nat) : (w.takeSem i n).pool = w.pool := rfl
@[simp] theorem Crew.takeSem_poolPoison (w : Crew) (i n : Nat) : (w.takeSem i n).poolPoison = w.poolPoison := rfl
@[simp] theorem Crew.takeSem_units (w : Crew) (i n : Nat) : (w.takeSem i n).units = w.units := rfl
@[simp] theorem Crew.takeSem_framed (w : Crew) (i n : Nat) : (w.takeSem i n).framed = w.framed := rfl
@[simp] theorem Crew.takeSem_entries (w : Crew) (i n : Nat) : (w.takeSem i n).entries = w.entries := rfl
@[simp] theorem Crew.takeSem_maps (w : Crew) (i n : Nat) : (w.takeSem i n).maps = w.maps := rfl
@[simp] theorem Crew.takeSem_chans (w : Crew) (i n : Nat) : (w.takeSem i n).chans = w.chans := rfl
@[simp] theorem Crew.takeSem_graph (w : Crew) (i n : Nat) : (w.takeSem i n).graph = w.graph := rfl
@[simp] theorem Crew.takeSem_now (w : Crew) (i n : Nat) : (w.takeSem i n).now = w.now := rfl
@[simp] theorem Crew.takeSem_coming (w : Crew) (i n : Nat) : (w.takeSem i n).coming = w.coming := rfl
@[simp] theorem Crew.takeSem_streams (w : Crew) (i n : Nat) : (w.takeSem i n).streams = w.streams := rfl
@[simp] theorem Crew.takeSem_array (w : Crew) (i n : Nat) : (w.takeSem i n).array = w.array := rfl
@[simp] theorem Crew.takeSem_elems (w : Crew) (i n : Nat) : (w.takeSem i n).elems = w.elems := rfl
@[simp] theorem Crew.takeSem_veq (w : Crew) (i n : Nat) : (w.takeSem i n).veq = w.veq := rfl
@[simp] theorem Crew.takeSem_nxq (w : Crew) (i n : Nat) : (w.takeSem i n).nxq = w.nxq := rfl
@[simp] theorem Crew.takeSem_nxSeq (w : Crew) (i n : Nat) : (w.takeSem i n).nxSeq = w.nxSeq := rfl
@[simp] theorem Crew.takeSem_nx (w : Crew) (i n : Nat) : (w.takeSem i n).nx = w.nx := rfl
@[simp] theorem Crew.takeSem_endpoints (w : Crew) (i n : Nat) : (w.takeSem i n).endpoints = w.endpoints := rfl
@[simp] theorem Crew.takeSem_puu (w : Crew) (i n : Nat) : (w.takeSem i n).puu = w.puu := rfl
@[simp] theorem Crew.takeSem_ending (w : Crew) (i n : Nat) : (w.takeSem i n).ending = w.ending := rfl
@[simp] theorem Crew.takeSem_saving (w : Crew) (i n : Nat) : (w.takeSem i n).saving = w.saving := rfl
@[simp] theorem Crew.takeSem_reported (w : Crew) (i n : Nat) : (w.takeSem i n).reported = w.reported := rfl
@[simp] theorem Crew.signal_info (w : Crew) (i : Nat) : (w.signal i).info = w.info := w.addSem_info i 1
@[simp] theorem Crew.signal_strands (w : Crew) (i : Nat) : (w.signal i).strands = w.strands := w.addSem_strands i 1
@[simp] theorem Crew.signal_lastIssued (w : Crew) (i : Nat) : (w.signal i).lastIssued = w.lastIssued := w.addSem_lastIssued i 1
@[simp] theorem Crew.signal_yielded (w : Crew) (i : Nat) : (w.signal i).yielded = w.yielded := w.addSem_yielded i 1
@[simp] theorem Crew.signal_errtok (w : Crew) (i : Nat) : (w.signal i).errtok = w.errtok := w.addSem_errtok i 1
@[simp] theorem Crew.signal_pftime (w : Crew) (i : Nat) : (w.signal i).pftime = w.pftime := w.addSem_pftime i 1
@[simp] theorem Crew.signal_snaptime (w : Crew) (i : Nat) : (w.signal i).snaptime = w.snaptime := w.addSem_snaptime i 1
@[simp] theorem Crew.signal_spilled (w : Crew) (i : Nat) : (w.signal i).spilled = w.spilled := w.addSem_spilled i 1
@[simp] theorem Crew.signal_ras (w : Crew) (i : Nat) : (w.signal i).ras = w.ras := w.addSem_ras i 1
@[simp] theorem Crew.signal_replay (w : Crew) (i : Nat) : (w.signal i).replay = w.replay := w.addSem_replay i 1
@[simp] theorem Crew.signal_cycle (w : Crew) (i : Nat) : (w.signal i).cycle = w.cycle := w.addSem_cycle i 1
@[simp] theorem Crew.signal_cyclePart (w : Crew) (i : Nat) : (w.signal i).cyclePart = w.cyclePart := w.addSem_cyclePart i 1
@[simp] theorem Crew.signal_cycleAt (w : Crew) (i : Nat) : (w.signal i).cycleAt = w.cycleAt := w.addSem_cycleAt i 1
@[simp] theorem Crew.signal_issuedCc (w : Crew) (i : Nat) : (w.signal i).issuedCc = w.issuedCc := w.addSem_issuedCc i 1
@[simp] theorem Crew.signal_progress (w : Crew) (i : Nat) : (w.signal i).progress = w.progress := w.addSem_progress i 1
@[simp] theorem Crew.signal_progressCycle (w : Crew) (i : Nat) : (w.signal i).progressCycle = w.progressCycle := w.addSem_progressCycle i 1
@[simp] theorem Crew.signal_pool (w : Crew) (i : Nat) : (w.signal i).pool = w.pool := w.addSem_pool i 1
@[simp] theorem Crew.signal_poolPoison (w : Crew) (i : Nat) : (w.signal i).poolPoison = w.poolPoison := w.addSem_poolPoison i 1
@[simp] theorem Crew.signal_units (w : Crew) (i : Nat) : (w.signal i).units = w.units := w.addSem_units i 1
@[simp] theorem Crew.signal_framed (w : Crew) (i : Nat) : (w.signal i).framed = w.framed := w.addSem_framed i 1
@[simp] theorem Crew.signal_entries (w : Crew) (i : Nat) : (w.signal i).entries = w.entries := w.addSem_entries i 1
@[simp] theorem Crew.signal_maps (w : Crew) (i : Nat) : (w.signal i).maps = w.maps := w.addSem_maps i 1
@[simp] theorem Crew.signal_chans (w : Crew) (i : Nat) : (w.signal i).chans = w.chans := w.addSem_chans i 1
@[simp] theorem Crew.signal_graph (w : Crew) (i : Nat) : (w.signal i).graph = w.graph := w.addSem_graph i 1
@[simp] theorem Crew.signal_now (w : Crew) (i : Nat) : (w.signal i).now = w.now := w.addSem_now i 1
@[simp] theorem Crew.signal_coming (w : Crew) (i : Nat) : (w.signal i).coming = w.coming := w.addSem_coming i 1
@[simp] theorem Crew.signal_streams (w : Crew) (i : Nat) : (w.signal i).streams = w.streams := w.addSem_streams i 1
@[simp] theorem Crew.signal_array (w : Crew) (i : Nat) : (w.signal i).array = w.array := w.addSem_array i 1
@[simp] theorem Crew.signal_elems (w : Crew) (i : Nat) : (w.signal i).elems = w.elems := w.addSem_elems i 1
@[simp] theorem Crew.signal_veq (w : Crew) (i : Nat) : (w.signal i).veq = w.veq := w.addSem_veq i 1
@[simp] theorem Crew.signal_nxq (w : Crew) (i : Nat) : (w.signal i).nxq = w.nxq := w.addSem_nxq i 1
@[simp] theorem Crew.signal_nxSeq (w : Crew) (i : Nat) : (w.signal i).nxSeq = w.nxSeq := w.addSem_nxSeq i 1
@[simp] theorem Crew.signal_nx (w : Crew) (i : Nat) : (w.signal i).nx = w.nx := w.addSem_nx i 1
@[simp] theorem Crew.signal_endpoints (w : Crew) (i : Nat) : (w.signal i).endpoints = w.endpoints := w.addSem_endpoints i 1
@[simp] theorem Crew.signal_puu (w : Crew) (i : Nat) : (w.signal i).puu = w.puu := w.addSem_puu i 1
@[simp] theorem Crew.signal_ending (w : Crew) (i : Nat) : (w.signal i).ending = w.ending := w.addSem_ending i 1
@[simp] theorem Crew.signal_saving (w : Crew) (i : Nat) : (w.signal i).saving = w.saving := w.addSem_saving i 1
@[simp] theorem Crew.signal_reported (w : Crew) (i : Nat) : (w.signal i).reported = w.reported := w.addSem_reported i 1

@[simp] theorem Strand.setX_p (t : Strand) (r : Reg) (v : Word) : (t.setX r v).p = t.p := by unfold Strand.setX; split <;> rfl
@[simp] theorem Strand.setX_pc (t : Strand) (r : Reg) (v : Word) : (t.setX r v).pc = t.pc := by unfold Strand.setX; split <;> rfl
@[simp] theorem Strand.setX_loops (t : Strand) (r : Reg) (v : Word) : (t.setX r v).loops = t.loops := by unfold Strand.setX; split <;> rfl
@[simp] theorem Strand.setX_buffer (t : Strand) (r : Reg) (v : Word) : (t.setX r v).buffer = t.buffer := by unfold Strand.setX; split <;> rfl
@[simp] theorem Strand.setX_status (t : Strand) (r : Reg) (v : Word) : (t.setX r v).status = t.status := by unfold Strand.setX; split <;> rfl
@[simp] theorem Strand.setX_traps (t : Strand) (r : Reg) (v : Word) : (t.setX r v).traps = t.traps := by unfold Strand.setX; split <;> rfl
@[simp] theorem Strand.setX_popped (t : Strand) (r : Reg) (v : Word) : (t.setX r v).popped = t.popped := by unfold Strand.setX; split <;> rfl
@[simp] theorem Strand.setX_pending (t : Strand) (r : Reg) (v : Word) : (t.setX r v).pending = t.pending := by unfold Strand.setX; split <;> rfl
@[simp] theorem Strand.setX_present (t : Strand) (r : Reg) (v : Word) : (t.setX r v).present = t.present := by unfold Strand.setX; split <;> rfl
@[simp] theorem Strand.setX_halted (t : Strand) (r : Reg) (v : Word) : (t.setX r v).halted = t.halted := by unfold Strand.setX; split <;> rfl
@[simp] theorem Strand.setX_inHandler (t : Strand) (r : Reg) (v : Word) : (t.setX r v).inHandler = t.inHandler := by unfold Strand.setX; split <;> rfl
@[simp] theorem Strand.setX_hold (t : Strand) (r : Reg) (v : Word) : (t.setX r v).hold = t.hold := by unfold Strand.setX; split <;> rfl
@[simp] theorem Strand.setX_arrivals (t : Strand) (r : Reg) (v : Word) : (t.setX r v).arrivals = t.arrivals := by unfold Strand.setX; split <;> rfl
@[simp] theorem Strand.setX_readySince (t : Strand) (r : Reg) (v : Word) : (t.setX r v).readySince = t.readySince := by unfold Strand.setX; split <;> rfl
@[simp] theorem Strand.setX_haltedAt (t : Strand) (r : Reg) (v : Word) : (t.setX r v).haltedAt = t.haltedAt := by unfold Strand.setX; split <;> rfl
@[simp] theorem Strand.setP_x (t : Strand) (q : Pred) (v : Bool) : (t.setP q v).x = t.x := by unfold Strand.setP; split <;> rfl
@[simp] theorem Strand.setP_pc (t : Strand) (q : Pred) (v : Bool) : (t.setP q v).pc = t.pc := by unfold Strand.setP; split <;> rfl
@[simp] theorem Strand.setP_loops (t : Strand) (q : Pred) (v : Bool) : (t.setP q v).loops = t.loops := by unfold Strand.setP; split <;> rfl
@[simp] theorem Strand.setP_buffer (t : Strand) (q : Pred) (v : Bool) : (t.setP q v).buffer = t.buffer := by unfold Strand.setP; split <;> rfl
@[simp] theorem Strand.setP_status (t : Strand) (q : Pred) (v : Bool) : (t.setP q v).status = t.status := by unfold Strand.setP; split <;> rfl
@[simp] theorem Strand.setP_traps (t : Strand) (q : Pred) (v : Bool) : (t.setP q v).traps = t.traps := by unfold Strand.setP; split <;> rfl
@[simp] theorem Strand.setP_popped (t : Strand) (q : Pred) (v : Bool) : (t.setP q v).popped = t.popped := by unfold Strand.setP; split <;> rfl
@[simp] theorem Strand.setP_pending (t : Strand) (q : Pred) (v : Bool) : (t.setP q v).pending = t.pending := by unfold Strand.setP; split <;> rfl
@[simp] theorem Strand.setP_present (t : Strand) (q : Pred) (v : Bool) : (t.setP q v).present = t.present := by unfold Strand.setP; split <;> rfl
@[simp] theorem Strand.setP_halted (t : Strand) (q : Pred) (v : Bool) : (t.setP q v).halted = t.halted := by unfold Strand.setP; split <;> rfl
@[simp] theorem Strand.setP_inHandler (t : Strand) (q : Pred) (v : Bool) : (t.setP q v).inHandler = t.inHandler := by unfold Strand.setP; split <;> rfl
@[simp] theorem Strand.setP_hold (t : Strand) (q : Pred) (v : Bool) : (t.setP q v).hold = t.hold := by unfold Strand.setP; split <;> rfl
@[simp] theorem Strand.setP_arrivals (t : Strand) (q : Pred) (v : Bool) : (t.setP q v).arrivals = t.arrivals := by unfold Strand.setP; split <;> rfl
@[simp] theorem Strand.setP_readySince (t : Strand) (q : Pred) (v : Bool) : (t.setP q v).readySince = t.readySince := by unfold Strand.setP; split <;> rfl
@[simp] theorem Strand.setP_haltedAt (t : Strand) (q : Pred) (v : Bool) : (t.setP q v).haltedAt = t.haltedAt := by unfold Strand.setP; split <;> rfl
@[simp] theorem Strand.complete_x (t : Strand) (n : Nat) : (t.complete n).x = t.x := rfl
@[simp] theorem Strand.complete_p (t : Strand) (n : Nat) : (t.complete n).p = t.p := rfl
@[simp] theorem Strand.complete_buffer (t : Strand) (n : Nat) : (t.complete n).buffer = t.buffer := rfl
@[simp] theorem Strand.complete_status (t : Strand) (n : Nat) : (t.complete n).status = t.status := rfl
@[simp] theorem Strand.complete_traps (t : Strand) (n : Nat) : (t.complete n).traps = t.traps := rfl
@[simp] theorem Strand.complete_popped (t : Strand) (n : Nat) : (t.complete n).popped = t.popped := rfl
@[simp] theorem Strand.complete_pending (t : Strand) (n : Nat) : (t.complete n).pending = t.pending := rfl
@[simp] theorem Strand.complete_present (t : Strand) (n : Nat) : (t.complete n).present = t.present := rfl
@[simp] theorem Strand.complete_halted (t : Strand) (n : Nat) : (t.complete n).halted = t.halted := rfl
@[simp] theorem Strand.complete_inHandler (t : Strand) (n : Nat) : (t.complete n).inHandler = t.inHandler := rfl
@[simp] theorem Strand.complete_arrivals (t : Strand) (n : Nat) : (t.complete n).arrivals = t.arrivals := rfl
@[simp] theorem Strand.complete_readySince (t : Strand) (n : Nat) : (t.complete n).readySince = t.readySince := rfl
@[simp] theorem Strand.complete_haltedAt (t : Strand) (n : Nat) : (t.complete n).haltedAt = t.haltedAt := rfl

@[simp] theorem Strand.pushTrap_x (t : Strand) (v : Word) (c : Cause) (tv e : Word) : (t.pushTrap v c tv e).x = t.x := rfl
@[simp] theorem Strand.pushTrap_p (t : Strand) (v : Word) (c : Cause) (tv e : Word) : (t.pushTrap v c tv e).p = t.p := rfl
@[simp] theorem Strand.pushTrap_loops (t : Strand) (v : Word) (c : Cause) (tv e : Word) : (t.pushTrap v c tv e).loops = t.loops := rfl
@[simp] theorem Strand.pushTrap_buffer (t : Strand) (v : Word) (c : Cause) (tv e : Word) : (t.pushTrap v c tv e).buffer = t.buffer := rfl
@[simp] theorem Strand.pushTrap_popped (t : Strand) (v : Word) (c : Cause) (tv e : Word) : (t.pushTrap v c tv e).popped = t.popped := rfl
@[simp] theorem Strand.pushTrap_pending (t : Strand) (v : Word) (c : Cause) (tv e : Word) : (t.pushTrap v c tv e).pending = t.pending := rfl
@[simp] theorem Strand.pushTrap_present (t : Strand) (v : Word) (c : Cause) (tv e : Word) : (t.pushTrap v c tv e).present = t.present := rfl
@[simp] theorem Strand.pushTrap_halted (t : Strand) (v : Word) (c : Cause) (tv e : Word) : (t.pushTrap v c tv e).halted = t.halted := rfl
@[simp] theorem Strand.pushTrap_inHandler (t : Strand) (v : Word) (c : Cause) (tv e : Word) : (t.pushTrap v c tv e).inHandler = t.inHandler := rfl
@[simp] theorem Strand.pushTrap_arrivals (t : Strand) (v : Word) (c : Cause) (tv e : Word) : (t.pushTrap v c tv e).arrivals = t.arrivals := rfl
@[simp] theorem Strand.pushTrap_haltedAt (t : Strand) (v : Word) (c : Cause) (tv e : Word) : (t.pushTrap v c tv e).haltedAt = t.haltedAt := rfl

/-! ### Reading back a part -/

@[simp] theorem State.core_setCore (s : State) (c : Nat) (k : Core) : (s.setCore c k).core c = k := by
  simp [State.core, State.setCore]
theorem State.core_setCore_of_ne (s : State) (c d : Nat) (k : Core) (h : d ≠ c) : (s.setCore c k).core d = s.core d := by
  simp [State.core, State.setCore, tget_tset_of_ne _ _ _ _ _ h]
@[simp] theorem State.crew_setCrew (s : State) (c : Nat) (w : Crew) : (s.setCrew c w).crew c = w := by
  simp [State.crew, State.setCrew]
theorem State.crew_setCrew_of_ne (s : State) (c d : Nat) (w : Crew) (h : d ≠ c) : (s.setCrew c w).crew d = s.crew d := by
  simp [State.crew, State.setCrew, State.core_setCore_of_ne _ _ _ _ h]
@[simp] theorem State.crew_modCrew (s : State) (c : Nat) (f : Crew → Crew) : (s.modCrew c f).crew c = f (s.crew c) := by
  simp [State.modCrew]
@[simp] theorem Crew.strand_setStrand (w : Crew) (k : Nat) (t : Strand) : (w.setStrand k t).strand k = t := by
  simp [Crew.strand, Crew.setStrand]
theorem Crew.strand_setStrand_of_ne (w : Crew) (k j : Nat) (t : Strand) (h : j ≠ k) : (w.setStrand k t).strand j = w.strand j := by
  simp [Crew.strand, Crew.setStrand, tget_tset_of_ne _ _ _ _ _ h]
@[simp] theorem State.strandAt_setStrandAt (s : State) (c k : Nat) (t : Strand) : (s.setStrandAt c k t).strandAt c k = t := by
  simp [State.strandAt, State.setStrandAt]
@[simp] theorem State.me_setMe (s : State) (t : Strand) : (s.setMe t).me = t := by
  simp [State.me, State.setMe]
@[simp] theorem State.strandAt_setMe (s : State) (t : Strand) : (s.setMe t).strandAt s.cur.core s.cur.strand = t := by
  simp [State.setMe]
@[simp] theorem State.mine_setMine (s : State) (w : Crew) : (s.setMine w).mine = w := by
  simp [State.mine, State.setMine]
@[simp] theorem State.me_complete (s : State) (n : Nat) : (s.complete n).me = s.me.complete n := by
  simp [State.complete]

end Sys2Proof.Machine
end

