-- ==== Sys2Proof/Laws/Memory.lean ====
section
/-!
SUPPORT. Every operation on a byte memory keeps its canonical form, and what writing a place, touching a line, translating and draining
leave alone.
-/
namespace Sys2Proof.Machine
open Sys2Proof

/-! ### The canonical form -/

theorem wfFrom_of_le {m : Memory} {lo hi : Nat} (h : wfFrom hi m = true) (hle : lo ≤ hi) : wfFrom lo m = true := by
  cases m with
  | nil => rfl
  | cons c t =>
    obtain ⟨k, v⟩ := c
    simp only [wfFrom, Bool.and_eq_true, decide_eq_true_eq] at h ⊢
    exact ⟨⟨by omega, h.1.2⟩, h.2⟩

/-- Storing one byte keeps the canonical form. -/
theorem wfFrom_mset {m : Memory} {lo a : Nat} (v : Byte) (h : wfFrom lo m = true) (ha : lo ≤ a) : wfFrom lo (mset m a v) = true := by
  have one : ∀ t : Memory, v ≠ 0 → wfFrom (a + 1) t = true → wfFrom lo ((a, v) :: t) = true := by
    intro t hv ht
    simp only [wfFrom, Bool.and_eq_true, decide_eq_true_eq, bne_iff_ne]
    exact ⟨⟨ha, hv⟩, ht⟩
  induction m generalizing lo with
  | nil =>
    unfold mset
    split
    · rfl
    · exact one [] ‹_› rfl
  | cons c t ih =>
    obtain ⟨k, w⟩ := c
    have hk := h
    simp only [wfFrom, Bool.and_eq_true, decide_eq_true_eq] at h
    unfold mset
    split
    · split
      · exact hk
      · refine one _ ‹_› ?_
        simp only [wfFrom, Bool.and_eq_true, decide_eq_true_eq]
        exact ⟨⟨by omega, h.1.2⟩, h.2⟩
    · split
      · rename_i h2
        subst h2
        split
        · exact wfFrom_of_le h.2 (by omega)
        · exact one _ ‹_› h.2
      · simp only [wfFrom, Bool.and_eq_true, decide_eq_true_eq]
        refine ⟨h.1, ih h.2 (by omega) ?_⟩
        intro t hv ht
        simp only [wfFrom, Bool.and_eq_true, decide_eq_true_eq, bne_iff_ne]
        exact ⟨⟨by omega, hv⟩, ht⟩

theorem wf_mset {m : Memory} (a : Nat) (v : Byte) (h : Memory.wf m = true) : Memory.wf (mset m a v) = true :=
  wfFrom_mset v h (Nat.zero_le a)

/-- Storing bytes keeps the canonical form. -/
theorem wf_msetN {m : Memory} (a : Nat) (bs : List Byte) (h : Memory.wf m = true) : Memory.wf (msetN m a bs) = true := by
  induction bs generalizing m a with
  | nil => exact h
  | cons b bs ih => exact ih (a + 1) (wf_mset a b h)

theorem wf_mput {m : Memory} (a n x : Nat) (h : Memory.wf m = true) : Memory.wf (mput m a n x) = true := wf_msetN a _ h

theorem wfFrom_filter {m : Memory} {lo : Nat} (f : Host.Cell → Bool) (h : wfFrom lo m = true) : wfFrom lo (m.filter f) = true := by
  induction m generalizing lo with
  | nil => rfl
  | cons c t ih =>
    obtain ⟨k, v⟩ := c
    simp only [wfFrom, Bool.and_eq_true, decide_eq_true_eq] at h
    by_cases hf : f (k, v)
    · rw [List.filter_cons_of_pos hf]
      simp only [wfFrom, Bool.and_eq_true, decide_eq_true_eq]
      exact ⟨h.1, ih h.2⟩
    · rw [List.filter_cons_of_neg (by simpa using hf)]
      exact wfFrom_of_le (ih h.2) (by omega)

/-- Clearing a range keeps the canonical form. -/
theorem wf_mclear {m : Memory} (lo hi : Nat) (h : Memory.wf m = true) : Memory.wf (mclear m lo hi) = true := wfFrom_filter _ h

theorem wf_nil : Memory.wf [] = true := rfl

/-- The memories of the machine right after reset are in canonical form. -/
theorem reset_hbm_wf : Memory.wf State.reset.hbm = true := rfl
theorem reset_host_wf : Memory.wf State.reset.host = true := rfl
theorem reset_pool_wf (c : Nat) : Memory.wf (State.reset.crew c).pool = true := rfl

/-! ### Writing a place -/

@[simp] theorem State.writeLoc_hbm_wf (s : State) (l : Loc) (bs : List Byte) (p : Bool) (h : Memory.wf s.hbm = true) :
    Memory.wf (s.writeLoc l bs p).hbm = true := by
  cases l <;> first | exact h | exact wf_msetN _ _ h

@[simp] theorem State.writeLoc_host_wf (s : State) (l : Loc) (bs : List Byte) (p : Bool) (h : Memory.wf s.host = true) :
    Memory.wf (s.writeLoc l bs p).host = true := by
  cases l <;> first | exact h | exact wf_msetN _ _ h

theorem State.crew_windows (s : State) (c : Nat) (ws : List Window) : ({ s with windows := ws } : State).crew c = s.crew c := rfl

/-- Writing a place changes no crew but in its pool, the pool's poison marks and its written units. -/
theorem State.writeLoc_crew (s : State) (l : Loc) (bs : List Byte) (p : Bool) (c : Nat) :
    ∃ m q u, (s.writeLoc l bs p).crew c = { s.crew c with pool := m, poolPoison := q, units := u } ∧
      (Memory.wf (s.crew c).pool = true → Memory.wf m = true) := by
  cases l with
  | pool d a =>
    by_cases hc : c = d
    · subst hc
      refine ⟨msetN (s.crew c).pool a bs, markPoison (s.crew c).poolPoison a bs.length p,
        saddN (s.crew c).units (a / 4096) ((a + bs.length + 4095) / 4096 - a / 4096), ?_, wf_msetN a bs⟩
      show (s.setCrew c _).crew c = _
      rw [State.crew_setCrew]
      rfl
    · refine ⟨(s.crew c).pool, (s.crew c).poolPoison, (s.crew c).units, ?_, id⟩
      show (s.setCrew d _).crew c = _
      rw [State.crew_setCrew_of_ne _ _ _ _ hc]
  | hbm a => exact ⟨_, _, _, rfl, id⟩
  | host a => exact ⟨_, _, _, rfl, id⟩
  | remote d a => exact ⟨_, _, _, rfl, id⟩
  | none a => exact ⟨_, _, _, rfl, id⟩

@[simp] theorem State.writeLoc_strandAt (s : State) (l : Loc) (bs : List Byte) (p : Bool) (c k : Nat) :
    (s.writeLoc l bs p).strandAt c k = s.strandAt c k := by
  obtain ⟨m, q, u, h, -⟩ := s.writeLoc_crew l bs p c
  simp only [State.strandAt, h, Crew.strand]

@[simp] theorem State.writeLoc_time (s : State) (l : Loc) (bs : List Byte) (p : Bool) : (s.writeLoc l bs p).time = s.time := by cases l <;> rfl
@[simp] theorem State.writeLoc_moment (s : State) (l : Loc) (bs : List Byte) (p : Bool) : (s.writeLoc l bs p).moment = s.moment := by cases l <;> rfl
@[simp] theorem State.writeLoc_sched (s : State) (l : Loc) (bs : List Byte) (p : Bool) : (s.writeLoc l bs p).sched = s.sched := by cases l <;> rfl
@[simp] theorem State.writeLoc_cur (s : State) (l : Loc) (bs : List Byte) (p : Bool) : (s.writeLoc l bs p).cur = s.cur := by cases l <;> rfl
@[simp] theorem State.writeLoc_lines (s : State) (l : Loc) (bs : List Byte) (p : Bool) : (s.writeLoc l bs p).lines = s.lines := by cases l <;> rfl
@[simp] theorem State.writeLoc_clusters (s : State) (l : Loc) (bs : List Byte) (p : Bool) : (s.writeLoc l bs p).clusters = s.clusters := by cases l <;> rfl
@[simp] theorem State.writeLoc_roots (s : State) (l : Loc) (bs : List Byte) (p : Bool) : (s.writeLoc l bs p).roots = s.roots := by cases l <;> rfl
@[simp] theorem State.writeLoc_tags (s : State) (l : Loc) (bs : List Byte) (p : Bool) : (s.writeLoc l bs p).tags = s.tags := by cases l <;> rfl
@[simp] theorem State.writeLoc_handovers (s : State) (l : Loc) (bs : List Byte) (p : Bool) : (s.writeLoc l bs p).handovers = s.handovers := by cases l <;> rfl
@[simp] theorem State.writeLoc_rings (s : State) (l : Loc) (bs : List Byte) (p : Bool) : (s.writeLoc l bs p).rings = s.rings := by cases l <;> rfl
@[simp] theorem State.writeLoc_groups (s : State) (l : Loc) (bs : List Byte) (p : Bool) : (s.writeLoc l bs p).groups = s.groups := by cases l <;> rfl
@[simp] theorem State.writeLoc_reports (s : State) (l : Loc) (bs : List Byte) (p : Bool) : (s.writeLoc l bs p).reports = s.reports := by cases l <;> rfl
@[simp] theorem State.writeLoc_fabric (s : State) (l : Loc) (bs : List Byte) (p : Bool) : (s.writeLoc l bs p).fabric = s.fabric := by cases l <;> rfl
@[simp] theorem State.writeLoc_ise (s : State) (l : Loc) (bs : List Byte) (p : Bool) : (s.writeLoc l bs p).ise = s.ise := by cases l <;> rfl
@[simp] theorem State.writeLoc_suu (s : State) (l : Loc) (bs : List Byte) (p : Bool) : (s.writeLoc l bs p).suu = s.suu := by cases l <;> rfl
@[simp] theorem State.writeLoc_suuLines (s : State) (l : Loc) (bs : List Byte) (p : Bool) : (s.writeLoc l bs p).suuLines = s.suuLines := by cases l <;> rfl
@[simp] theorem State.writeLoc_sys (s : State) (l : Loc) (bs : List Byte) (p : Bool) : (s.writeLoc l bs p).sys = s.sys := by cases l <;> rfl
@[simp] theorem State.writeLoc_cp (s : State) (l : Loc) (bs : List Byte) (p : Bool) : (s.writeLoc l bs p).cp = s.cp := by cases l <;> rfl

@[simp] theorem State.writeLoc_me (s : State) (l : Loc) (bs : List Byte) (p : Bool) : (s.writeLoc l bs p).me = s.me := by
  simp [State.me]

/-! ### Touching a line -/

theorem State.evict_eq (s : State) (cl n : Nat) : ∃ ls, s.evict cl n = { s with lines := ls } := by
  simp only [State.evict]
  exact ⟨_, rfl⟩

/-- Evicting lines changes the directory only. -/
theorem State.evictAll_eq (cl : Nat) (l : List Nat) (s : State) : ∃ ls, l.foldl (fun t n => t.evict cl n) s = { s with lines := ls } := by
  induction l generalizing s with
  | nil => exact ⟨s.lines, rfl⟩
  | cons n l ih =>
    obtain ⟨a, h⟩ := s.evict_eq cl n
    obtain ⟨b, h2⟩ := ih { s with lines := a }
    exact ⟨b, by simp only [List.foldl_cons, h, h2]⟩

/-- Giving a line a way changes the directory and the slices' sets only. -/
theorem State.allocate_eq (s : State) (cl n pol : Nat) : ∃ ls ks, s.allocate cl n pol = { s with lines := ls, clusters := ks } := by
  unfold State.allocate
  dsimp only
  obtain ⟨ls, h⟩ := State.evictAll_eq cl _ _
  exact ⟨_, _, h⟩

/-- Touching a line changes the directory and the slices' sets only. -/
theorem State.touchLine_eq (s : State) (cl pa pol : Nat) (w : Bool) : ∃ ls ks, s.touchLine cl pa pol w = { s with lines := ls, clusters := ks } := by
  unfold State.touchLine
  split
  · exact ⟨s.lines, s.clusters, rfl⟩
  · split
    · exact ⟨s.lines, s.clusters, rfl⟩
    · dsimp only
      split
      · exact ⟨_, _, rfl⟩
      · obtain ⟨ls, ks, h⟩ := State.allocate_eq _ cl (pa / 128) pol
        exact ⟨ls, ks, by rw [h]⟩

@[simp] theorem State.touchLine_time (s : State) (cl pa pol : Nat) (w : Bool) : (s.touchLine cl pa pol w).time = s.time := by
  obtain ⟨ls, ks, h⟩ := s.touchLine_eq cl pa pol w; rw [h]
@[simp] theorem State.touchLine_moment (s : State) (cl pa pol : Nat) (w : Bool) : (s.touchLine cl pa pol w).moment = s.moment := by
  obtain ⟨ls, ks, h⟩ := s.touchLine_eq cl pa pol w; rw [h]
@[simp] theorem State.touchLine_sched (s : State) (cl pa pol : Nat) (w : Bool) : (s.touchLine cl pa pol w).sched = s.sched := by
  obtain ⟨ls, ks, h⟩ := s.touchLine_eq cl pa pol w; rw [h]
@[simp] theorem State.touchLine_cur (s : State) (cl pa pol : Nat) (w : Bool) : (s.touchLine cl pa pol w).cur = s.cur := by
  obtain ⟨ls, ks, h⟩ := s.touchLine_eq cl pa pol w; rw [h]
@[simp] theorem State.touchLine_hbm (s : State) (cl pa pol : Nat) (w : Bool) : (s.touchLine cl pa pol w).hbm = s.hbm := by
  obtain ⟨ls, ks, h⟩ := s.touchLine_eq cl pa pol w; rw [h]
@[simp] theorem State.touchLine_hbmPoison (s : State) (cl pa pol : Nat) (w : Bool) : (s.touchLine cl pa pol w).hbmPoison = s.hbmPoison := by
  obtain ⟨ls, ks, h⟩ := s.touchLine_eq cl pa pol w; rw [h]
@[simp] theorem State.touchLine_host (s : State) (cl pa pol : Nat) (w : Bool) : (s.touchLine cl pa pol w).host = s.host := by
  obtain ⟨ls, ks, h⟩ := s.touchLine_eq cl pa pol w; rw [h]
@[simp] theorem State.touchLine_hostPoison (s : State) (cl pa pol : Nat) (w : Bool) : (s.touchLine cl pa pol w).hostPoison = s.hostPoison := by
  obtain ⟨ls, ks, h⟩ := s.touchLine_eq cl pa pol w; rw [h]
@[simp] theorem State.touchLine_roots (s : State) (cl pa pol : Nat) (w : Bool) : (s.touchLine cl pa pol w).roots = s.roots := by
  obtain ⟨ls, ks, h⟩ := s.touchLine_eq cl pa pol w; rw [h]
@[simp] theorem State.touchLine_tags (s : State) (cl pa pol : Nat) (w : Bool) : (s.touchLine cl pa pol w).tags = s.tags := by
  obtain ⟨ls, ks, h⟩ := s.touchLine_eq cl pa pol w; rw [h]
@[simp] theorem State.touchLine_windows (s : State) (cl pa pol : Nat) (w : Bool) : (s.touchLine cl pa pol w).windows = s.windows := by
  obtain ⟨ls, ks, h⟩ := s.touchLine_eq cl pa pol w; rw [h]
@[simp] theorem State.touchLine_handovers (s : State) (cl pa pol : Nat) (w : Bool) : (s.touchLine cl pa pol w).handovers = s.handovers := by
  obtain ⟨ls, ks, h⟩ := s.touchLine_eq cl pa pol w; rw [h]
@[simp] theorem State.touchLine_rings (s : State) (cl pa pol : Nat) (w : Bool) : (s.touchLine cl pa pol w).rings = s.rings := by
  obtain ⟨ls, ks, h⟩ := s.touchLine_eq cl pa pol w; rw [h]
@[simp] theorem State.touchLine_groups (s : State) (cl pa pol : Nat) (w : Bool) : (s.touchLine cl pa pol w).groups = s.groups := by
  obtain ⟨ls, ks, h⟩ := s.touchLine_eq cl pa pol w; rw [h]
@[simp] theorem State.touchLine_reports (s : State) (cl pa pol : Nat) (w : Bool) : (s.touchLine cl pa pol w).reports = s.reports := by
  obtain ⟨ls, ks, h⟩ := s.touchLine_eq cl pa pol w; rw [h]
@[simp] theorem State.touchLine_fabric (s : State) (cl pa pol : Nat) (w : Bool) : (s.touchLine cl pa pol w).fabric = s.fabric := by
  obtain ⟨ls, ks, h⟩ := s.touchLine_eq cl pa pol w; rw [h]
@[simp] theorem State.touchLine_cores (s : State) (cl pa pol : Nat) (w : Bool) : (s.touchLine cl pa pol w).cores = s.cores := by
  obtain ⟨ls, ks, h⟩ := s.touchLine_eq cl pa pol w; rw [h]
@[simp] theorem State.touchLine_ise (s : State) (cl pa pol : Nat) (w : Bool) : (s.touchLine cl pa pol w).ise = s.ise := by
  obtain ⟨ls, ks, h⟩ := s.touchLine_eq cl pa pol w; rw [h]
@[simp] theorem State.touchLine_suu (s : State) (cl pa pol : Nat) (w : Bool) : (s.touchLine cl pa pol w).suu = s.suu := by
  obtain ⟨ls, ks, h⟩ := s.touchLine_eq cl pa pol w; rw [h]
@[simp] theorem State.touchLine_suuLines (s : State) (cl pa pol : Nat) (w : Bool) : (s.touchLine cl pa pol w).suuLines = s.suuLines := by
  obtain ⟨ls, ks, h⟩ := s.touchLine_eq cl pa pol w; rw [h]
@[simp] theorem State.touchLine_sys (s : State) (cl pa pol : Nat) (w : Bool) : (s.touchLine cl pa pol w).sys = s.sys := by
  obtain ⟨ls, ks, h⟩ := s.touchLine_eq cl pa pol w; rw [h]
@[simp] theorem State.touchLine_cp (s : State) (cl pa pol : Nat) (w : Bool) : (s.touchLine cl pa pol w).cp = s.cp := by
  obtain ⟨ls, ks, h⟩ := s.touchLine_eq cl pa pol w; rw [h]

@[simp] theorem State.touchLine_crew (s : State) (cl pa pol : Nat) (w : Bool) (c : Nat) : (s.touchLine cl pa pol w).crew c = s.crew c := by
  simp [State.crew, State.core]
@[simp] theorem State.touchLine_strandAt (s : State) (cl pa pol : Nat) (w : Bool) (c k : Nat) :
    (s.touchLine cl pa pol w).strandAt c k = s.strandAt c k := by
  simp [State.strandAt]
@[simp] theorem State.touchLine_me (s : State) (cl pa pol : Nat) (w : Bool) : (s.touchLine cl pa pol w).me = s.me := by
  simp [State.me]

/-! ### Translation -/

@[simp] theorem State.setCluster_crew (s : State) (t : Nat) (k : Cluster) (c : Nat) : (s.setCluster t k).crew c = s.crew c := rfl
@[simp] theorem State.setCluster_strandAt (s : State) (t : Nat) (k : Cluster) (c j : Nat) :
    (s.setCluster t k).strandAt c j = s.strandAt c j := rfl

/-- Everything a translation can do to the device: nothing, or the accessed and dirty bits of one leaf written where it stands and a
cache entry added. -/
theorem State.translate_cases (s : State) (t ctx va : Nat) (n : Need) :
    (s.translate t ctx va n).2 = s ∨ ∃ l bs k, (s.translate t ctx va n).2 = s.setCluster t k ∨
      (s.translate t ctx va n).2 = (s.writeLoc l bs false).setCluster t k := by
  unfold State.translate
  split
  · exact .inl rfl
  · dsimp only
    split
    · split <;> exact .inl rfl
    · split
      all_goals try exact .inl rfl
      split
      · exact .inl rfl
      · split
        · exact .inl rfl
        · right
          dsimp only
          rename_i level addr e _ _ _
          by_cases he : (if n.mark = true then setBit (setBit e 6 true) 7 true else setBit e 6 true) = e
          · exact ⟨s.locOf addr, [], _, .inl (by simp only [he, if_true]; rfl)⟩
          · exact ⟨_, _, _, .inr (by simp only [he, if_false]; rfl)⟩

@[simp] theorem State.translate_time (s : State) (t ctx va : Nat) (n : Need) : (s.translate t ctx va n).2.time = s.time := by
  obtain h | ⟨l, bs, k, h | h⟩ := s.translate_cases t ctx va n <;> simp [h]
@[simp] theorem State.translate_moment (s : State) (t ctx va : Nat) (n : Need) : (s.translate t ctx va n).2.moment = s.moment := by
  obtain h | ⟨l, bs, k, h | h⟩ := s.translate_cases t ctx va n <;> simp [h]
@[simp] theorem State.translate_sched (s : State) (t ctx va : Nat) (n : Need) : (s.translate t ctx va n).2.sched = s.sched := by
  obtain h | ⟨l, bs, k, h | h⟩ := s.translate_cases t ctx va n <;> simp [h]
@[simp] theorem State.translate_cur (s : State) (t ctx va : Nat) (n : Need) : (s.translate t ctx va n).2.cur = s.cur := by
  obtain h | ⟨l, bs, k, h | h⟩ := s.translate_cases t ctx va n <;> simp [h]
@[simp] theorem State.translate_lines (s : State) (t ctx va : Nat) (n : Need) : (s.translate t ctx va n).2.lines = s.lines := by
  obtain h | ⟨l, bs, k, h | h⟩ := s.translate_cases t ctx va n <;> simp [h]
@[simp] theorem State.translate_roots (s : State) (t ctx va : Nat) (n : Need) : (s.translate t ctx va n).2.roots = s.roots := by
  obtain h | ⟨l, bs, k, h | h⟩ := s.translate_cases t ctx va n <;> simp [h]
@[simp] theorem State.translate_tags (s : State) (t ctx va : Nat) (n : Need) : (s.translate t ctx va n).2.tags = s.tags := by
  obtain h | ⟨l, bs, k, h | h⟩ := s.translate_cases t ctx va n <;> simp [h]
@[simp] theorem State.translate_handovers (s : State) (t ctx va : Nat) (n : Need) : (s.translate t ctx va n).2.handovers = s.handovers := by
  obtain h | ⟨l, bs, k, h | h⟩ := s.translate_cases t ctx va n <;> simp [h]
@[simp] theorem State.translate_rings (s : State) (t ctx va : Nat) (n : Need) : (s.translate t ctx va n).2.rings = s.rings := by
  obtain h | ⟨l, bs, k, h | h⟩ := s.translate_cases t ctx va n <;> simp [h]
@[simp] theorem State.translate_groups (s : State) (t ctx va : Nat) (n : Need) : (s.translate t ctx va n).2.groups = s.groups := by
  obtain h | ⟨l, bs, k, h | h⟩ := s.translate_cases t ctx va n <;> simp [h]
@[simp] theorem State.translate_reports (s : State) (t ctx va : Nat) (n : Need) : (s.translate t ctx va n).2.reports = s.reports := by
  obtain h | ⟨l, bs, k, h | h⟩ := s.translate_cases t ctx va n <;> simp [h]
@[simp] theorem State.translate_fabric (s : State) (t ctx va : Nat) (n : Need) : (s.translate t ctx va n).2.fabric = s.fabric := by
  obtain h | ⟨l, bs, k, h | h⟩ := s.translate_cases t ctx va n <;> simp [h]
@[simp] theorem State.translate_ise (s : State) (t ctx va : Nat) (n : Need) : (s.translate t ctx va n).2.ise = s.ise := by
  obtain h | ⟨l, bs, k, h | h⟩ := s.translate_cases t ctx va n <;> simp [h]
@[simp] theorem State.translate_suu (s : State) (t ctx va : Nat) (n : Need) : (s.translate t ctx va n).2.suu = s.suu := by
  obtain h | ⟨l, bs, k, h | h⟩ := s.translate_cases t ctx va n <;> simp [h]
@[simp] theorem State.translate_suuLines (s : State) (t ctx va : Nat) (n : Need) : (s.translate t ctx va n).2.suuLines = s.suuLines := by
  obtain h | ⟨l, bs, k, h | h⟩ := s.translate_cases t ctx va n <;> simp [h]
@[simp] theorem State.translate_sys (s : State) (t ctx va : Nat) (n : Need) : (s.translate t ctx va n).2.sys = s.sys := by
  obtain h | ⟨l, bs, k, h | h⟩ := s.translate_cases t ctx va n <;> simp [h]
@[simp] theorem State.translate_cp (s : State) (t ctx va : Nat) (n : Need) : (s.translate t ctx va n).2.cp = s.cp := by
  obtain h | ⟨l, bs, k, h | h⟩ := s.translate_cases t ctx va n <;> simp [h]
@[simp] theorem State.translate_strandAt (s : State) (t ctx va : Nat) (n : Need) (c k : Nat) :
    (s.translate t ctx va n).2.strandAt c k = s.strandAt c k := by
  obtain h | ⟨l, bs, k, h | h⟩ := s.translate_cases t ctx va n <;> simp [h]
@[simp] theorem State.translate_me (s : State) (t ctx va : Nat) (n : Need) : (s.translate t ctx va n).2.me = s.me := by
  simp [State.me]

/-- What reaching an address leaves is what its translation leaves. -/
theorem State.reach_snd (s : State) (core who va n : Nat) (need : Need) :
    (s.reach core who va n need).2 = (s.translate (clusterOf core) (s.crew core).info.ctx va need).2 := rfl

@[simp] theorem State.reach_time (s : State) (core who va n : Nat) (need : Need) : (s.reach core who va n need).2.time = s.time := by simp [State.reach_snd]
@[simp] theorem State.reach_moment (s : State) (core who va n : Nat) (need : Need) : (s.reach core who va n need).2.moment = s.moment := by simp [State.reach_snd]
@[simp] theorem State.reach_sched (s : State) (core who va n : Nat) (need : Need) : (s.reach core who va n need).2.sched = s.sched := by simp [State.reach_snd]
@[simp] theorem State.reach_cur (s : State) (core who va n : Nat) (need : Need) : (s.reach core who va n need).2.cur = s.cur := by simp [State.reach_snd]
@[simp] theorem State.reach_lines (s : State) (core who va n : Nat) (need : Need) : (s.reach core who va n need).2.lines = s.lines := by simp [State.reach_snd]
@[simp] theorem State.reach_roots (s : State) (core who va n : Nat) (need : Need) : (s.reach core who va n need).2.roots = s.roots := by simp [State.reach_snd]
@[simp] theorem State.reach_tags (s : State) (core who va n : Nat) (need : Need) : (s.reach core who va n need).2.tags = s.tags := by simp [State.reach_snd]
@[simp] theorem State.reach_handovers (s : State) (core who va n : Nat) (need : Need) : (s.reach core who va n need).2.handovers = s.handovers := by simp [State.reach_snd]
@[simp] theorem State.reach_rings (s : State) (core who va n : Nat) (need : Need) : (s.reach core who va n need).2.rings = s.rings := by simp [State.reach_snd]
@[simp] theorem State.reach_groups (s : State) (core who va n : Nat) (need : Need) : (s.reach core who va n need).2.groups = s.groups := by simp [State.reach_snd]
@[simp] theorem State.reach_reports (s : State) (core who va n : Nat) (need : Need) : (s.reach core who va n need).2.reports = s.reports := by simp [State.reach_snd]
@[simp] theorem State.reach_fabric (s : State) (core who va n : Nat) (need : Need) : (s.reach core who va n need).2.fabric = s.fabric := by simp [State.reach_snd]
@[simp] theorem State.reach_ise (s : State) (core who va n : Nat) (need : Need) : (s.reach core who va n need).2.ise = s.ise := by simp [State.reach_snd]
@[simp] theorem State.reach_suu (s : State) (core who va n : Nat) (need : Need) : (s.reach core who va n need).2.suu = s.suu := by simp [State.reach_snd]
@[simp] theorem State.reach_suuLines (s : State) (core who va n : Nat) (need : Need) : (s.reach core who va n need).2.suuLines = s.suuLines := by simp [State.reach_snd]
@[simp] theorem State.reach_sys (s : State) (core who va n : Nat) (need : Need) : (s.reach core who va n need).2.sys = s.sys := by simp [State.reach_snd]
@[simp] theorem State.reach_cp (s : State) (core who va n : Nat) (need : Need) : (s.reach core who va n need).2.cp = s.cp := by simp [State.reach_snd]
@[simp] theorem State.reach_strandAt (s : State) (core who va n : Nat) (need : Need) (c k : Nat) :
    (s.reach core who va n need).2.strandAt c k = s.strandAt c k := by simp [State.reach_snd]
@[simp] theorem State.reach_me (s : State) (core who va n : Nat) (need : Need) : (s.reach core who va n need).2.me = s.me := by simp [State.reach_snd]

/-! ### Performing and draining stores -/

@[simp] theorem State.giveBack_strandAt (s : State) (pa n c k : Nat) : (s.giveBack pa n).strandAt c k = s.strandAt c k := rfl
@[simp] theorem State.giveBack_time (s : State) (pa n : Nat) : (s.giveBack pa n).time = s.time := rfl
@[simp] theorem State.giveBack_moment (s : State) (pa n : Nat) : (s.giveBack pa n).moment = s.moment := rfl
@[simp] theorem State.giveBack_sched (s : State) (pa n : Nat) : (s.giveBack pa n).sched = s.sched := rfl
@[simp] theorem State.giveBack_cur (s : State) (pa n : Nat) : (s.giveBack pa n).cur = s.cur := rfl
@[simp] theorem State.giveBack_roots (s : State) (pa n : Nat) : (s.giveBack pa n).roots = s.roots := rfl
@[simp] theorem State.giveBack_tags (s : State) (pa n : Nat) : (s.giveBack pa n).tags = s.tags := rfl
@[simp] theorem State.giveBack_handovers (s : State) (pa n : Nat) : (s.giveBack pa n).handovers = s.handovers := rfl
@[simp] theorem State.giveBack_rings (s : State) (pa n : Nat) : (s.giveBack pa n).rings = s.rings := rfl
@[simp] theorem State.giveBack_groups (s : State) (pa n : Nat) : (s.giveBack pa n).groups = s.groups := rfl
@[simp] theorem State.giveBack_reports (s : State) (pa n : Nat) : (s.giveBack pa n).reports = s.reports := rfl
@[simp] theorem State.giveBack_fabric (s : State) (pa n : Nat) : (s.giveBack pa n).fabric = s.fabric := rfl
@[simp] theorem State.giveBack_ise (s : State) (pa n : Nat) : (s.giveBack pa n).ise = s.ise := rfl
@[simp] theorem State.giveBack_suu (s : State) (pa n : Nat) : (s.giveBack pa n).suu = s.suu := rfl
@[simp] theorem State.giveBack_sys (s : State) (pa n : Nat) : (s.giveBack pa n).sys = s.sys := rfl
@[simp] theorem State.giveBack_cp (s : State) (pa n : Nat) : (s.giveBack pa n).cp = s.cp := rfl

@[simp] theorem State.perform_strandAt (s : State) (core : Nat) (b : BufStore) (c k : Nat) :
    (s.perform core b).strandAt c k = s.strandAt c k := by
  unfold State.perform
  split <;> simp
@[simp] theorem State.performAll_strandAt (s : State) (core : Nat) (bs : List BufStore) (c k : Nat) :
    (s.performAll core bs).strandAt c k = s.strandAt c k := by
  induction bs generalizing s with
  | nil => rfl
  | cons b bs ih => simp [State.performAll, ih]

@[simp] theorem State.perform_time (s : State) (core : Nat) (b : BufStore) : (s.perform core b).time = s.time := by
  unfold State.perform; split <;> simp
@[simp] theorem State.performAll_time (s : State) (core : Nat) (bs : List BufStore) : (s.performAll core bs).time = s.time := by
  induction bs generalizing s with
  | nil => rfl
  | cons b bs ih => simp [State.performAll, ih]
@[simp] theorem State.drainStrand_time (s : State) (c k : Nat) : (s.drainStrand c k).time = s.time := by simp [State.drainStrand]
@[simp] theorem State.perform_moment (s : State) (core : Nat) (b : BufStore) : (s.perform core b).moment = s.moment := by
  unfold State.perform; split <;> simp
@[simp] theorem State.performAll_moment (s : State) (core : Nat) (bs : List BufStore) : (s.performAll core bs).moment = s.moment := by
  induction bs generalizing s with
  | nil => rfl
  | cons b bs ih => simp [State.performAll, ih]
@[simp] theorem State.drainStrand_moment (s : State) (c k : Nat) : (s.drainStrand c k).moment = s.moment := by simp [State.drainStrand]
@[simp] theorem State.perform_sched (s : State) (core : Nat) (b : BufStore) : (s.perform core b).sched = s.sched := by
  unfold State.perform; split <;> simp
@[simp] theorem State.performAll_sched (s : State) (core : Nat) (bs : List BufStore) : (s.performAll core bs).sched = s.sched := by
  induction bs generalizing s with
  | nil => rfl
  | cons b bs ih => simp [State.performAll, ih]
@[simp] theorem State.drainStrand_sched (s : State) (c k : Nat) : (s.drainStrand c k).sched = s.sched := by simp [State.drainStrand]
@[simp] theorem State.perform_cur (s : State) (core : Nat) (b : BufStore) : (s.perform core b).cur = s.cur := by
  unfold State.perform; split <;> simp
@[simp] theorem State.performAll_cur (s : State) (core : Nat) (bs : List BufStore) : (s.performAll core bs).cur = s.cur := by
  induction bs generalizing s with
  | nil => rfl
  | cons b bs ih => simp [State.performAll, ih]
@[simp] theorem State.drainStrand_cur (s : State) (c k : Nat) : (s.drainStrand c k).cur = s.cur := by simp [State.drainStrand]
@[simp] theorem State.perform_roots (s : State) (core : Nat) (b : BufStore) : (s.perform core b).roots = s.roots := by
  unfold State.perform; split <;> simp
@[simp] theorem State.performAll_roots (s : State) (core : Nat) (bs : List BufStore) : (s.performAll core bs).roots = s.roots := by
  induction bs generalizing s with
  | nil => rfl
  | cons b bs ih => simp [State.performAll, ih]
@[simp] theorem State.drainStrand_roots (s : State) (c k : Nat) : (s.drainStrand c k).roots = s.roots := by simp [State.drainStrand]
@[simp] theorem State.perform_tags (s : State) (core : Nat) (b : BufStore) : (s.perform core b).tags = s.tags := by
  unfold State.perform; split <;> simp
@[simp] theorem State.performAll_tags (s : State) (core : Nat) (bs : List BufStore) : (s.performAll core bs).tags = s.tags := by
  induction bs generalizing s with
  | nil => rfl
  | cons b bs ih => simp [State.performAll, ih]
@[simp] theorem State.drainStrand_tags (s : State) (c k : Nat) : (s.drainStrand c k).tags = s.tags := by simp [State.drainStrand]
@[simp] theorem State.perform_handovers (s : State) (core : Nat) (b : BufStore) : (s.perform core b).handovers = s.handovers := by
  unfold State.perform; split <;> simp
@[simp] theorem State.performAll_handovers (s : State) (core : Nat) (bs : List BufStore) : (s.performAll core bs).handovers = s.handovers := by
  induction bs generalizing s with
  | nil => rfl
  | cons b bs ih => simp [State.performAll, ih]
@[simp] theorem State.drainStrand_handovers (s : State) (c k : Nat) : (s.drainStrand c k).handovers = s.handovers := by simp [State.drainStrand]
@[simp] theorem State.perform_rings (s : State) (core : Nat) (b : BufStore) : (s.perform core b).rings = s.rings := by
  unfold State.perform; split <;> simp
@[simp] theorem State.performAll_rings (s : State) (core : Nat) (bs : List BufStore) : (s.performAll core bs).rings = s.rings := by
  induction bs generalizing s with
  | nil => rfl
  | cons b bs ih => simp [State.performAll, ih]
@[simp] theorem State.drainStrand_rings (s : State) (c k : Nat) : (s.drainStrand c k).rings = s.rings := by simp [State.drainStrand]
@[simp] theorem State.perform_groups (s : State) (core : Nat) (b : BufStore) : (s.perform core b).groups = s.groups := by
  unfold State.perform; split <;> simp
@[simp] theorem State.performAll_groups (s : State) (core : Nat) (bs : List BufStore) : (s.performAll core bs).groups = s.groups := by
  induction bs generalizing s with
  | nil => rfl
  | cons b bs ih => simp [State.performAll, ih]
@[simp] theorem State.drainStrand_groups (s : State) (c k : Nat) : (s.drainStrand c k).groups = s.groups := by simp [State.drainStrand]
@[simp] theorem State.perform_reports (s : State) (core : Nat) (b : BufStore) : (s.perform core b).reports = s.reports := by
  unfold State.perform; split <;> simp
@[simp] theorem State.performAll_reports (s : State) (core : Nat) (bs : List BufStore) : (s.performAll core bs).reports = s.reports := by
  induction bs generalizing s with
  | nil => rfl
  | cons b bs ih => simp [State.performAll, ih]
@[simp] theorem State.drainStrand_reports (s : State) (c k : Nat) : (s.drainStrand c k).reports = s.reports := by simp [State.drainStrand]
@[simp] theorem State.perform_fabric (s : State) (core : Nat) (b : BufStore) : (s.perform core b).fabric = s.fabric := by
  unfold State.perform; split <;> simp
@[simp] theorem State.performAll_fabric (s : State) (core : Nat) (bs : List BufStore) : (s.performAll core bs).fabric = s.fabric := by
  induction bs generalizing s with
  | nil => rfl
  | cons b bs ih => simp [State.performAll, ih]
@[simp] theorem State.drainStrand_fabric (s : State) (c k : Nat) : (s.drainStrand c k).fabric = s.fabric := by simp [State.drainStrand]
@[simp] theorem State.perform_ise (s : State) (core : Nat) (b : BufStore) : (s.perform core b).ise = s.ise := by
  unfold State.perform; split <;> simp
@[simp] theorem State.performAll_ise (s : State) (core : Nat) (bs : List BufStore) : (s.performAll core bs).ise = s.ise := by
  induction bs generalizing s with
  | nil => rfl
  | cons b bs ih => simp [State.performAll, ih]
@[simp] theorem State.drainStrand_ise (s : State) (c k : Nat) : (s.drainStrand c k).ise = s.ise := by simp [State.drainStrand]
@[simp] theorem State.perform_suu (s : State) (core : Nat) (b : BufStore) : (s.perform core b).suu = s.suu := by
  unfold State.perform; split <;> simp
@[simp] theorem State.performAll_suu (s : State) (core : Nat) (bs : List BufStore) : (s.performAll core bs).suu = s.suu := by
  induction bs generalizing s with
  | nil => rfl
  | cons b bs ih => simp [State.performAll, ih]
@[simp] theorem State.drainStrand_suu (s : State) (c k : Nat) : (s.drainStrand c k).suu = s.suu := by simp [State.drainStrand]
@[simp] theorem State.perform_sys (s : State) (core : Nat) (b : BufStore) : (s.perform core b).sys = s.sys := by
  unfold State.perform; split <;> simp
@[simp] theorem State.performAll_sys (s : State) (core : Nat) (bs : List BufStore) : (s.performAll core bs).sys = s.sys := by
  induction bs generalizing s with
  | nil => rfl
  | cons b bs ih => simp [State.performAll, ih]
@[simp] theorem State.drainStrand_sys (s : State) (c k : Nat) : (s.drainStrand c k).sys = s.sys := by simp [State.drainStrand]
@[simp] theorem State.perform_cp (s : State) (core : Nat) (b : BufStore) : (s.perform core b).cp = s.cp := by
  unfold State.perform; split <;> simp
@[simp] theorem State.performAll_cp (s : State) (core : Nat) (bs : List BufStore) : (s.performAll core bs).cp = s.cp := by
  induction bs generalizing s with
  | nil => rfl
  | cons b bs ih => simp [State.performAll, ih]
@[simp] theorem State.drainStrand_cp (s : State) (c k : Nat) : (s.drainStrand c k).cp = s.cp := by simp [State.drainStrand]
/-- Draining a strand empties its buffer and leaves the rest of it. -/
@[simp] theorem State.drainStrand_strandAt (s : State) (c k : Nat) :
    (s.drainStrand c k).strandAt c k = { s.strandAt c k with buffer := [] } := by
  simp [State.drainStrand]

end Sys2Proof.Machine
end

