-- ==== Sys2Proof/Laws/Ops.lean ====
section
/-!
SUPPORT. What each shared operation can do, said once: the frame of an instruction under its guard, taking and posting a trap, returning from one,
semaphores, loads and stores, the dispatch of engine commands, one step.
-/
namespace Sys2Proof.Machine
open Sys2Proof

/-! ### Instructions under a guard -/

theorem State.strandOp_of_guard (s : State) (g : Pred) (f : Strand → Strand) (h : s.me.getP g = true) :
    s.strandOp g f = s.setMe ((f s.me).complete 4) := by simp [State.strandOp, h]
theorem State.strandOp_of_not_guard (s : State) (g : Pred) (f : Strand → Strand) (h : s.me.getP g = false) :
    s.strandOp g f = s.complete 4 := by simp [State.strandOp, h]
theorem State.strandOpL_of_guard (s : State) (g : Pred) (f : Strand → Strand) (h : s.me.getP g = true) :
    s.strandOpL g f = s.setMe ((f s.me).complete 8) := by simp [State.strandOpL, h]
theorem State.strandOpL_of_not_guard (s : State) (g : Pred) (f : Strand → Strand) (h : s.me.getP g = false) :
    s.strandOpL g f = s.complete 8 := by simp [State.strandOpL, h]

/-! The loop end step, case by case. -/

theorem endLoops_nil (last next : Word) : endLoops last next [] = (next, []) := rfl
theorem endLoops_of_ne (last next : Word) (l : LoopLevel) (ls : List LoopLevel) (h : l.stop ≠ last) :
    endLoops last next (l :: ls) = (next, l :: ls) := by simp [endLoops, h]
theorem endLoops_again (last next : Word) (l : LoopLevel) (ls : List LoopLevel) (h : l.stop = last) (h1 : l.remaining - 1 ≠ 0) :
    endLoops last next (l :: ls) = (l.start, { l with remaining := l.remaining - 1 } :: ls) := by
  rw [endLoops, if_pos h, if_neg h1]
theorem endLoops_leave (last next : Word) (l : LoopLevel) (ls : List LoopLevel) (h : l.stop = last) (h1 : l.remaining - 1 = 0) :
    endLoops last next (l :: ls) = endLoops last next ls := by
  rw [endLoops, if_pos h, if_pos h1]

/-! ### Traps -/

/-- Everything taking a trap can do: the crew's ending is decided, or the strand enters the monitor. -/
theorem State.takeTrapAt_cases (s : State) (c k : Nat) (cause : Cause) (tval epc : Word) :
    ((s.strandAt c k).traps.length = 2 ∧ ∃ e, s.takeTrapAt c k cause tval epc = s.setCrew c { s.crew c with ending := some e }) ∨
    ((s.strandAt c k).traps.length ≠ 2 ∧
      s.takeTrapAt c k cause tval epc = s.setStrandAt c k ((s.strandAt c k).pushTrap (s.monitorEntry c) cause tval epc)) := by
  unfold State.takeTrapAt
  by_cases h : (s.strandAt c k).traps.length = 2
  · refine .inl ⟨h, ?_⟩
    simp only [h, if_true, State.modCrew]
    cases (s.crew c).ending with
    | none => exact ⟨_, rfl⟩
    | some e => exact ⟨e, rfl⟩
  · exact .inr ⟨h, by simp [h]⟩

/-- A trap changes nothing of the device but the cores. -/
theorem State.takeTrapAt_frame (s : State) (c k : Nat) (cause : Cause) (tval epc : Word) :
    ∃ ks, s.takeTrapAt c k cause tval epc = { s with cores := ks } := by
  obtain ⟨-, e, h⟩ | ⟨-, h⟩ := s.takeTrapAt_cases c k cause tval epc
  · exact ⟨_, h⟩
  · exact ⟨_, h⟩

/-- A trap changes no other core. -/
theorem State.takeTrapAt_core (s : State) (c k d : Nat) (cause : Cause) (tval epc : Word) (h : d ≠ c) :
    (s.takeTrapAt c k cause tval epc).core d = s.core d := by
  obtain ⟨-, e, h1⟩ | ⟨-, h1⟩ := s.takeTrapAt_cases c k cause tval epc
  · rw [h1]; exact State.core_setCore_of_ne _ _ _ _ h
  · rw [h1]; exact State.core_setCore_of_ne _ _ _ _ h

/-- Everything posting a trap can do: the crew's ending is decided, nothing (one of its cause is pending), or it is pending at one strand. -/
theorem Crew.postTrap_cases (w : Crew) (k : Nat) (cause : Cause) (tval : Word) :
    (w.trapTarget k = none ∧ ∃ e, w.postTrap k cause tval = { w with ending := some e }) ∨ w.postTrap k cause tval = w ∨
    ∃ j, w.trapTarget k = some j ∧
      w.postTrap k cause tval = w.setStrand j { w.strand j with pending := tset (w.strand j).pending cause.toNat tval } := by
  unfold Crew.postTrap
  split
  · rename_i h
    refine .inl ⟨h, ?_⟩
    cases w.ending with
    | none => exact ⟨_, rfl⟩
    | some e => exact ⟨e, rfl⟩
  · rename_i j h
    dsimp only
    split
    · exact .inr (.inl rfl)
    · exact .inr (.inr ⟨j, h, rfl⟩)

theorem Strand.popTrap_of_empty (t : Strand) (h : t.traps = []) : t.popTrap = t := by simp [Strand.popTrap, h]

/-! ### Semaphores -/

@[simp] theorem Crew.addSem_null (w : Crew) (v : Nat) : w.addSem 63 v = w := rfl
@[simp] theorem Crew.putSem_null (w : Crew) (v : Nat) : w.putSem 63 v = w := rfl

/-! ### Loads and stores -/

/-- What a local load comes to: the poison trap, or the register written and the instruction passed. -/
theorem State.finishLoad_cases (s : State) (d : Reg) (ea : Word) (l : Loc) (size : Nat) (sext : Bool) (len : Nat) :
    s.finishLoad d ea l size sext len = s.takeTrap causePoisonConsumed ea ∨
    s.finishLoad d ea l size sext len =
      s.setMe ((s.me.setX d (loadExtend sext size (ofBytes (s.loadBytes s.cur.core s.cur.strand l size)))).complete len) := by
  unfold State.finishLoad
  dsimp only
  split
  · exact .inl rfl
  · exact .inr rfl

/-- What a load from the scratchpad comes to: a trap, or a value in the register with the instruction passed. -/
theorem State.loadSp_cases (s : State) (d : Reg) (ea : Word) (size : Nat) (sext : Bool) :
    (∃ c, s.loadSp d ea size sext = s.takeTrap c ea) ∨ ∃ v, s.loadSp d ea size sext = s.setMe ((s.me.setX d v).complete 4) := by
  unfold State.loadSp
  split
  · exact .inl ⟨_, rfl⟩
  · split
    · obtain h | h := s.finishLoad_cases d ea (.pool s.cur.core ea.toNat) size sext 4
      · exact .inl ⟨_, h⟩
      · exact .inr ⟨_, h⟩
    · split
      · exact .inr ⟨_, rfl⟩
      · exact .inl ⟨_, rfl⟩
    · split
      · exact .inr ⟨_, rfl⟩
      · exact .inl ⟨_, rfl⟩
    · exact .inl ⟨_, rfl⟩

/-! ### The dispatch of engine commands -/

theorem State.dispatchAr_of_not_guard (s : State) (op : ArOp) (g : Pred) (r : Except Refused (ArCmd × Crew)) (h : s.me.getP g = false) :
    s.dispatchAr op g r = s.complete 4 := by simp [State.dispatchAr, h]
/-- Everything the dispatch of an array command can do: pass, wait, trap, or stand last in its queue. -/
theorem State.dispatchAr_cases (s : State) (op : ArOp) (g : Pred) (r : Except Refused (ArCmd × Crew)) :
    s.dispatchAr op g r = s.complete 4 ∨ s.dispatchAr op g r = s ∨ (∃ e, r = .error e ∧ s.dispatchAr op g r = s.refuse e) ∨
    ∃ p, r = .ok p ∧ s.dispatchAr op g r = (s.setMine (p.2.pushAr p.1)).complete 4 := by
  unfold State.dispatchAr
  split
  · exact .inl rfl
  · split
    · exact .inr (.inl rfl)
    · cases r with
      | error e => exact .inr (.inr (.inl ⟨e, rfl, rfl⟩))
      | ok p => exact .inr (.inr (.inr ⟨p, rfl, rfl⟩))

/-- Everything the dispatch of an element command can do: pass, wait, or its own work. -/
theorem State.dispatchVe_cases (s : State) (g : Pred) (k : State → State) :
    s.dispatchVe g k = s.complete 4 ∨ s.dispatchVe g k = s ∨ (s.mine.veq.length < veDepth ∧ s.dispatchVe g k = k s) := by
  unfold State.dispatchVe
  split
  · exact .inl rfl
  · split
    · exact .inr (.inl rfl)
    · exact .inr (.inr ⟨by omega, rfl⟩)

/-- Everything the dispatch of an NX command can do: pass, wait, trap, or its own work on the captured block. -/
theorem State.dispatchNx_cases (s : State) (a : Reg) (g : Pred) (k : Nat → Nat → State) :
    s.dispatchNx a g k = s.complete 4 ∨ s.dispatchNx a g k = s ∨ (∃ r, s.dispatchNx a g k = s.refuse r) ∨
    (s.mine.nxq.length < nxDepth ∧ s.blockRefusal (s.me.getX a).toNat 64 64 = none ∧
      s.dispatchNx a g k = k (s.me.getX a).toNat (ofBytes (s.dispatchBytes (s.me.getX a).toNat 64))) := by
  unfold State.dispatchNx
  split
  · exact .inl rfl
  · split
    · exact .inr (.inl rfl)
    · dsimp only
      split
      · exact .inr (.inr (.inl ⟨_, rfl⟩))
      · rename_i h
        exact .inr (.inr (.inr ⟨by omega, h, rfl⟩))

/-- Everything the dispatch of a stream command can do: pass, wait, trap, or stand last in the SM queue. -/
theorem State.dispatchStream_cases (s : State) (op : SmOp) (a b f : Reg) (g : Pred) :
    s.dispatchStream op a b f g = s.complete 4 ∨ s.dispatchStream op a b f g = s ∨ (∃ r, s.dispatchStream op a b f g = s.refuse r) ∨
    ∃ c, s.mine.checkStream c = none ∧ s.dispatchStream op a b f g = (s.setMine (s.mine.noteStream c)).pushSm c := by
  unfold State.dispatchStream
  split
  · exact .inl rfl
  · split
    · exact .inr (.inl rfl)
    · dsimp only
      split
      · exact .inr (.inr (.inl ⟨_, rfl⟩))
      · split
        · exact .inr (.inr (.inl ⟨_, rfl⟩))
        · rename_i h
          exact .inr (.inr (.inr ⟨_, h, rfl⟩))

/-! ### The fabric -/

/-- A packet sent changes its own flow only. -/
theorem State.send_fabric (s : State) (dst cls op addr : Nat) (aux : List Nat) (payload : List Byte) (poison issuer : Nat) :
    ∃ f, s.send dst cls op addr aux payload poison issuer = s.setFlow dst cls f := ⟨_, rfl⟩

/-! ### One step -/

/-- A step is the settlement of what its plan comes to. -/
theorem step_of_run (s t : State) (i : Instr) (h : s.plan = .run i t) : step s = settleTurn s (exec i t) := by simp [step, h]
theorem step_of_bad (s t : State) (w : Half) (v : Option Half) (h : s.plan = .bad w v t) :
    step s = settleTurn s (exec (.illegalInstruction w v) t) := by simp [step, h, exec]
theorem step_of_done (s t : State) (h : s.plan = .done t) : step s = settleTurn s (.next t) := by simp [step, h]

end Sys2Proof.Machine
end

