-- ==== Sys2Proof/Tests/Slice0.lean ====
section
/-!
SUPPORT. The model's own tests: words of the spec's encodings decoded, ill-formed terms refused, and for every statement with
hypotheses concrete states and operands that meet them.
-/
namespace Sys2Proof.Tests
open Sys2Proof Sys2Proof.Machine Sys2Proof.Slice0
set_option maxRecDepth 8000
set_option exponentiation.threshold 600
set_option Elab.async false

/-! ### Decoding -/

/-- Major 0x00 (Table 3.3), with the worked words of spec 03 and spec 10. -/
theorem test_decode_binary :
    decode 0x00417F00 0 = .ok (.add 4 5 63 0) ∧
    decode 0x00517E09 0 = .ok (.sub 5 5 62 1) ∧
    decode 0x00617D12 0 = .ok (.mul 6 5 61 2) ∧
    decode 0x00717C1B 0 = .ok (.mulh 7 5 60 3) ∧
    decode 0x00817B24 0 = .ok (.mulhn 8 5 59 4) ∧
    decode 0x00917A2D 0 = .ok (.div 9 5 58 5) ∧
    decode 0x00A17936 0 = .ok (.divn 10 5 57 6) ∧
    decode 0x00B1783F 0 = .ok (.rem 11 5 56 7) ∧
    decode 0x00C17740 0 = .ok (.remn 12 5 55 0) ∧
    decode 0x00D17649 0 = .ok (.and 13 5 54 1) ∧
    decode 0x00E17552 0 = .ok (.or 14 5 53 2) ∧
    decode 0x00F1745B 0 = .ok (.xor 15 5 52 3) ∧
    decode 0x01017364 0 = .ok (.andn 16 5 51 4) ∧
    decode 0x0111726D 0 = .ok (.shl 17 5 50 5) ∧
    decode 0x01217176 0 = .ok (.shr 18 5 49 6) ∧
    decode 0x0131707F 0 = .ok (.sra 19 5 48 7) ∧
    decode 0x01416F80 0 = .ok (.rot 20 5 47 0) ∧
    decode 0x01516E89 0 = .ok (.min 21 5 46 1) ∧
    decode 0x01616D92 0 = .ok (.max 22 5 45 2) ∧
    decode 0x01716C9B 0 = .ok (.minn 23 5 44 3) ∧
    decode 0x01816BA4 0 = .ok (.maxn 24 5 43 4) ∧
    decode 0x01916AAD 0 = .ok (.addw 25 5 42 5) ∧
    decode 0x01A169B6 0 = .ok (.subw 26 5 41 6) ∧
    decode 0x01B168BF 0 = .ok (.mulw 27 5 40 7) ∧
    decode 0x00414602 0 = .ok (.add 4 5 6 2) ∧
    decode 0x00414630 0 = .ok (.divn 4 5 6 0) := by decide

/-- Major 0x01. -/
theorem test_decode_unary :
    decode 0x04984007 0 = .ok (.clz 9 33 7) ∧
    decode 0x04A8000E 0 = .ok (.ctz 10 32 6) ∧
    decode 0x04B7C015 0 = .ok (.popc 11 31 5) ∧
    decode 0x04C7801C 0 = .ok (.sextB 12 30 4) ∧
    decode 0x04D74023 0 = .ok (.sextH 13 29 3) ∧
    decode 0x04E7002A 0 = .ok (.sextW 14 28 2) ∧
    decode 0x04F6C031 0 = .ok (.zextB 15 27 1) ∧
    decode 0x05068038 0 = .ok (.zextH 16 26 0) ∧
    decode 0x05164047 0 = .ok (.zextW 17 25 7) ∧
    decode 0x0526004E 0 = .ok (.rev 18 24 6) ∧
    decode 0x0535C055 0 = .ok (.mov 19 23 5) ∧
    decode 0x04414010 0 = .ok (.popc 4 5 0) := by decide

/-- Majors 0x02, 0x03 and 0x09. -/
theorem test_decode_predicate :
    decode 0x087A1400 0 = .ok (.cmpEq 7 40 20 0) ∧
    decode 0x086A5309 0 = .ok (.cmpNe 6 41 19 1) ∧
    decode 0x085A9212 0 = .ok (.cmpLt 5 42 18 2) ∧
    decode 0x084AD11B 0 = .ok (.cmpLtn 4 43 17 3) ∧
    decode 0x083B1024 0 = .ok (.cmpLe 3 44 16 4) ∧
    decode 0x082B4F2D 0 = .ok (.cmpLen 2 45 15 5) ∧
    decode 0x081B8E36 0 = .ok (.cmpBit 1 46 14 6) ∧
    decode 0x0C108300 0 = .ok (.pand 1 2 3 0) ∧
    decode 0x0C20C409 0 = .ok (.por 2 3 4 1) ∧
    decode 0x0C310512 0 = .ok (.pxor 3 4 5 2) ∧
    decode 0x0C41461B 0 = .ok (.pandn 4 5 6 3) ∧
    decode 0x0C60C021 0 = .ok (.pnot 6 3 1) ∧
    decode 0x0C5B002A 0 = .ok (.pmovX 5 44 2) ∧
    decode 0x0EC14033 0 = .ok (.movpX 44 5 3) ∧
    decode 0x08314618 0 = .ok (.cmpLtn 3 5 6 0) ∧
    decode 0x0C204318 0 = .ok (.pandn 2 1 3 0) ∧
    decode 0x2410C000 0 = .ok (.cmpiEq 1 3 0 0) ∧
    decode 0x24224C05 0 = .ok (.cmpiLt 2 9 0x80 5) ∧
    decode 0x247257FE 0 = .ok (.cmpiLtn 7 9 0xFF 6) := by decide

/-- Immediate forms, shifts, li, lea and sel: the worked words of spec 03 and spec 10, others from Table 3.3. -/
theorem test_decode_immediate :
    decode 0x13D0A001 0 = .ok (.addi 61 2 0x400 1) ∧
    decode 0x14413FC0 0 = .ok (.andi 4 4 (-8) 0) ∧
    decode 0x18109FFB 0 = .ok (.ori 1 2 0x3FF 3) ∧
    decode 0x1C10AAAC 0 = .ok (.xori 1 2 0x555 4) ∧
    decode 0x20608010 0 = .ok (.shli 6 2 2 0) ∧
    decode 0x203109F9 0 = .ok (.shri 3 4 63 1) ∧
    decode 0x20311102 0 = .ok (.srai 3 4 32 2) ∧
    decode 0x2031180B 0 = .ok (.roti 3 4 1 3) ∧
    decode 0x289FFFE8 0 = .ok (.li 9 (-3) 0) ∧
    decode 0xC4C00020 0x00000008 = .ok (.liL 12 4 8 0) ∧
    decode 0xC4780000 0x80000000 = .ok (.lihL 7 0x80000000 0) ∧
    decode 0xC8514000 0x000186A0 = .ok (.addiL 5 5 100000 0) ∧
    decode 0x30714618 0 = .ok (.lea 7 5 6 3 0) ∧
    decode 0x34914608 0 = .ok (.sel 9 5 6 1 0) := by decide

/-- Majors 0x10 to 0x14 and 0x34, with the worked words of spec 05. -/
theorem test_decode_memory :
    decode 0x4092B018 0 = .ok (.ldSp 9 10 6 3 0) ∧
    decode 0x44320FE8 0 = .ok (.stSp 3 8 1 0xFD 0) ∧
    decode 0x48715020 0 = .ok (.ldGl 7 5 2 4 0) ∧
    decode 0x4C61D800 0 = .ok (.stGl 6 7 3 0 0) ∧
    decode 0x50519018 0 = .ok (.ldAcq 5 6 2 3 0) ∧
    decode 0x50951928 0 = .ok (.stRel 9 20 3 5 0) ∧
    decode 0x50018219 0 = .ok (.pf 6 3 1) ∧
    decode 0x50018318 0 = .ok (.clWb 6 3 0) ∧
    decode 0x5001842A 0 = .ok (.clInv 6 5 2) ∧
    decode 0x5001850B 0 = .ok (.clWbinv 6 1 3) ∧
    decode 0xD0715000 0x000186A0 = .ok (.ldGlL 7 5 2 100000 0) ∧
    decode 0xD092180D 0xFFFFFFFF = .ok (.stGlL 9 8 3 0xFFFFFFFF 5) := by decide

/-- Major 0x30 (Table 3.4), with the worked words of spec 05 and spec 16. -/
theorem test_decode_atomic :
    decode 0xC0320900 0x00000000 = .ok (.amoAdd 3 8 9 0 0 false 0) ∧
    decode 0xC0420901 0x00000521 = .ok (.amoAnd 4 8 9 1 1 true 1) ∧
    decode 0xC0520902 0x00000242 = .ok (.amoOr 5 8 9 2 2 false 2) ∧
    decode 0xC0620903 0x00000763 = .ok (.amoXor 6 8 9 3 3 true 3) ∧
    decode 0xC0720904 0x00000084 = .ok (.amoMin 7 8 9 4 0 false 4) ∧
    decode 0xC0820905 0x000005A5 = .ok (.amoMax 8 8 9 5 1 true 5) ∧
    decode 0xC0920906 0x00000206 = .ok (.amoMinn 9 8 9 0 2 false 6) ∧
    decode 0xC0A20907 0x00000727 = .ok (.amoMaxn 10 8 9 1 3 true 7) ∧
    decode 0xC0B20900 0x00000048 = .ok (.amoSwap 11 8 9 2 0 false 0) ∧
    decode 0xC0C20901 0x00000569 = .ok (.amoCas 12 8 9 3 1 true 1) ∧
    decode 0xC0320900 0x0000026A = .ok (.amoFaddF32 3 8 9 3 2 0) ∧
    decode 0xC0108307 0x000001AB = .ok (.amoFaddBf16x2 1 2 3 5 1 7) ∧
    decode 0xC0518700 0x000007A9 = .ok (.amoCas 5 6 7 5 3 true 0) ∧
    decode 0xC123D000 0x00000480 = .ok (.amoAdd 18 15 16 4 0 true 0) := by decide

/-- Branches, loops, CSR and system instructions: the worked words of spec 10 and Table 13.8. -/
theorem test_decode_control :
    decode 0x61FFFFFB 0 = .ok (.br 3 true (-5)) ∧
    decode 0x6080000C 0 = .ok (.br 1 false 12) ∧
    decode 0x67F00028 0 = .ok (.jal 63 40) ∧
    decode 0x680FC000 0 = .ok (.jalr 0 63 0) ∧
    decode 0x6C500018 0 = .ok (.loop 5 3 0) ∧
    decode 0x6C080004 0 = .ok (.loopBrk 4) ∧
    decode 0x70500800 0 = .ok (.csrr 5 8 0) ∧
    decode 0x7060300A 0 = .ok (.csrw 6 0x030 2) ∧
    decode 0x70617F10 0 = .ok (.csrs 6 0x17F 0) ∧
    decode 0x70602018 0 = .ok (.csrc 6 0x020 0) ∧
    decode 0x74000000 0 = .ok (.nop 0) ∧
    decode 0x74014008 0 = .ok (.trap 5 0) ∧
    decode 0x74000010 0 = .ok (.eret 0) ∧
    decode 0x74000018 0 = .ok (.brk 0) ∧
    decode 0x74000020 0 = .ok (.yield 0) ∧
    decode 0x74000028 0 = .ok (.halt 0) ∧
    decode 0x74010030 0 = .ok (.ctxSave 4 0) ∧
    decode 0x74014038 0 = .ok (.ctxRest 5 0) ∧
    decode 0x74014040 0 = .ok (.xltFlush 5 0) := by decide

/-- Majors 0x1E to 0x23, with the worked words of spec 10 and spec 16. -/
theorem test_decode_synchronisation :
    decode 0x78000028 0 = .ok (.fence 5 0) ∧
    decode 0x78000061 0 = .ok (.fenceAcq 4 1) ∧
    decode 0x78000098 0 = .ok (.fenceRel 3 0) ∧
    decode 0x780000C2 0 = .ok (.fenceSm 0 2) ∧
    decode 0x7C100008 0 = .ok (.wait 1 1 0) ∧
    decode 0x7C280020 0 = .ok (.waitDec 2 4 0) ∧
    decode 0x80500008 0 = .ok (.sig 5 1 0) ∧
    decode 0x80580000 0 = .ok (.sigSet 5 0 0) ∧
    decode 0x84518701 0 = .ok (.waitaEq 5 6 7 1) ∧
    decode 0x8451870A 0 = .ok (.waitaNe 5 6 7 2) ∧
    decode 0x84518710 0 = .ok (.waitaGe 5 6 7 0) ∧
    decode 0x8451871B 0 = .ok (.waitaLt 5 6 7 3) ∧
    decode 0x84B18A20 0 = .ok (.waitaGen 11 6 10 0) ∧
    decode 0x880001D0 0 = .ok (.bar 7 2 0) ∧
    decode 0x88000060 0 = .ok (.bar 1 4 0) ∧
    decode 0x8C000018 0 = .ok (.syncStep 3 0) := by decide

/-- Majors 0x24 and 0x25, with the worked words of spec 04 and spec 06. -/
theorem test_decode_stream :
    decode 0x90A2C500 0 = .ok (.smAff 10 11 5 0) ∧
    decode 0x90B2C609 0 = .ok (.smAfw 11 11 6 1) ∧
    decode 0x90C2C712 0 = .ok (.smInd 12 11 7 2) ∧
    decode 0x90D2C81B 0 = .ok (.smSct 13 11 8 3) ∧
    decode 0x90E2C924 0 = .ok (.smUpd 14 11 9 4) ∧
    decode 0x90F2CA2D 0 = .ok (.smIsx 15 11 10 5) ∧
    decode 0x90A2C500 0 = .ok (.smAff 10 11 5 0) ∧
    decode 0x90B40108 0 = .ok (.smAfw 11 16 1 0) ∧
    decode 0x90C03F31 0 = .ok (.smBar 12 63 1) ∧
    decode 0x90D0023A 0 = .ok (.smKill 13 2 2) ∧
    decode 0x95478000 0 = .ok (.smLink 20 30 0 0) ∧
    decode 0x95574109 0 = .ok (.smRep 21 29 1 1) ∧
    decode 0x95670212 0 = .ok (.smSteer 22 28 2 2) ∧
    decode 0x9576C31B 0 = .ok (.smMerge 23 27 3 3) ∧
    decode 0x95868424 0 = .ok (.smDem 24 26 4 4) ∧
    decode 0x9596452D 0 = .ok (.smStop 25 25 5 5) ∧
    decode 0x95A60636 0 = .ok (.smSpill 26 24 6 6) ∧
    decode 0x95B5C73F 0 = .ok (.smTok 27 23 7 7) ∧
    decode 0x95C58840 0 = .ok (.smDrain 28 22 8 0) ∧
    decode 0x95D54949 0 = .ok (.wave 29 21 9 1) ∧
    decode 0x94047F08 0 = .ok (.smRep 0 17 63 0) ∧
    decode 0x95203F48 0 = .ok (.wave 18 0 63 0) ∧
    decode 0x95353F38 0 = .ok (.smTok 19 20 63 0) ∧
    decode 0x9565FF28 0 = .ok (.smStop 22 23 63 0) := by decide

/-- Majors 0x26 and 0x27: the worked words of Tables 7.6 and 8.5. -/
theorem test_decode_array :
    decode 0x98A2C100 0 = .ok (.arCarve 10 11 1 0) ∧
    decode 0x98C37F08 0 = .ok (.arHold 12 13 63 0) ∧
    decode 0x98C34210 0 = .ok (.arFeed 12 13 2 0) ∧
    decode 0x98E03F18 0 = .ok (.arStep 14 63 0) ∧
    decode 0x98A00420 0 = .ok (.mxRun 10 4 0) ∧
    decode 0x98C00328 0 = .ok (.arDrain 12 3 0) ∧
    decode 0x9851BF30 0 = .ok (.arZero 5 6 63 0) ∧
    decode 0x98903F38 0 = .ok (.arChk 9 0 63 0) ∧
    decode 0x98703F40 0 = .ok (.arCoop 7 63 0) ∧
    decode 0x98827F48 0 = .ok (.arMmap 8 9 63 0) ∧
    decode 0x9CA2C100 0 = .ok (.vePlane 10 11 1 0) ∧
    decode 0x9CC37F08 0 = .ok (.veSwap 12 13 63 0) ∧
    decode 0x9C824210 0 = .ok (.veBind 8 9 2 0) ∧
    decode 0x9C703F18 0 = .ok (.veStart 7 63 0) ∧
    decode 0x9C700320 0 = .ok (.veStop 7 3 0) ∧
    decode 0x9CA2C428 0 = .ok (.veRd 10 11 4 0) ∧
    decode 0x9CA2C430 0 = .ok (.veWr 10 11 4 0) ∧
    decode 0x9CC34538 0 = .ok (.veKonst 12 13 5 0) := by decide

/-- Majors 0x28 to 0x2A: the worked words of Table 9.4. -/
theorem test_decode_network :
    decode 0xA0A00100 0 = .ok (.nxPut 10 1 0) ∧
    decode 0xA0A00208 0 = .ok (.nxGet 10 2 0) ∧
    decode 0xA0A2C310 0 = .ok (.nxXget 10 11 3 0) ∧
    decode 0xA0C00418 0 = .ok (.nxSend 12 4 0) ∧
    decode 0xA0C00520 0 = .ok (.nxRoute 12 5 0) ∧
    decode 0xA0D03F28 0 = .ok (.nxRing 13 63 0) ∧
    decode 0xA0D03F30 0 = .ok (.nxChan 13 63 0) ∧
    decode 0xA4A00100 0 = .ok (.collGrp 10 1 0) ∧
    decode 0xA4A00208 0 = .ok (.collRed 10 2 0) ∧
    decode 0xA4A00210 0 = .ok (.collBc 10 2 0) ∧
    decode 0xA4A00218 0 = .ok (.collFlt 10 2 0) ∧
    decode 0xA4A00220 0 = .ok (.collAr 10 2 0) ∧
    decode 0xA8A00600 0 = .ok (.handRel 10 6 0) ∧
    decode 0xA8A00708 0 = .ok (.handAcq 10 7 0) ∧
    decode 0xA8A00810 0 = .ok (.handQuery 10 8 0) := by decide

/-- The instruction of a triggered word. -/
def ofTriggered (w : Nat) : Option Instr := trigInstr (trigOp w) (trigFields w)

/-- The worked words of spec 03 and spec 08. -/
theorem test_triggered_worked :
    ofTriggered 0x03014620004C0C87 = some (.fadd ⟨false, 0x06, 0x02, true, 3, 0, 0, 4, 771, 135⟩) ∧
    ofTriggered 0x00004024001C0348 = some (.fmul ⟨false, 0, 0, true, 0, 0, 0, 1, 768, 840⟩) ∧
    ofTriggered 0x00004230B41C0749 = some (.fcmp ⟨false, 0, 0, true, 1, 0, 2, 833, 769, 841⟩) ∧
    ofTriggered 0x0000443670300702 = some (.vsel ⟨false, 0, 0, true, 2, 0, 1, 771, 1, 770⟩) := by decide

/-- Words written out from Tables 3.7 and 3.9. -/
theorem test_triggered_1 :
    ofTriggered 0x00004000004C0C87 = some (.vadd ⟨false, 0, 0, true, 0, 0, 0, 4, 771, 135⟩) ∧
    ofTriggered 0x82010282405C0888 = some (.vsub ⟨true, 4, 2, false, 1, 1, 1, 5, 770, 136⟩) ∧
    ofTriggered 0x04024504806C0489 = some (.vmul ⟨false, 8, 4, true, 2, 2, 2, 6, 769, 137⟩) ∧
    ofTriggered 0x86030786C07C008A = some (.vmulh ⟨true, 12, 6, false, 3, 3, 3, 7, 768, 138⟩) ∧
    ofTriggered 0x08044809008BFC8B = some (.vmin ⟨false, 16, 8, true, 4, 0, 4, 8, 767, 139⟩) ∧
    ofTriggered 0x8A050A8B409BF88C = some (.vmax ⟨true, 20, 10, false, 5, 1, 5, 9, 766, 140⟩) ∧
    ofTriggered 0x0C064D0D80ABF48D = some (.vand ⟨false, 24, 12, true, 6, 2, 6, 10, 765, 141⟩) ∧
    ofTriggered 0x8E070F8FC0BBF08E = some (.vor ⟨true, 28, 14, false, 7, 3, 7, 11, 764, 142⟩) ∧
    ofTriggered 0x1008501000CBEC8F = some (.vxor ⟨false, 32, 16, true, 8, 0, 0, 12, 763, 143⟩) ∧
    ofTriggered 0x9209129240DBE890 = some (.vshl ⟨true, 36, 18, false, 9, 1, 1, 13, 762, 144⟩) ∧
    ofTriggered 0x140A551480EBE491 = some (.vshr ⟨false, 40, 20, true, 10, 2, 2, 14, 761, 145⟩) ∧
    ofTriggered 0x960B1796C0FBE092 = some (.vsra ⟨true, 44, 22, false, 11, 3, 3, 15, 760, 146⟩) ∧
    ofTriggered 0x180C5819010BDC93 = some (.vclz ⟨false, 48, 24, true, 12, 0, 4, 16, 759, 147⟩) ∧
    ofTriggered 0x9A0D1A9B411BD894 = some (.vpopc ⟨true, 52, 26, false, 13, 1, 5, 17, 758, 148⟩) := by decide

/-- Words written out from Tables 3.7 and 3.9. -/
theorem test_triggered_2 :
    ofTriggered 0x1C0E5D1D812BD495 = some (.vabs ⟨false, 56, 28, true, 14, 2, 6, 18, 757, 149⟩) ∧
    ofTriggered 0x9E0F1F9FC13BD096 = some (.vsad ⟨true, 60, 30, false, 15, 3, 7, 19, 756, 150⟩) ∧
    ofTriggered 0x20106020014BCC97 = some (.fadd ⟨false, 64, 32, true, 16, 0, 0, 20, 755, 151⟩) ∧
    ofTriggered 0xA21122A2415BC898 = some (.fsub ⟨true, 68, 34, false, 17, 1, 1, 21, 754, 152⟩) ∧
    ofTriggered 0x24126524816BC499 = some (.fmul ⟨false, 72, 36, true, 18, 2, 2, 22, 753, 153⟩) ∧
    ofTriggered 0xA61327A6C17BC09A = some (.ffma ⟨true, 76, 38, false, 19, 3, 3, 23, 752, 154⟩) ∧
    ofTriggered 0x28146829018BBC9B = some (.fmin ⟨false, 80, 40, true, 20, 0, 4, 24, 751, 155⟩) ∧
    ofTriggered 0xAA152AAB419BB89C = some (.fmax ⟨true, 84, 42, false, 21, 1, 5, 25, 750, 156⟩) ∧
    ofTriggered 0x2C166D2D81ABB49D = some (.fabs ⟨false, 88, 44, true, 22, 2, 6, 26, 749, 157⟩) ∧
    ofTriggered 0xAE172FAFC1BBB09E = some (.fneg ⟨true, 92, 46, false, 23, 3, 7, 27, 748, 158⟩) ∧
    ofTriggered 0x3018703001CBAC9F = some (.fcmp ⟨false, 96, 48, true, 24, 0, 0, 28, 747, 159⟩) ∧
    ofTriggered 0xB21932B241DBA8A0 = some (.fclass ⟨true, 100, 50, false, 25, 1, 1, 29, 746, 160⟩) ∧
    ofTriggered 0x341A753481EBA4A1 = some (.vcmp ⟨false, 104, 52, true, 26, 2, 2, 30, 745, 161⟩) ∧
    ofTriggered 0xB61B37B6C1FBA0A2 = some (.vsel ⟨true, 108, 54, false, 27, 3, 3, 31, 744, 162⟩) := by decide

/-- Words written out from Tables 3.7 and 3.9. -/
theorem test_triggered_3 :
    ofTriggered 0x381C7839020B9CA3 = some (.vmov ⟨false, 112, 56, true, 28, 0, 4, 32, 743, 163⟩) ∧
    ofTriggered 0xBA1D3AC1421B98A4 = some (.cvt ⟨true, 116, 58, false, 29, 1, 5, 33, 742, 164⟩) ∧
    ofTriggered 0x3C1E7D43822B94A5 = some (.mxq ⟨false, 120, 60, true, 30, 2, 6, 34, 741, 165⟩) ∧
    ofTriggered 0xBE1F3FC5C23B90A6 = some (.mxs ⟨true, 124, 62, false, 31, 3, 7, 35, 740, 166⟩) ∧
    ofTriggered 0x40204046024B8CA7 = some (.round ⟨false, 128, 64, true, 0, 0, 0, 36, 739, 167⟩) ∧
    ofTriggered 0xC22102C8425B88A8 = some (.cvti ⟨true, 132, 66, false, 1, 1, 1, 37, 738, 168⟩) ∧
    ofTriggered 0x44224550826B84A9 = some (.exp2 ⟨false, 136, 68, true, 2, 2, 2, 38, 737, 169⟩) ∧
    ofTriggered 0xC62307D2C27B80AA = some (.log2 ⟨true, 140, 70, false, 3, 3, 3, 39, 736, 170⟩) ∧
    ofTriggered 0x48244855028B7CAB = some (.rcp ⟨false, 144, 72, true, 4, 0, 4, 40, 735, 171⟩) ∧
    ofTriggered 0xCA250AD7429B78AC = some (.rsqrt ⟨true, 148, 74, false, 5, 1, 5, 41, 734, 172⟩) ∧
    ofTriggered 0x4C264D5982AB74AD = some (.sin ⟨false, 152, 76, true, 6, 2, 6, 42, 733, 173⟩) ∧
    ofTriggered 0xCE270FDBC2BB70AE = some (.cos ⟨true, 156, 78, false, 7, 3, 7, 43, 732, 174⟩) ∧
    ofTriggered 0x5028505C02CB6CAF = some (.tanh ⟨false, 160, 80, true, 8, 0, 0, 44, 731, 175⟩) ∧
    ofTriggered 0xD22912DE42DB68B0 = some (.sqrt ⟨true, 164, 82, false, 9, 1, 1, 45, 730, 176⟩) := by decide

/-- Words written out from Tables 3.7 and 3.9. -/
theorem test_triggered_4 :
    ofTriggered 0x542A556082EB64B1 = some (.perm ⟨false, 168, 84, true, 10, 2, 2, 46, 729, 177⟩) ∧
    ofTriggered 0xD62B17E2C2FB60B2 = some (.bcast ⟨true, 172, 86, false, 11, 3, 3, 47, 728, 178⟩) ∧
    ofTriggered 0x582C5865030B5CB3 = some (.pfx ⟨false, 176, 88, true, 12, 0, 4, 48, 727, 179⟩) ∧
    ofTriggered 0xDA2D1AE7431B58B4 = some (.lred ⟨true, 180, 90, false, 13, 1, 5, 49, 726, 180⟩) ∧
    ofTriggered 0x5C2E5D69832B54B5 = some (.clmul ⟨false, 184, 92, true, 14, 2, 6, 50, 725, 181⟩) ∧
    ofTriggered 0xDE2F1FEBC33B50B6 = some (.pack ⟨true, 188, 94, false, 15, 3, 7, 51, 724, 182⟩) ∧
    ofTriggered 0x6030606C034B4CB7 = some (.unpack ⟨false, 192, 96, true, 16, 0, 0, 52, 723, 183⟩) ∧
    ofTriggered 0xE23122F0435B48B8 = some (.pset ⟨true, 196, 98, false, 17, 1, 1, 53, 722, 184⟩) ∧
    ofTriggered 0x64326572836B44B9 = some (.enq ⟨false, 200, 100, true, 18, 2, 2, 54, 721, 185⟩) ∧
    ofTriggered 0xE63327F4C37B40BA = some (.stop ⟨true, 204, 102, false, 19, 3, 3, 55, 720, 186⟩) ∧
    ofTriggered 0x68346877038B3CBB = some (.deq ⟨false, 208, 104, true, 20, 0, 4, 56, 719, 187⟩) ∧
    ofTriggered 0xEA352AF9439B38BC = some (.poi ⟨true, 212, 106, false, 21, 1, 5, 57, 718, 188⟩) ∧
    ofTriggered 0x6C366D7B83AB34BD = some (.trigSig ⟨false, 216, 108, true, 22, 2, 6, 58, 717, 189⟩) ∧
    ofTriggered 0xEE372FFDC3BB30BE = some (.rnd ⟨true, 220, 110, false, 23, 3, 7, 59, 716, 190⟩) := by decide

/-- Words written out from Tables 3.7 and 3.9. -/
theorem test_triggered_5 :
    ofTriggered 0x7038707E03CB2CBF = some (.trigNop ⟨false, 224, 112, true, 24, 0, 0, 60, 715, 191⟩) := by decide

/-- Reserved operations of Table 3.9. -/
theorem test_triggered_reserved :
    trigInstr 0x1D ⟨false, 0, 0, false, 0, 0, 0, 0, 0, 0⟩ = none ∧ trigInstr 0x1F ⟨false, 0, 0, false, 0, 0, 0, 0, 0, 0⟩ = none ∧ trigInstr 0x25 ⟨false, 0, 0, false, 0, 0, 0, 0, 0, 0⟩ = none ∧ trigInstr 0x27 ⟨false, 0, 0, false, 0, 0, 0, 0, 0, 0⟩ = none ∧ trigInstr 0x37 ⟨false, 0, 0, false, 0, 0, 0, 0, 0, 0⟩ = none := by decide

/-- Encodings of Table 3.5. -/
theorem test_decode_refused :
    decode 0x2C000000 0 = .error .reservedMajor ∧
    decode 0xAC000000 0 = .error .reservedMajor ∧
    decode 0xCC000000 0 = .error .reservedMajor ∧
    decode 0xFC000000 0 = .error .reservedMajor ∧
    decode 0x000000C0 0 = .error .reservedCode ∧
    decode 0x04000058 0 = .error .reservedCode ∧
    decode 0x04000100 0 = .error .nonzeroField ∧
    decode 0x08800000 0 = .error .nonzeroField ∧
    decode 0x08000038 0 = .error .reservedCode ∧
    decode 0x0C800000 0 = .error .nonzeroField ∧
    decode 0x20000200 0 = .error .nonzeroField ∧
    decode 0x20002000 0 = .error .reservedCode ∧
    decode 0x30000028 0 = .error .reservedCode ∧
    decode 0x34000040 0 = .error .nonzeroField ∧
    decode 0x40003800 0 = .error .badSize ∧
    decode 0x44002000 0 = .error .nonzeroField ∧
    decode 0x50000030 0 = .error .badScope ∧
    decode 0x68000100 0 = .error .nonzeroField ∧
    decode 0x6C500000 0 = .error .emptyLoop ∧
    decode 0x74100000 0 = .error .nonzeroField ∧
    decode 0x74000048 0 = .error .reservedCode ∧
    decode 0x78000038 0 = .error .badScope ∧
    decode 0x7FF00008 0 = .error .nullWait ∧
    decode 0x7FF80008 0 = .error .nullWait ∧
    decode 0x88000000 0 = .error .badLevel ∧
    decode 0x88000028 0 = .error .badLevel ∧
    decode 0x8C000000 0 = .error .badLevel ∧
    decode 0x90000040 0 = .error .reservedCode ∧
    decode 0xA0104100 0 = .error .nonzeroField := by decide

/-! ### States for the tests: one crew on core 0, its strand 0 at 0x1000 -/

def strand0 : Strand :=
  { emptyStrand with
    present := true
    pc := 0x1000
    p := 2
    x := [(5, 7), (6, 3)] }

/-- A crew of four strands with strand 0 as given. -/
def crewOf (t : Strand) : Crew :=
  { emptyCrew with
    info := { emptyInfo with nstr := 4 }
    strands := [(0, t)] }

/-- The device with a crew on core 0, whose handler stands at 0x8000. -/
def deviceOf (w : Crew) : State := { State.reset with cores := [(0, ⟨true, w, 0x8000⟩)] }

/-- The device with a strand 0 of core 0. -/
def deviceWith (t : Strand) : State := deviceOf (crewOf t)

def monitor0 : Strand := { strand0 with status := 3 }
def looping (n : Word) : Strand := { strand0 with loops := [⟨0x0FF0, 0x1000, n⟩] }
def trappedOnce : Strand := { monitor0 with traps := [⟨0x2002, 0x0B, 5, 1, 10, 11, 12, 13⟩] }

/-! ### The hypotheses of the statements can be met: one witness for each clause -/

/-- IntegerBinaryResult. -/
theorem test_meets_binary : (∃ f, binaryRow (.add 4 5 6 1) = some (4, 5, 6, 1, f)) ∧ (deviceWith strand0).me.getP 1 = true := ⟨⟨_, rfl⟩, by decide⟩
/-- UnaryAndImmediateResult. -/
theorem test_meets_unary : (∃ f, unaryRow (.clz 4 5 1) = some (4, 5, 1, f)) ∧ (deviceWith strand0).me.getP 1 = true := ⟨⟨_, rfl⟩, by decide⟩
/-- PredicateAndSelect: a compare, and a select. -/
theorem test_meets_compare : (∃ c, compareRow (deviceWith strand0).me (.cmpLt 2 6 5 1) = some (2, 1, c)) ∧
    (∃ v, selectRow (deviceWith strand0).me (.sel 9 5 6 1 0) = some (9, 0, v)) ∧ (deviceWith strand0).me.getP 1 = true :=
  ⟨⟨_, rfl⟩, ⟨_, rfl⟩, by decide⟩
/-- FalseGuardOnlyAdvances, with a long form. -/
theorem test_meets_false_guard : guardOf (.ldGlL 7 5 2 100000 2) = some 2 ∧ permitted (deviceWith strand0).me.monitor (.ldGlL 7 5 2 100000 2) = true ∧
    (deviceWith strand0).me.getP 2 = false := by decide
/-- Loops: a level that ends here with 2 and with 1 iterations left, and one that ends elsewhere. -/
theorem test_meets_loop_end : (looping 2).loops = [⟨0x0FF0, 0x1000, 2⟩] ∧ (0x1000 : Word) = (looping 2).pc + BitVec.ofNat 64 4 - 4 ∧ 1 < (2 : Word).toNat ∧
    (looping 1).loops = [⟨0x0FF0, 0x1000, 1⟩] ∧ (0x1000 : Word) ≠ (looping 1).pc + BitVec.ofNat 64 8 - 4 := by decide
/-- Loops: a count above 0 with room, with no room, a count of 0, and a level to leave. -/
theorem test_meets_loops : strand0.getX 5 ≠ 0 ∧ strand0.loops.length < 2 ∧
    ({ strand0 with loops := [⟨0, 0, 1⟩, ⟨0, 0, 1⟩] } : Strand).loops.length = 2 ∧ strand0.getX 9 = 0 ∧ (looping 1).getP 0 = true ∧ strand0.loops = [] := by
  decide
/-- BranchesAndJumps: taken, not taken, a jump to 0x1000 and one to 7. -/
theorem test_meets_branches : strand0.getP 1 ≠ false ∧ strand0.getP 2 = false ∧
    (({ strand0 with x := [(5, 0x1000)] } : Strand).getX 5).toNat % 4 = 0 ∧ (strand0.getX 5).toNat % 4 ≠ 0 := by decide
/-- ControlRegisters: a read, and a write whose value passes the checks. -/
theorem test_meets_csr : csrReadable 0x009 strand0.monitor = true ∧ csrSource (deviceWith strand0) (.csrw 5 0x022 1) = some (0x022, 1, 7) ∧
    csrWritable 0x022 strand0.monitor = true ∧ csrRefuses 0x022 7 = false ∧ strand0.getP 1 = true := by decide
/-- PrivilegedAccess: eret in kernel mode, a write of a read-only CSR, and a limit of 0. -/
theorem test_meets_privileged : privilegedWord (.eret 0) = some 0x74000010 ∧ permitted strand0.monitor (.eret 0) = false ∧
    permitted strand0.monitor (.csrw 5 0x000 0) = false ∧ csrWritable 0x023 strand0.monitor = true ∧ csrRefuses 0x023 0 = true := by decide
/-- ControlRegisters: a strand with a trap level, whose CSRs are read. -/
theorem test_meets_trap_csrs : ((deviceWith trappedOnce).strandAt 0 0).traps = [⟨0x2002, 0x0B, 5, 1, 10, 11, 12, 13⟩] ∧ (0 : Nat) < 448 := by decide
/-- TrapTaking and SystemInstructions: room on the trap stack, and none. -/
theorem test_meets_traps : ((deviceWith strand0).strandAt 0 0).traps.length < 2 ∧
    ((deviceWith { trappedOnce with traps := [emptyLevel, emptyLevel] }).strandAt 0 0).traps.length = 2 := by decide
/-- TrapReturn: a level to pop, and an epc that is a multiple of 4. -/
theorem test_meets_eret : (deviceWith trappedOnce).me.monitor = true ∧ (deviceWith trappedOnce).me.traps = [⟨0x2002, 0x0B, 5, 1, 10, 11, 12, 13⟩] ∧
    (0x2000 : Word).toNat % 4 = 0 ∧ (strand0.status &&& ~~~0x33) = 0 := by decide
/-- SystemInstructions: halt with no trap pending. -/
theorem test_meets_halt : (deviceWith strand0).me.getP 0 = true ∧ (deviceWith strand0).me.pending = [] := by decide

theorem tget_member {α : Type} (t : Tab α) (k : Nat) (d : α) : tget t k d = d ∨ ∃ p ∈ t, p.2 = tget t k d := by
  induction t with
  | nil => exact .inl rfl
  | cons p t ih =>
    obtain ⟨i, v⟩ := p
    by_cases h : k = i
    · exact .inr ⟨(i, v), by simp, by simp [tget, h]⟩
    · obtain h1 | ⟨q, hq, h1⟩ := ih
      · exact .inl (by simpa [tget, h] using h1)
      · exact .inr ⟨q, by simp [hq], by simpa [tget, h] using h1⟩

/-- A device all of whose listed memories are canonical. -/
theorem memoriesWf_of (s : State) (h : Memory.wf s.hbm = true) (h1 : Memory.wf s.host = true)
    (h2 : s.cores.all (fun p => Memory.wf p.2.crew.pool) = true) : memoriesWf s := by
  refine ⟨h, h1, fun c => ?_⟩
  show Memory.wf (tget s.cores c emptyCore).crew.pool = true
  obtain h3 | ⟨p, hp, h3⟩ := tget_member s.cores c emptyCore
  · rw [h3]; rfl
  · rw [← h3]; exact List.all_eq_true.mp h2 p hp

/-! ### Memory -/

/-- The device in full service with a crew on core 0 of cluster 0, whose translation cache maps 0x10000 to device HBM at 0x20000, 0x20000 to host
memory at 0x30000 and 0x30000 to device 5 at 0x40000. -/
def mappedOf (w : Crew) : State :=
  { deviceOf w with
    clusters := [(0, ⟨[⟨none, 0, 1, 0x200DF⟩, ⟨none, 0, 2, 0x0801_0000_0003_00DF⟩, ⟨none, 0, 3, 0x0808_0500_0004_00DF⟩], [], none, []⟩)]
    hbm := [(0x20008, 0x88), (0x20009, 0x77)]
    host := [(0x30010, 0x99)]
    fabric := { emptyFabric with routes := [(20, 0x100003)] }
    sys := { emptySys with
      service := 2
      trained := List.range 16
      memDies := [0, 1, 2, 3]
      dies := [0, 1, 2, 3]
      bounds := [0, 1, 2, 3]
      links := [0]
      ports := List.range 16
      firmware := [0, 1, 2, 3]
      devid := 1
      lock := true } }

def strandAt (a v : Word) : Strand :=
  { emptyStrand with
    present := true
    pc := 0x1000
    x := [(5, a), (6, v)] }

def mapped (a v : Word) : State := mappedOf (crewOf (strandAt a v))
def buffered : BufStore := ⟨.sp 0x40, [1, 2, 3, 4], 0⟩
def fullBuffer : Strand := { strandAt 0x40 0x1122 with buffer := List.replicate 16 buffered }

/-- MemoryReadAfterWrite: a memory in canonical form, bytes inside and beside those stored. -/
theorem test_meets_memory : Memory.wf [(3, 1), (9, 2)] = true ∧ (1 : Nat) < [(7 : Byte), 0].length ∧ (2 : Nat) < 3 ∧ 3 + [(7 : Byte), 0].length ≤ 5 := by decide
/-- ScratchpadAccess: a load of the last 8 bytes of the scratchpad, one of a mapping entry's word, and one of the last map. -/
theorem test_meets_scratch_load : scratchBytes 0 = 4161536 ∧ (BitVec.ofInt 64 (((strandAt 4161536 0).getX 5).toInt + (255 : BitVec 8).toInt * 8)).toNat = 4161528 ∧
    4161528 % 8 = 0 ∧ (deviceWith (strandAt 4161536 0)).poisonedAt (.pool 0 4161528) 8 = false ∧
    (BitVec.ofInt 64 (((strandAt 0x400000 0).getX 5).toInt + (1 : BitVec 8).toInt * 8)).toNat = 0x400008 ∧
    (BitVec.ofInt 64 (((strandAt 0x400180 0).getX 5).toInt + (255 : BitVec 8).toInt * 8)).toNat = 0x400178 := by decide
/-- ScratchpadAccess: a store with room in the buffer and one without, one of a map, and one of an unregistered entry's field. -/
theorem test_meets_scratch_store : (strandAt 0x40 0).buffer.length < 16 ∧ fullBuffer.buffer.length = 16 ∧
    ((strandAt 0x400178 0xFFFFFFFFFFFF).getX 6).toNat < 2 ^ 48 ∧ 0x400178 % 8 = 0 ∧
    (tget (crewOf strand0).entries (4 * ((0x4000F8 - 0x400000) / 32)) 0).getLsbD 0 = false ∧ 0x4000F8 % 32 ≠ 0 := by decide
/-- ScratchpadTraps: misaligned, outside every range just below and just above, and a word of the control range by halves. -/
theorem test_meets_scratch_traps : spRow (.ldSp 4 5 2 0 0) = some (2, 5, 0, 0) ∧ 0x41 % 4 ≠ 0 ∧ scratchBytes 0 ≤ 0x3FFFFC ∧ 0x3FFFFC < 0x400000 ∧
    0x400180 ≤ 0x400180 ∧ 0x400180 % 4 = 0 ∧ 0x40017C % 4 = 0 ∧ 0x40017C < 0x400180 ∧ (4 : Nat) ≠ 8 := by decide
/-- StoreBuffers: a store that is posted, and one that is performed. -/
theorem test_meets_store_buffers : (∃ t, exec (.stSp 6 5 2 0 0) (deviceWith (strandAt 0x40 0x11223344)) = .next t) ∧
    ((deviceWith { strand0 with buffer := [buffered] }).strandAt 0 0).buffer = buffered :: [] ∧ memoriesWf (deviceWith { strand0 with buffer := [buffered] }) ∧
    (deviceWith { strand0 with buffer := [buffered] }).storeWaits buffered = false :=
  ⟨⟨_, rfl⟩, rfl, memoriesWf_of _ rfl rfl (by decide), by decide⟩
/-- GlobalAccess: a load of device HBM, one of host memory, and a misaligned one. -/
theorem test_meets_global_load : (∃ s1, (mapped 0x10008 0).scalarReach 0x10008 8 (mapped 0x10008 0).needLoad = (.ok 0x20008 0x200DF, s1) ∧
      localPlace s1 (s1.locOf 0x20008) = true ∧ s1.poisonedAt (s1.locOf 0x20008) 8 = false) ∧
    globalLoad (mapped 0x10008 0).me (.ldAcq 4 5 3 5 0) = some (4, 0x10008, 3, 0) ∧
    (∃ s1, (mapped 0x20010 0).scalarReach 0x20010 8 (mapped 0x20010 0).needLoad = (.ok 0x1_0000_0003_0010 0x0801_0000_0003_00DF, s1) ∧
      localPlace s1 (s1.locOf 0x1_0000_0003_0010) = true) ∧
    (0x10009 : Word).toNat % 2 ^ (1 % 4) ≠ 0 :=
  ⟨⟨_, Prod.ext (by decide) rfl, by decide, by decide⟩, by decide, ⟨_, Prod.ext (by decide) rfl, by decide⟩, by decide⟩
/-- GlobalAccess: a store to device HBM, one to host memory, and a misaligned one. -/
theorem test_meets_global_store : (∃ s1, (mapped 0x10008 7).scalarReach 0x10008 8 (mapped 0x10008 7).needStore = (.ok 0x20008 0x200DF, s1) ∧
      (∃ x, s1.locOf 0x20008 = .hbm x) ∧ s1.windowWritable 0 0x20008 = true) ∧ (mapped 0x10008 7).me.buffer.length < 16 ∧
    globalStore (mapped 0x10008 7).me (.stGlL 6 5 3 0 0) = some (7, 0x10008, 3, 0) ∧
    (∃ s1, (mapped 0x20010 7).scalarReach 0x20010 8 (mapped 0x20010 7).needStore = (.ok 0x1_0000_0003_0010 0x0801_0000_0003_00DF, s1) ∧
      s1.locOf 0x1_0000_0003_0010 = .host 0x30010 ∧ s1.hostUp = true ∧ memoriesWf s1) ∧
    (0x10009 : Word).toNat % 2 ^ (1 % 4) ≠ 0 :=
  ⟨⟨_, Prod.ext (by decide) rfl, ⟨_, rfl⟩, by decide⟩, by decide, by decide,
    ⟨_, Prod.ext (by decide) rfl, by decide, by decide, memoriesWf_of _ (by decide) (by decide) (by decide)⟩, by decide⟩
/-- RemoteAccess: a load and a store of another device, with a route and with none. -/
theorem test_meets_remote : (∃ s1, (mapped 0x30008 7).scalarReach 0x30008 8 (mapped 0x30008 7).needLoad = (.ok 0x8_0500_0004_0008 0x0808_0500_0004_00DF, s1) ∧
      s1.locOf 0x8_0500_0004_0008 = .remote 5 0x40008 ∧ s1.routeUp 5 = true) ∧
    (∃ s1, (mapped 0x30008 7).scalarReach 0x30008 8 (mapped 0x30008 7).needStore = (.ok 0x8_0500_0004_0008 0x0808_0500_0004_00DF, s1)) ∧
    ({ mapped 0x30008 7 with fabric := emptyFabric } : State).routeUp 5 = false :=
  ⟨⟨_, Prod.ext (by decide) rfl, by decide, by decide⟩, ⟨_, Prod.ext (by decide) rfl⟩, by decide⟩
/-- RemoteAccess: an atomic of another device, with a route and with none, and one of a float operation at a page without aproxy. -/
theorem test_meets_remote_atomic : (∃ f, atomicRow (.amoAdd 4 5 6 0 2 true 0) = some (4, 5, 6, true, 64, 0, f, true)) ∧
    (∃ f, atomicRow (.amoFaddF32 4 5 6 0 0 0) = some (4, 5, 6, false, 32, 0, f, false)) ∧
    (∃ s1 s3, (mapped 0x30008 7).scalarReach 0x30008 8 ((mapped 0x30008 7).needAtomic false) = (.ok 0x8_0500_0004_0008 0x0808_0500_0004_00DF, s1) ∧
      s1.locOf 0x8_0500_0004_0008 = .remote 5 0x40008 ∧ (s1.drainStrand 0 0).routeUp 5 = true ∧ leafAproxy 0x0808_0500_0004_00DF = false ∧
      (s1.drainStrand 0 0).reach 0 0 0x30008 8 ((s1.drainStrand 0 0).needAtomic true) = (.ok 0x8_0500_0004_0008 0x0808_0500_0004_00DF, s3)) ∧
    (∀ d a b c r w g, Instr.amoAdd 4 5 6 0 2 true 0 ≠ .amoCas d a b c r w g) :=
  ⟨⟨_, rfl⟩, ⟨_, rfl⟩, ⟨_, _, Prod.ext (by decide) rfl, by decide, by decide, by decide, Prod.ext (by decide) rfl⟩, nofun⟩
/-- AtomicResult: a release and another order. -/
theorem test_meets_atomic : (∃ f, atomicRow (.amoMin 4 5 6 0 2 true 0) = some (4, 5, 6, true, 64, 0, f, true)) ∧
    (∃ f, atomicRow (.amoFaddF32 4 5 6 0 0 0) = some (4, 5, 6, false, 32, 0, f, false)) ∧ 0x10008 % (64 / 8) = 0 ∧
    (∃ s1 s3, (mapped 0x10008 7).scalarReach 0x10008 8 ((mapped 0x10008 7).needAtomic false) = (.ok 0x20008 0x200DF, s1) ∧ s1.locOf 0x20008 = .hbm 0x20008 ∧
      (∀ x, Loc.hbm 0x20008 = .host x → leafPolicy 0x200DF ≠ 2) ∧ localPlace (s1.drainStrand 0 0) (.hbm 0x20008) = true ∧
      (s1.drainStrand 0 0).windowWritable 0 0x20008 = true ∧ (s1.drainStrand 0 0).updatePending (.hbm 0x20008) 8 = false ∧
      (s1.drainStrand 0 0).bytesAt (.hbm 0x20008) 8 = (s1.drainStrand 0 0).rawBytes (.hbm 0x20008) 8 ∧ (s1.drainStrand 0 0).poisonedAt (.hbm 0x20008) 8 = false ∧
      (s1.drainStrand 0 0).reach 0 0 0x10008 8 ((s1.drainStrand 0 0).needAtomic true) = (.ok 0x20008 0x200DF, s3) ∧ memoriesWf s3) :=
  ⟨⟨_, rfl⟩, ⟨_, rfl⟩, by decide, _, _, Prod.ext (by decide) rfl, by decide, nofun, by decide, by decide, by decide, by decide, by decide,
    Prod.ext (by decide) rfl, memoriesWf_of _ (by decide) (by decide) (by decide)⟩
/-- CacheAndTranslation: a cache form on a line of device HBM. -/
theorem test_meets_cache_form : cacheRow (.clInv 5 2 0) = some (5, false, 0) ∧ cacheRow (.clWb 5 3 0) = some (5, true, 0) ∧ leafPolicy 0x200DF ≠ 2 ∧
    isFabricPa 0x20008 = false ∧ windowByte ((mapped 0x10008 7).drainStrand 0 0).windows 0x20008 = none ∧
    (mapped 0x10008 7).cutOff (.hbm 0x20008) = none := by decide
/-- FetchAndWithheldProceed: words at the pc, a fetch held and one not; and an access whose page is there. -/
theorem test_meets_fetch : (∃ s1, (mappedOf (crewOf { strand0 with pc := 0x10008 })).fetch 0 0 = (.words 0x7788 0, s1)) ∧
    (mappedOf (crewOf { strand0 with pc := 0x10008 })).atMonitor 0 0 = false ∧ (crewOf strand0).stopped = false ∧
    ((mappedOf (crewOf { strand0 with hold := .withheld 0x10008 3 })).strandAt 0 0).hold = .withheld 0x10008 3 ∧
    (mappedOf (crewOf { strand0 with hold := .withheld 0x10008 3 })).stillWithheld 0 0 0x10008 = false ∧
    (mappedOf (crewOf { strand0 with hold := .unit 0x20008 8 })).updatePending ((mappedOf (crewOf { strand0 with hold := .unit 0x20008 8 })).locOf 0x20008) 8 =
      false :=
  ⟨⟨_, Prod.ext (by decide) rfl⟩, by decide, by decide, by decide, by decide, by decide⟩
/-- RemoteAccess: the answer to a load, and to a store. -/
theorem test_meets_atomic_answer (p : Pending) (h : p = ⟨4, 8, false, false, none, 0x30008, 0, some (9, 7, 5), [], 8, 0, 0⟩) :
    ({ strand0 with hold := .response p } : Strand).hold = .response p ∧ p.store = false ∧ p.size = 8 ∧ p.atomic = some (9, 7, 5) ∧ p.watch = none := by
  subst h; decide
theorem test_meets_answer (p : Pending) (h : p = ⟨4, 2, true, false, none, 0x30008, 0, none, [], 4, 0, 0⟩) :
    ({ strand0 with hold := .response p } : Strand).hold = .response p ∧ p.store = false ∧ p.size ≤ 8 ∧ p.atomic = none ∧ p.watch = none ∧
      { p with store := true }.store = true := by
  subst h; decide

/-- A crew registering a window of one page over 0x10000 at sp 0. -/
def registering : State := mappedOf { crewOf { strand0 with hold := .window 1 0x1 none } with entries := [(6, 0x10000), (7, 1)] }
/-- The same window registered, with its first line dirty, while its unregistration is awaited. -/
def registered : State :=
  { mappedOf { crewOf { strand0 with hold := .window 1 0 none } with entries := [(4, 1), (6, 0x10000), (7, 1)], pool := [(0, 0xAB)] } with
    windows := [⟨0, 1, 0, 0x10000, [0x20000], false, [0]⟩] }
/-- WindowSteps. -/
theorem test_meets_windows : (registering.crew 0).windowHolder 1 = some (0, 0x1) ∧ (0x1 : Word).getLsbD 0 = true ∧
    (∃ u s', u = registering.drainStrand 0 0 ∧ 1 ≤ (u.crew 0).entryField 1 3 ∧ (u.crew 0).entryField 1 3 ≤ 63 ∧ (u.crew 0).entryField 1 1 % 65536 = 0 ∧
      (u.crew 0).entryField 1 2 % 65536 = 0 ∧ (u.crew 0).entryField 1 2 < 2 ^ 56 ∧
      (u.crew 0).entryField 1 1 + 65536 * (u.crew 0).entryField 1 3 ≤ (u.crew 0).spSize ∧
      u.windowFrames 0 ((u.crew 0).entryField 1 2) ((u.crew 0).entryField 1 3) = (([0x20000], none), s') ∧
      s'.windowClash 0 1 ((u.crew 0).entryField 1 1) ((u.crew 0).entryField 1 2) ((u.crew 0).entryField 1 3) [0x20000] = false ∧ memoriesWf s') ∧
    registered.windowBusy 0 1 = false ∧ Memory.wf (registered.drainStrand 0 0).hbm = true ∧ (∀ f ∈ [0x20000], f % 65536 = 0) ∧
    (registered.crew 0).windowHolder 1 = some (0, 0) ∧
    registered.windows.find? (fun y => y.core == 0 && y.entry == 1) = some ⟨0, 1, 0, 0x10000, [0x20000], false, [0]⟩ ∧ smem [0] 0 = true :=
  ⟨by decide, by decide, ⟨_, _, rfl, by decide, by decide, by decide, by decide, by decide, by decide, Prod.ext (by decide) rfl, by decide,
    memoriesWf_of _ (by decide) (by decide) (by decide)⟩, by decide, by decide, by decide, by decide, by decide, by decide⟩
/-- HostAccesses: beyond device HBM, at its last byte, and a line of the host's memory. -/
theorem test_meets_host : (2 : Nat) ^ 40 ≤ 1099511627776 ∧ 1099511627775 + [(7 : Byte)].length ≤ 2 ^ 40 ∧ (mapped 0 0).hostUp = true ∧
    (mapped 0 0).sys.service = 2 ∧ (mapped 0 0).homeUp 1099511627775 1 = true ∧ (mapped 0 0).suuHolds 1099511627775 1 = false ∧ tget (mapped 0 0).sys.tdisp 0 0 ≠ 3 ∧
    (mapped 0 0).homeRefusal 1099511627775 1 true = 0 ∧ (mapped 0 0).homeRefusal 1099511627775 1 false = 0 ∧ (0x30010 : Nat) < 2 ^ 48 := by decide

/-! ### Synchronisation -/

def withSem (n : BitVec 16) : State := deviceOf { crewOf strand0 with sems := [(4, n)] }
/-- SemaphoreResult: below and at the threshold, and a sum that reaches and one that passes 65,535. -/
theorem test_meets_semaphores : (withSem 4).mine.sem 4 < (5 : BitVec 16).toNat ∧ (5 : BitVec 16).toNat ≤ (withSem 5).mine.sem 4 ∧ (4 : Reg) ≠ 63 ∧
    (withSem 65530).mine.sem 4 + 5 = 65535 ∧ 65535 < (withSem 65530).mine.sem 4 + 6 ∧ ((withSem 0).mine.semMove 4).added = 0 ∧
    ((withSem 0).mine.semMove 4).raised = false ∧ ((withSem 0).mine.semMove 4).taken = 0 := by decide
/-- R277: f2 at 0 with a completion and a sig.set to 5 in one cc ends at 6. -/
theorem test_sig_set_same_cc : ((((withSem 0).mine.addSem 2 1).putSem 2 5).sem 2) = 6 := by decide
/-- FenceAndWaita: a buffer that has drained and one that has not. -/
theorem test_meets_fences : strand0.buffer = [] ∧ fullBuffer.buffer ≠ [] ∧ tget (crewOf strand0).streams.open_ 0 0 = 0 ∧ strand0.getP 0 = true := by decide
/-- FenceAndWaita: a condition that holds and one that does not; a misaligned address; and a strand that reads again. -/
theorem test_meets_waita : (∃ c, waitaRow (.waitaGe 4 5 6 0) = some (4, 5, 6, 0, c) ∧ c 0x7788 7 ∧ ¬ c 0x7788 0x7789) ∧ 0x10008 % 8 = 0 ∧
    (∃ s1, (mapped 0x10008 7).scalarReach 0x10008 8 (mapped 0x10008 7).needLoad = (.ok 0x20008 0x200DF, s1) ∧ localPlace s1 (s1.locOf 0x20008) = true ∧
      s1.poisonedAt (s1.locOf 0x20008) 8 = false ∧ (0x7788 : Word) = BitVec.ofNat 64 (ofBytes (s1.loadBytes 0 0 (s1.locOf 0x20008) 8))) ∧
    0x1000C % 8 ≠ 0 :=
  ⟨⟨_, rfl, by decide, by decide⟩, by decide, ⟨_, Prod.ext (by decide) rfl, by decide, by decide, by decide⟩, by decide⟩
/-- A strand held by waita.ge d = 4, a = 5, b = 6 on the word at 0x20008, whose comparand the word reaches, and one whose comparand it does not. -/
def watching (v : Word) : State := mappedOf (crewOf { strandAt 0x10008 v with hold := .watch 0x20008 0 ⟨2, 4, 5, 6⟩ })
theorem test_meets_reread : ((watching 7).strandAt 0 0).hold = .watch 0x20008 0 ⟨2, 4, 5, 6⟩ ∧ ((watching 7).crew 0).stopped = false ∧
    (∃ c, watchedRow ⟨2, 4, 5, 6⟩ = some (4, 5, 6, c) ∧ c 0x7788 7 ∧ ¬ c 0x7788 0x7789) ∧ 0x10008 % 8 = 0 ∧
    (∃ s1, ((watching 7).at 0 0).scalarReach 0x10008 8 ((watching 7).at 0 0).needLoad = (.ok 0x20008 0x200DF, s1) ∧
      localPlace s1 (s1.locOf 0x20008) = true ∧ s1.poisonedAt (s1.locOf 0x20008) 8 = false) :=
  ⟨by decide, by decide, ⟨_, rfl, by decide, by decide⟩, by decide, ⟨_, Prod.ext (by decide) rfl, by decide, by decide⟩⟩
/-- WaitaResult: the word of a fabric access comes for a waita.ge d = 4, a = 5, b = 6 that watches it. -/
def answering (v : Word) : State :=
  deviceWith { strandAt 0x30008 v with hold := .response ⟨4, 8, false, false, some ⟨2, 4, 5, 6⟩, 0x30008, 0x40008, none, [], 8, 3, 0⟩ }
theorem test_meets_watched_answer : ((answering 7).strandAt 0 0).hold = .response ⟨4, 8, false, false, some ⟨2, 4, 5, 6⟩, 0x30008, 0x40008, none, [], 8, 3, 0⟩ ∧
    (∃ c, watchedRow ⟨2, 4, 5, 6⟩ = some (4, 5, 6, c) ∧ c 0x7788 (((answering 7).strandAt 0 0).getX 6) ∧ ¬ c 0x7788 (((answering 0x7789).strandAt 0 0).getX 6)) :=
  ⟨by decide, _, rfl, by decide, by decide⟩
/-- A strand counted at generation 2 of barrier 5 among the crew's strands. -/
def arrived : Strand := { strand0 with hold := .barrier 1 5 2 9, arrivals := [(1, 5, 2)] }
def barred (l : List (Nat × Nat)) : State :=
  { deviceOf { crewOf arrived with info := { emptyInfo with nstr := 1 } } with cp := { emptyCp with barriers := [⟨0, 0, 1, 5, 2, l⟩] } }
/-- BarrierResult: no arrival of its own outstanding, one counted before, and a generation at which all have arrived. -/
theorem test_meets_barriers : (∀ a ∈ (deviceWith strand0).me.arrivals, ¬ (a.1 = 1 ∧ a.2.1 = 5)) ∧ (deviceWith strand0).me.buffer = [] ∧
    (deviceWith strand0).mine.nxStepIdle 0 = true ∧ (barred []).me.arrivals.find? (fun a => a.1 == 1 && a.2.1 == 5) = some (1, 5, 2) ∧
    ((barred [(0, 0)]).strandAt 0 0).hold.generation = some (1, 5, 2) ∧ ((barred [(0, 0)]).core 0).held = true ∧
    ((barred [(0, 0)]).barrier ((barred [(0, 0)]).crew 0).info 1 5).gen = 2 ∧
    (barred [(0, 0)]).localArrived ((barred [(0, 0)]).barrier ((barred [(0, 0)]).crew 0).info 1 5) = true ∧
    (barred [(0, 0)]).domainArrived ((barred [(0, 0)]).barrier ((barred [(0, 0)]).crew 0).info 1 5) = true := by decide
/-- TrapTaking: a pending asynchronous trap. -/
theorem test_meets_async (p : Pending) : ({ strand0 with pending := [(0x0D, 3), (0x12, 4)] } : Strand).ie = true ∧ strand0.present = true ∧ strand0.halted = false ∧
    (∀ q, strand0.hold ≠ .response q) ∧ ({ strand0 with hold := .watch 8 0 ⟨0, 0, 0, 0⟩ } : Strand).hold ≠ .response p :=
  ⟨by decide, by decide, by decide, nofun, nofun⟩
/-- ContextRecords: a save on a page of device HBM. -/
theorem test_meets_ctx_save : 0x10400 % 1024 = 0 ∧ (∃ s1, (mapped 0x10400 7).scalarReach 0x10400 1024 (mapped 0x10400 7).needStore = (.ok 0x20400 0x200DF, s1) ∧
      s1.locOf 0x20400 = .hbm 0x20400 ∧ (∀ j, j < 1024 → s1.locOf (0x20400 + j) = .hbm (0x20400 + j)) ∧ s1.windowWritable 0 0x20400 = true ∧ memoriesWf s1) ∧
    (mapped 0x10400 7).me.loops.length ≤ 2 ∧ (mapped 0x10400 7).me.buffer = [] := by
  refine ⟨by decide, ⟨_, Prod.ext (by decide) rfl, by decide, fun j h => ?_, by decide, memoriesWf_of _ (by decide) (by decide) (by decide)⟩, by decide, by decide⟩
  have : isHbmPa (0x20400 + j) = true := by simp only [isHbmPa, decide_eq_true_eq]; omega
  simp only [State.locOf, this, if_true]
  rfl
/-- ContextRecords: the restore of a record of one loop level. -/
def recorded : State := { mapped 0x10400 7 with hbm := mput (mput (mput (mput [] 0x20400 8 0x4000) 0x20418 8 6) 0x20420 16 (5 + 9 * 2 ^ 64)) 0x20618 32 (1 + 0x5000 * 2 ^ 64 + 0x5008 * 2 ^ 128 + 3 * 2 ^ 192) }
theorem test_meets_ctx_restore : ∃ s1, recorded.scalarReach 0x10400 1024 recorded.needLoad = (.ok 0x20400 0x200DF, s1) ∧ s1.locOf 0x20400 = .hbm 0x20400 ∧
    recordOk (s1.loadBytes 0 0 (.hbm 0x20400) 1024) = true ∧ (recWord (s1.loadBytes 0 0 (.hbm 0x20400) 1024) 0).toNat % 4 = 0 ∧
    s1.poisonedAt (.hbm 0x20400) 1024 = false :=
  ⟨_, Prod.ext (by decide) rfl, by decide, by decide, by decide, by decide⟩
/-- CacheAndTranslation: a flush of context 5, of everything, and a word with bit 13 set. -/
def flushing (v : Word) : State :=
  { mappedOf (crewOf { strandAt v 0 with status := 2 }) with clusters := [(0, ⟨[⟨some 5, 0, 1, 0x200DF⟩, ⟨some 6, 0, 2, 0x300DF⟩], [], none, []⟩)] }
theorem test_meets_flush : (flushing 5).me.monitor = true ∧ (flushing 0x1005).me.monitor = true ∧ ((flushing 0x1005).me.getX 5).toNat < 2 ^ 13 ∧
    ((flushing 5).drainCluster 0).inFlight (((flushing 5).drainCluster 0).cluster 0).tlb (fun c => c / 8 == 0) = false ∧
    2 ^ 13 ≤ ((flushing 0x2000).me.getX 5).toNat := by decide

/-! ### Streams and the operand graph -/

/-- A pattern of 8 elements of F32, 4 bytes apart from sp 0x100 on. -/
def pattern8 : Nat := 0x100 + 0x4C6 * 2 ^ 128 + 8 * 2 ^ 192 + 4 * 2 ^ 224 + 32 * 2 ^ 448
/-- A crew whose strand names a block at 0x400 (x5) and a second operand (x6). -/
def commanding (a b blk : Nat) : State := deviceOf { crewOf (strandAt (BitVec.ofNat 64 a) (BitVec.ofNat 64 b)) with pool := mput [] 0x400 64 blk }
def anyCmd : SmCmd := ⟨.aff, 0x400, 0x32, pattern8, 0, 9, [], 0, none, 0⟩
def full (s : State) : State := s.setMine { s.mine with streams := { emptyStreams with queue := List.replicate 32 anyCmd } }
/-- StreamCommands: a command whose checks hold, a full queue, and a misaligned block. -/
theorem test_meets_stream : (commanding 0x400 0x32 pattern8).blockRefusal 0x400 64 64 = none ∧
    (commanding 0x400 0x32 pattern8).mine.checkStream (streamCommand (commanding 0x400 0x32 pattern8) .aff 5 6 9) = none ∧
    32 ≤ (full (commanding 0x400 0x32 pattern8)).mine.streams.queue.length ∧ 0x420 % 64 ≠ 0 := by decide
/-- StreamCommands: a slot barrier and a kill, of a queued and of an active command. -/
def killing : State := let s := commanding 0x4 0 0; s.setMine { s.mine with streams := { emptyStreams with queue := [anyCmd], slots := [(2, Active.start anyCmd)] } }
theorem test_meets_kill : (killing.me.getX 5).toNat < 65536 ∧ killing.mine.streams.queue.length < 32 ∧ anyCmd.onSlots 4 = true ∧
    (killing.me.getX 5).getLsbD 2 = true ∧ (∀ p ∈ killing.mine.streams.slots, (0x8 : Word).getLsbD p.1 = false) := by decide
/-- GraphDispatch: a link from channel 3 to channel 4, a spill entry of each space and a disabled one, a stop, a token of each sort, a drain. -/
theorem test_meets_graph_dispatch : (commanding 7 0x107 0).mine.checkNode 0 8 7 0x107 = .ok [] ∧
    checkSpill 0x400 0x07 = none ∧ checkSpill 0x400 0x47 = none ∧
    checkSpill 0 0x06 = none ∧ 0x400 + 1024 * 2 ^ field 0x47 10 7 ≤ (commanding 0 0 0).mine.spSize ∧
    (∃ frames s1, (mapped 0x10000 0x07).pinRange 0 0x10000 1024 = (.ok frames, s1)) ∧ (commanding 0 0 0).mine.smOutRefused 31 = false ∧
    0x9F < 512 ∧ 0x9F / 32 % 4 ≠ 1 ∧ 0x9F / 128 % 2 = 1 ∧ 0x1F / 128 % 2 = 0 ∧ 0x400 % 32 = 0 ∧ (commanding 0x400 0x1F 0).dispatchPoison 0x400 32 = none := by
  refine ⟨rfl, by decide, by decide, by decide, by decide, ⟨_, _, Prod.ext rfl rfl⟩, ?_⟩
  decide

def tok (v : Nat) : Token := ⟨v, 0, 0, false⟩
/-- A crew with tokens in a channel, a gate on channel 6, and a spill ring for channel 7 with one token on its way and one there. -/
def channels : Crew :=
  { crewOf strand0 with
    chans := [(3, ⟨[.tok (tok 5), .tok (tok 6)], [], none, 0, none, [], false⟩), (7, ⟨[], [.slot 0, .staged 1 (tok 0x1234)], some ⟨0, 1, 0x400, []⟩, 2, none, [], false⟩)]
    graph := { emptyGraph with active := ⟨[(20, 0x140D)], [], [(7, ⟨0, 1, 0x400, []⟩)]⟩ } }
/-- ChannelsAndSpilling. -/
theorem test_meets_channels : (channels.chan 7).spill = tfind channels.graph.active.spills 7 ∧ (channels.chan 7).turned = none ∧ (channels.chan 3).spilling = false ∧ (channels.chan 7).spilling = true ∧ (tok 5).data < 2 ^ 256 ∧
    ((deviceOf channels).crew 0).chan 7 = ⟨[], [.slot 0, .staged 1 (tok 0x1234)], some ⟨0, 1, 0x400, []⟩, 2, none, [], false⟩ ∧
    firstStaged (channels.chan 7).ring = some (1, tok 0x1234) ∧ memoryPlace ((deviceOf channels).ringLoc 0 ⟨0, 1, 0x400, []⟩ 1) = true ∧ (channels.chan 7).count < 16 := by
  decide

/-- A crew on core 0 with one graph entry in use, its node's state, and channels. -/
def node (key word : Nat) (x : NodeState) (cs : Tab Chan) : State :=
  deviceOf { crewOf strand0 with
    chans := cs
    graph := { emptyGraph with
      active := ⟨[(key, word)], [], []⟩
      states := [(key, x)] } }
def holds (l : List Item) : Chan := ⟨l, [], none, 0, none, [], false⟩
def countTok (n : Nat) : Token := ⟨n, 0, 2, false⟩
def stopTok (r b : Nat) : Token := ⟨r, b, 1, false⟩
/-- GraphSteps: a link; a repeat that takes its count, collects, and sends; a steer and a merge that take their selector and move; a join. -/
theorem test_meets_link : (node 7 0x60107 emptyNode [(3, holds [.tok (tok 5)])]).crew 0 |>.see 7 3 |> (· = .tok (tok 5)) := by decide
theorem test_meets_link_room : ((node 7 0x60107 emptyNode [(3, holds [.tok (tok 5)])]).crew 0).canAll 7 (tok 5) [4] = true := by decide
/-- In 3, count 4, out 5, level 1. -/
def repeating (x : NodeState) : State := node 11 0x12907 x [(3, holds [.tok (tok 5), .tok (stopTok 1 0)]), (4, holds [.tok (countTok 2)])]
theorem test_meets_repeat : ((repeating emptyNode).crew 0).see 11 3 = .tok (tok 5) ∧ ((repeating emptyNode).crew 0).see 11 4 = .tok (countTok 2) ∧
    ((repeating emptyNode).crew 0).nodeState 11 = emptyNode ∧ field 0x12907 18 16 = 1 ∧ segmentEnds 1 (tok 5) = false ∧
    ((repeating ⟨.collect 2 false, [], 255, none⟩).crew 0).nodeState 11 = ⟨.collect 2 false, [], 255, none⟩ ∧
    ((repeating ⟨.emit 2 1 true, [tok 5, stopTok 1 0], 2, none⟩).crew 0).nodeState 11 = ⟨.emit 2 1 true, [tok 5, stopTok 1 0], 2, none⟩ ∧
    ((repeating ⟨.emit 2 1 true, [tok 5, stopTok 1 0], 2, none⟩).crew 0).canAll 11 (stopTok 1 0) [5] = true ∧ (stopTok 1 0).isZero = false := by decide
/-- In 3, selector 4, outputs 5 to 8, level 0. -/
def steering (x : NodeState) : State :=
  node 15 (1 + 3 * 2 + 4 * 64 + 5 * 2048 + 6 * 65536 + 7 * 2097152 + 8 * 67108864 + 3 * 2147483648) x [(3, holds [.tok (tok 9)]), (4, holds [.tok (tok 3)])]
theorem test_meets_steer : ((steering emptyNode).crew 0).see 15 3 = .tok (tok 9) ∧ ((steering emptyNode).crew 0).see 15 4 = .tok (tok 3) ∧
    ((steering ⟨.moving 3 false, [], 0, none⟩).crew 0).canAll 15 (tok 9) [8] = true := by decide
/-- Inputs 3, 4, 5 and 6, selector 7, output 8, level 1. -/
def merging (x : NodeState) : State :=
  node 19 (1 + 3 * 2 + 4 * 64 + 5 * 2048 + 6 * 65536 + 7 * 2097152 + 8 * 67108864 + 3 * 2147483648 + 17179869184) x [(6, holds [.tok (stopTok 2 1)]), (7, holds [.tok (tok 3)])]
theorem test_meets_merge : ((merging emptyNode).crew 0).see 19 7 = .tok (tok 3) ∧ ((merging emptyNode).crew 0).see 19 6 ≠ .empty ∧
    ((merging ⟨.moving 3 false, [], 0, none⟩).crew 0).see 19 6 = .tok (stopTok 2 1) ∧
    ((merging ⟨.moving 3 false, [], 0, none⟩).crew 0).canAll 19 (stopTok 2 1) [8] = true := by decide
/-- Two stops of rank 7 at the inputs of the last steer node. -/
def joining : State := node 15 (1 + 3 * 2 + 4 * 64 + 5 * 2048) emptyNode [(3, holds [.tok (stopTok 7 2)]), (4, holds [.tok (stopTok 7 1)])]
theorem test_meets_join : [3, 4].map ((joining.crew 0).see 15) = [stopTok 7 2, stopTok 7 1].map View.seven ∧ (joining.crew 0).nodeState 15 = emptyNode ∧
    (joining.crew 0).canAll 15 ⟨7, 2, 1, false⟩ (nodeOuts 15 (1 + 3 * 2 + 4 * 64 + 5 * 2048) []) = true := by decide
/-- ChannelsAndSpilling: a count token on the demand channel 9 of gate 7. -/
def demanding : State := node 27 (1 + 6 * 2 + 9 * 64) emptyNode [(9, holds [.tok (countTok 5)])]
theorem test_meets_demand : (demanding.core 0).held = true ∧ tfind (demanding.crew 0).graph.active.nodes 27 = some 589 ∧ field 589 10 6 = 9 ∧
    (demanding.crew 0).see 27 9 = .tok (countTok 5) := by decide

/-! ### Stream steps -/

/-- Slot 2 of a crew runs a command; channel 3 and channel 4 hold tokens. -/
def slotted (a : Active) (cs : Tab Chan) (pool : Memory) : State :=
  deviceOf { crewOf strand0 with
    chans := cs
    pool := pool
    streams := { emptyStreams with slots := [(2, a)] } }
def cmdOf (op : SmOp) (b blk : Nat) : SmCmd := ⟨op, 0x400, b, blk, 0, 9, [], 0, none, 0⟩
/-- An affine read of 8 words with the first 7 taken, and one with a token to send. -/
def reading7 : Active := { Active.start (cmdOf .aff 0x32 pattern8) with pos := 7, out := 1, outN := 7 }
def sending : Active := { Active.start (cmdOf .aff 0x32 pattern8) with send := [tok 5, tok 6] }
/-- StreamWork: a token to send, the last element of a read and of a write. -/
theorem test_meets_affine : runs (slotted sending [] []) 0 2 .aff sending ∧ ((slotted sending [] []).crew 0).streamCanSend sending (tok 5) = true ∧
    ((slotted sending [] []).crew 0).stopped = false ∧ ((slotted reading7 [] []).crew 0).stopped = false ∧
    runs (slotted reading7 [] []) 0 2 .aff reading7 ∧ plainSp pattern8 ∧ 7 + 1 = affTotal pattern8 ∧ ((slotted reading7 [] []).crew 0).streamCredit reading7 = true := by
  simp only [runs, plainSp]; decide
def writing7 : Active := { Active.start (cmdOf .afw 0x32 (pattern8 - 7 * 2 ^ 192)) with pos := 0 }
def written7 : State := slotted writing7 [(3, holds [.tok (tok 0x81020304)])] [(0xFF, 1), (0x104, 2)]
theorem test_meets_affine_write : runs written7 0 2 .afw writing7 ∧ plainSp (pattern8 - 7 * 2 ^ 192) ∧ 0 + 1 = affTotal (pattern8 - 7 * 2 ^ 192) ∧
    (written7.crew 0).streamHead writing7 3 = some (tok 0x81020304) ∧ Memory.wf (written7.crew 0).pool = true := by
  simp only [runs, plainSp]; decide
/-- Indices of 32 bits from channel 3 into a window of 64 bytes at 0x100, elements of F32, at most n of them. -/
def gather (n : Nat) : Nat := 0x100 + (0x4C6 + 0x80000) * 2 ^ 128 + n * 2 ^ 192 + 64 * 2 ^ 448
def gathering : Active := Active.start (cmdOf .ind 0x832 (gather 0))
def gathered : State := slotted gathering [(3, holds [.tok (tok 15)])] [(0x13C, 0x55)]
theorem test_meets_gather : runs gathered 0 2 .ind gathering ∧ plainSp (gather 0) ∧ (gathered.crew 0).tileHeld gathering = false ∧ (gathered.crew 0).streamCredit gathering = true ∧
    (gathered.crew 0).streamHead gathering 3 = some (tok 15) ∧ inWindow (gather 0) 0x13C = true ∧ indexValue (gather 0) 15 0 = 15 ∧
    inWindow (gather 0) 0x140 = false ∧ gathered.poisonedAt (.pool 0 0x13C) 4 = false ∧ Pattern.count (gather 0) 0 = 0 := by
  simp only [runs, plainSp]; decide
def scattering : Active := Active.start (cmdOf .sct 0x832 (gather 1))
def scattered : State := slotted scattering [(3, holds [.tok (tok 2)]), (4, holds [.tok (tok 0x11223344)])] []
theorem test_meets_scatter : runs scattered 0 2 .sct scattering ∧ (scattered.crew 0).tileHeld scattering = false ∧ plainSp (gather 1) ∧ (scattered.crew 0).pairOf scattering = .pair (tok 2) (tok 0x11223344) ∧
    Pattern.count (gather 1) 0 = scattering.pos + 1 ∧ inWindow (gather 1) (0x100 + 2 * 4) = true := by
  simp only [runs, plainSp]; decide
def updating : Active := Active.start (cmdOf .upd 0x832 (gather 0 + 5 * 2 ^ 149))
def updated : State := slotted updating [(3, holds [.tok (tok 2)]), (4, holds [.tok (tok 7)])] []
theorem test_meets_update : runs updated 0 2 .upd updating ∧ (updated.crew 0).tileHeld updating = false ∧ Pattern.uop updating.cmd.blk = 5 ∧ Pattern.space updating.cmd.blk = 1 ∧
    (updated.crew 0).pairOf updating = .pair (tok 2) (tok 7) ∧ inWindow updating.cmd.blk (indexedAddress updating.cmd.blk 2) = true ∧
    (updated.crew 0).puu.length < 64 ∧ (updated.crew 0).streamCovers updating (updating.outstanding + updating.returns.length) = true := by
  simp only [runs]; decide
/-- A hash-accumulate of 32 slots at 0x100: the first slot of key 1 is empty. -/
def hashing : Active := Active.start (cmdOf .upd 0x832 (0x100 + (0x400 + 0x80000 + 12 * 2 ^ 21 + 2 ^ 25) * 2 ^ 128 + 256 * 2 ^ 448))
def hashed : State := slotted hashing
  [(3, holds [.tok (tok 1)]), (4, holds [.tok (tok 7)])] [(0x198, 0xFF), (0x199, 0xFF), (0x19A, 0xFF), (0x19B, 0xFF)]
theorem test_meets_hash : ((1 * 0x9E3779B1 % 2 ^ 32 / 2 ^ (32 - (256 / 8).log2)) % (256 / 8)) = 19 ∧ 0x100 + 8 * 19 = 0x198 ∧
    hashed.rawBytes (.pool 0 0x198) 4 = [0xFF, 0xFF, 0xFF, 0xFF] ∧ hashed.poisonedAt (.pool 0 0x198) 8 = false ∧
    hashed.updatePending (.pool 0 0x100) 256 = false ∧
    runs hashed 0 2 .upd hashing ∧ Pattern.uop hashing.cmd.blk = 12 ∧ (indexValue hashing.cmd.blk 1 0).toNat = 1 ∧ (hashed.crew 0).tileHeld hashing = false ∧ (hashed.crew 0).streamCredit hashing = true ∧
    hashing.stopped = none ∧ (hashed.crew 0).pairOf hashing = .pair (tok 1) (tok 7) := by
  simp only [runs]; decide
/-- UpdatesAndCompletion: an update of a unit of each sort, and a line that none names. -/
def pendingUpdate (x : BufAddr) : Update := ⟨x, 5, 7, false, 0, 2, 0, 0, none⟩
def updates : State :=
  { deviceOf { crewOf strand0 with puu := [pendingUpdate (.sp 0x40)], pool := [(0x40, 9)] } with
    suu := [(3, [pendingUpdate (.phys 0x3000)])]
    suuLines := [(3, [(0x60, 1), (0x61, 2)])] }
theorem test_meets_updates : tget updates.suu 3 [] = [pendingUpdate (.phys 0x3000)] ∧ (∀ u ∈ tget updates.suu 3 [], ∀ x, u.addr ≠ .sp x) ∧
    updates.nextUpdate 0 (tget updates.suu 3 []) = some (pendingUpdate (.phys 0x3000)) ∧
    updates.nextUpdate 0 (updates.crew 0).puu = some (pendingUpdate (.sp 0x40)) ∧ updates.locOf 0x3000 = .hbm 0x3000 ∧ fmtWidth (uopFormat 5) / 8 = 4 ∧
    updates.poisonedAt (.hbm 0x3000) 4 = false ∧ Memory.wf updates.hbm = true ∧ tfind (tget updates.suuLines 3 []) 0x61 = some 2 ∧ 0x3000 / 128 ≠ 0x61 ∧
    (updates.crew 0).puu = [pendingUpdate (.sp 0x40)] ∧ updates.poisonedAt (.pool 0 0x40) 4 = false := by
  refine ⟨by decide, by simp [updates, pendingUpdate, tget], ?_⟩
  decide
/-- UpdatesAndCompletion: a request of a stack's engine for words of 4 bytes through 32-bit indices at 0x10000, elements from 0x10100 on. -/
def request : Active := { Active.start (cmdOf .isx 0x32 (0x10000 + 0x10100 * 2 ^ 64 + 2 * 2 ^ 128 + 4 * 2 ^ 160 + 1 * 2 ^ 192 + 64 * 2 ^ 256)) with pos := 0 }
def requested : State :=
  { slotted request [] [] with
    ise := [(2, [(0, 2)])]
    hbm := [(0x20000, 3), (0x2010C, 0x77)]
    sys := { emptySys with trained := List.range 16, memDies := [0, 1, 2, 3] }
    clusters := [(66, ⟨[⟨none, 0, 1, 0x200DF⟩], [], none, []⟩)] }
theorem test_meets_request : runs requested 0 2 .isx request ∧ tget requested.ise 2 [] = [(0, 2)] ∧
    (∃ s1 a1, ({ requested with ise := [(2, [(0, 2)])] } : State).readElem 66 0 2 0 request (iseIndexAddress request.cmd.blk 0) (iseIndexSize request.cmd.blk) = (.value 3 false, s1, a1) ∧
      iseInWindow request.cmd.blk (iseElement request.cmd.blk (iseIndex request.cmd.blk 3)) = true ∧
      ∃ s2 a2, s1.readElem 66 0 2 0 a1 (iseElement request.cmd.blk (iseIndex request.cmd.blk 3)) (iseElemSize request.cmd.blk) = (.value 0x77 false, s2, a2)) := by
  refine ⟨?_, by decide, _, _, Prod.ext (by decide) (Prod.ext rfl rfl), by decide, _, _, Prod.ext (by decide) (Prod.ext rfl rfl)⟩
  simp only [runs]; decide
theorem test_meets_request_room : request.send.length < 64 ∧ (requested.crew 0).stopped = false ∧
    (requested.crew 0).streamCovers request (request.send.length + (iseElemSize request.cmd.blk / 32 - 1)) = true := by decide
/-- The last element but one of a token of two elements of 16 bytes, the last element of a request that ends with a stop, and an element of 64 bytes: the
index of each is at 0x10000 and the element at 0x10100. -/
def packing (size n : Nat) (endstop : Bool) (outN : Nat) : Active :=
  { Active.start (cmdOf .isx 0x32 (0x10000 + 0x10100 * 2 ^ 64 + n * 2 ^ 128 + 4 * 2 ^ 160 + (1 + 4 * (size.log2 - 2) + (if endstop then 32 else 0)) * 2 ^ 192 + 256 * 2 ^ 256)) with
    outN := outN
    out := 5 }
def packed (a : Active) : State := { requested with
  cores := (slotted a [] []).cores
  hbm := [(0x20000, 0), (0x20100, 0x77), (0x20120, 0x88)] }
def sentBy (t : State) : Option (List Token × Nat × Nat × Bool) := (tfind (t.crew 0).streams.slots 2).map (fun b => (b.send, b.outN, b.out, b.ended))
theorem test_meets_packing : iseElemSize (packing 16 2 false 1).cmd.blk = 16 ∧ (packing 16 2 false 1).outN + 1 = 32 / 16 ∧ iseCount (packing 4 1 true 0).cmd.blk = 1 ∧
    (packing 4 1 true 0).pos + 1 = 1 ∧ iseEndstop (packing 4 1 true 0).cmd.blk = true ∧ iseElemSize (packing 64 2 false 0).cmd.blk = 64 := by decide
def delivering : Active := { request with send := [tok 5] }
def completed (killed : Bool) : Active := { request with ended := true, killed := killed }
theorem test_meets_completion : runs (slotted delivering [] []) 0 2 .isx delivering ∧ ((slotted delivering [] []).crew 0).streamCanSend delivering (tok 5) = true ∧
    (completed false).finished = true ∧ (completed true).finished = true ∧ ((slotted (completed false) [] []).crew 0).streams.kills = [] ∧
    (∀ v ∈ ((slotted (completed false) [] []).crew 0).graph.waves, v.begun = false) := by
  simp only [runs]; decide
/-- Waves: a wave that names everything; its entry; a node it passes; and its end. -/
def waving (q : List SmCmd) (v : Wave) : State :=
  deviceOf { crewOf (strandAt 0x3FF 1) with
    streams := { emptyStreams with queue := q }
    graph := { emptyGraph with
      waves := [v]
      idle := ⟨[(5, 0x107)], [], []⟩ } }
def wave0 (begun : Bool) (passed : NatSet) : Wave := ⟨0x001, false, 9, 0, begun, passed, [], []⟩
def waveCmd : SmCmd := ⟨.wave, 1, 0, 0, 0, 9, [], 0, none, 0⟩
theorem test_meets_waves : (commanding 0x3FF 1 0).mine.waveRoom 0x3FF = true ∧ ((waving [waveCmd] (wave0 false [])).crew 0).streams.queue = [waveCmd] ∧
    ((waving [] (wave0 true [])).crew 0).moving = some (wave0 true []) ∧ smem (wave0 true []).passed 5 = false ∧
    tfind ((waving [] (wave0 true [])).crew 0).graph.active.nodes 5 = none ∧ (∃ j, j < 28 ∧ j ≠ 5 ∧ smem (wave0 true []).passed j = false) ∧
    ((waving [] (wave0 true (List.range 30))).crew 0).waveOver (wave0 true (List.range 30)) = true := by
  refine ⟨by decide, by decide, by decide, by decide, by decide, ⟨0, by decide⟩, by decide⟩

/-! ### The array and the elements' commands -/

/-- A crew with 16,384 accumulator entries, operands in x5 and x6, and bytes in its pool. -/
def arrayed (a b : Nat) (r : Array) (pool : Memory) : State :=
  deviceOf { crewOf (strandAt (BitVec.ofNat 64 a) (BitVec.ofNat 64 b)) with
    info := { emptyInfo with nstr := 4, part := 0x10 }
    array := r
    pool := pool }
def arOf (op : ArOp) (a b blk : Nat) : ArCmd := ⟨op, a, b, blk, [], 9, 0, 0, 0, 0⟩
/-- ArrayDispatch: commands of each queue that pass their checks, a full queue, and a refused one. -/
theorem test_meets_array_dispatch : (∃ c w, arrayRow (arrayed 0x1 0x20 emptyArray []) (.arCoop 5 9 0) = some (.coop, 0, .ok (c, w))) ∧
    (∃ c w, arrayRow (arrayed 255 0 emptyArray []) (.arStep 5 9 0) = some (.step, 0, .ok (c, w))) ∧
    (∃ c w, arrayRow (arrayed 0x40 1 emptyArray []) (.arChk 5 6 9 0) = some (.chk, 0, .ok (c, w))) ∧
    (∃ r, arrayRow (arrayed 256 0 emptyArray []) (.arStep 5 9 0) = some (.step, 0, .error r)) ∧
    (∃ r, arrayRow (arrayed 0x404 0 emptyArray []) (.mxRun 5 9 0) = some (.run, 0, .error r)) ∧
    arrayDepth (arrayPlace .step) ≤ (arrayQueue { emptyArray with feedq := List.replicate 32 (arOf .step 1 0 0) } (arrayPlace .step)).length ∧
    (255 : Nat) < 256 ∧ 16383 + 1 ≤ (arrayed 0 0 emptyArray []).mine.accEntries ∧ 0x40 + 64 ≤ (arrayed 0 0 emptyArray []).mine.spSize :=
  ⟨⟨_, _, rfl⟩, ⟨_, _, rfl⟩, ⟨_, _, rfl⟩, ⟨_, rfl⟩, ⟨_, rfl⟩, by decide, by decide, by decide, by decide⟩
/-- ArrayDispatch: a tile of one by one by one, a group of 4 leaves fed by channel 3, its hold, its feed, a drain, and the feed's channel mapped. -/
def group4 : Group := ⟨4 * 16384, 8⟩
def tile1 : Nat := 1 * 2 ^ 192 + 1 * 2 ^ 208 + 32 * 2 ^ 224 + 1 * 2 ^ 288
theorem test_meets_array_checks : (∃ c w, arrayRow (arrayed 0x400 0 emptyArray (mput [] 0x400 64 tile1)) (.mxRun 5 9 0) = some (.run, 0, .ok (c, w))) ∧
    (∃ c w, arrayRow (arrayed 8 0x20 emptyArray []) (.arMmap 5 6 9 0) = some (.mmap, 0, .ok (c, w))) ∧
    (∃ c w, arrayRow (arrayed 0 0 emptyArray []) (.arCarve 5 6 9 0) = some (.carve, 0, .ok (c, w))) ∧
    (∃ c w, arrayRow (arrayed 0x400 255 emptyArray []) (.arHold 5 6 9 0) = some (.hold, 0, .ok (c, w))) :=
  ⟨⟨_, _, rfl⟩, ⟨_, _, rfl⟩, ⟨_, _, rfl⟩, ⟨_, _, rfl⟩⟩
/-- A period in which channel 3 feeds the array and port 0 drains into channel 4. -/
def fed (s : State) : State := s.setMine { s.mine with now := { emptyShadow with array := ⟨[], 8, 0x24, 0⟩ } }
def drain1 : Nat := (1 * 2 ^ 224 * 1 + 1 * 2 ^ 96 + 1 * 2 ^ 128) % 2 ^ 192 + 6
theorem test_meets_array_feed : (∃ c w, arrayRow (fed (arrayed 0x100C3 0x10001 emptyArray [])) (.arFeed 5 6 9 0) = some (.feed, 0, .ok (c, w))) ∧
    (∃ c w, arrayRow (fed (arrayed 0x400 0 emptyArray (mput [] 0x400 32 drain1))) (.arDrain 5 9 0) = some (.drain, 0, .ok (c, w))) :=
  ⟨⟨_, _, rfl⟩, ⟨_, _, rfl⟩⟩

/-- A cell whose latched operand meets its slot at K position 3, and the span it belongs to, of one position in entry 2. -/
def slot3 : Slot := ⟨0x3F80, 0, 3, true, false, false⟩
def moving3 : Moving := ⟨0x4000, 0, 3, false, 7⟩
def span7 : Span := ⟨7, 0, 0, 2, 6, 7, 4, [], 1, true, false, 0, none⟩
def firingState : State := arrayed 0 0 { emptyArray with cells := [(6, ⟨[slot3], 0, some moving3, [], 0⟩)], spans := [span7] } []
/-- 1.0 times 2.0 at position 0, on its way into entry 2. -/
def complete7 : Span := { span7 with pairs := [(0, ⟨0x3F80, 0x4000, 0, 0, 0⟩)], pending := 0 }
def accumulating : State := arrayed 0 0 { emptyArray with spans := [complete7] } (mput [] ((arrayed 0 0 emptyArray []).mine.entryAt 2) 4 0x40400000)
/-- ArraySteps: a firing and an accumulation. -/
theorem test_meets_firing : tfind (firingState.crew 0).array.cells 6 = some ⟨[slot3], 0, some moving3, [], 0⟩ ∧
    (⟨[slot3], 0, some moving3, [], 0⟩ : Cell).slot = slot3 ∧ slot3.full = true ∧ slot3.kpos = moving3.kpos ∧
    complete7.first = 0 / 2 ∧ (accumulating.crew 0).mayAccumulate complete7 [] = true ∧ (accumulating.crew 0).entryPoisoned false 2 = false ∧
    complete7.stagesOk (accumulating.crew 0).dualFire 0 = true ∧ (∃ v fl, complete7.result (fun _ => 0) = (some v, fl)) ∧ Memory.wf (accumulating.crew 0).pool = true :=
  ⟨by decide, by decide, by decide, by decide, by decide, by decide, by decide, by decide, ⟨_, _, rfl⟩, by decide⟩
/-- A run split in two along K whose slices have come to this core, for one element in entry 5. -/
def split2 : Nat := 1 * 2 ^ 192 + 1 * 2 ^ 208 + 2 * 2 ^ 224 + 5 * 2 ^ 256 + 1 * 2 ^ 288 + 256 * 2 ^ 320
def combining : State := arrayed 0 0 { emptyArray with
  feedq := [arOf .run 0x400 3 split2]
  meet := .met
  slices := [(0, some 0x3FF0000000000000, false), (1, some 0x4000000000000000, false)] } []
theorem test_meets_combine : combining.cur.err = 0 ∧ (tileOf split2).ks ≠ 1 ∧ (tileOf split2).ik (coopIndex 0 3) = 0 ∧ 0 < (tileOf split2).mloc * (tileOf split2).nloc ∧
    (∀ i, i < (tileOf split2).ks → (tfind (combining.crew 0).array.slices (0 * (tileOf split2).ks + i)).isSome = true) ∧
    (∀ i, i < (combining.crew 0).entrySpan ((combining.crew 0).accWide || (tileOf split2).keepwide) → (combining.crew 0).drainReads 0 (5 + i) = false) ∧
    (combining.crew 0).entryPoisoned false 5 = false ∧
    (∀ i, i < (tileOf split2).ks → ∀ z, tfind (combining.crew 0).array.slices (0 * (tileOf split2).ks + i) = some z → z.2 = false) ∧
    Memory.wf (combining.crew 0).pool = true := by
  refine ⟨by decide, by decide, by decide, by decide, by decide, by decide, by decide, ?_, by decide⟩
  intro i h z hz
  have h2 : (tileOf split2).ks = 2 := by decide
  rw [h2] at h hz
  obtain rfl | rfl : i = 0 ∨ i = 1 := by omega
  · obtain rfl : z = (some 0x3FF0000000000000, false) := (Option.some.inj hz).symm
    rfl
  · obtain rfl : z = (some 0x4000000000000000, false) := (Option.some.inj hz).symm
    rfl
theorem test_meets_combine_sum : ∃ v fl, treeSum (fun i => (tfind (combining.crew 0).array.slices (0 * (tileOf split2).ks + i)).bind (fun z => z.1))
    (tileOf split2).ks.log2 0 = (some v, fl) := ⟨_, _, rfl⟩
/-- A drain of one entry as F32 into channel 4. -/
def draining (pos : DrainPos) : State := arrayed 0 0 { emptyArray with
  drainq := [arOf .drain 0x400 4 drain1]
  drainPos := pos } (mput [] ((arrayed 0 0 emptyArray []).mine.entryAt 0) 4 0x40400000)
theorem test_meets_drain : ((draining ⟨0, 1, some 1, none, 0⟩).crew 0).array.drainHead = some (arOf .drain 0x400 4 drain1) ∧ (drainOf drain1).port = 0 ∧
    ((draining ⟨0, 1, some 1, none, 0⟩).crew 0).canAll 28 (stopToken 1 0) [4] = true ∧ (drainOf drain1).check = false ∧ (drainOf drain1).clear = false ∧
    (((drainOf drain1).row [] false 0).drop 0).take (256 / fmtWidth (drainOf drain1).tfmt) = [(0, false)] ∧ ((draining emptyDrainPos).crew 0).stopped = false ∧
    ((draining emptyDrainPos).crew 0).readable 0 0 [(0, false)] = true ∧ ((draining emptyDrainPos).crew 0).entryPoisoned false 0 = false := by decide
/-- A drain of rows of three entries. -/
def drain3 : Nat := 6 + 2 ^ 96 + 3 * 2 ^ 128
def draining3 : State := arrayed 0 0 { emptyArray with drainq := [arOf .drain 0x400 4 drain3] }
  (mput [] ((arrayed 0 0 emptyArray []).mine.entryAt 0) 12 (0x40400000 + 0x3F800000 * 2 ^ 32 + 0xC0000000 * 2 ^ 64))
theorem test_meets_drain_row : (draining3.crew 0).array.drainHead = some (arOf .drain 0x400 4 drain3) ∧ (drainOf drain3).clear = false ∧
    (((drainOf drain3).row [] (draining3.crew 0).accWide 0).drop 0).take (256 / fmtWidth (drainOf drain3).tfmt) = [(0, false), (1, false), (2, false)] ∧
    (draining3.crew 0).readable 0 0 [(0, false), (1, false), (2, false)] = true ∧ (draining3.crew 0).array.drainPos.owed = none := by decide
theorem test_meets_drain_room (y : Nat) : (draining3.crew 0).canAll 28 ⟨y, 0, 0, false⟩ [4] = true := rfl
/-- Completed heads of the three queues. -/
def doneArray : State := arrayed 0 0 { emptyArray with
  cfgq := [arOf .mmap 8 0x20 0]
  drainq := [arOf .drain 0x400 4 drain1]
  drained := true
  feeding := [arOf .feed 0 0 0] } []
theorem test_meets_array_complete : (doneArray.crew 0).array.cfgq = [arOf .mmap 8 0x20 0] ∧ (doneArray.crew 0).array.drained = true ∧
    (doneArray.crew 0).array.feeding = [arOf .feed 0 0 0] ∧ (∀ x ∈ (doneArray.crew 0).array.spans, x.seq ≠ 0) ∧ 8 % 7 ≠ 0 := by decide
/-- ArraySteps: two products a block adder adds exactly, 1.5 and -2^40. -/
theorem test_meets_adder : ∀ v ∈ [Machine.Num.fin false 3 (-1), Machine.Num.fin true 1 40], exactProduct v := by
  simp [exactProduct]

/-- ElementCommands: each command with its operands at the end of their ranges, a full queue, and an element that stops. -/
def veFull : State := deviceOf { crewOf strand0 with veq := List.replicate 16 ⟨.stop 1, 9, 0, 0, false⟩ }
def stopping : State := deviceOf { crewOf strand0 with elems := [(3, { emptyElement with state := 5 })] }
theorem test_meets_element_commands : (255 : Nat) < 256 ∧ (commanding 31 7 0).mine.veq.length < 16 ∧
    transferOk (vprivOf (commanding 0x400 0 0).mine.info.part.toNat) (vsharedOf (commanding 0x400 0 0).mine.info.part.toNat) 256 1 = true ∧
    (∃ b s1, (commanding 0x400 0 0).readSpace 1 0x400 (4 * 64) [] = .got b s1) ∧ 0 / 16 % 64 + 64 ≤ 64 ∧
    (∃ b s1, (commanding 0x400 0 0).readSpace 1 0x400 136 [] = .got b s1) ∧
    imageBad 0 0 [] [] 7 0 0 ((List.range 16).map (fun _ => 0)) = none ∧ bindWordOk 0x23 = true ∧
    (commanding 0 0 0).mine.firstConflict (commanding 0 0 0).mine.coming false (32 + 7) [] (portIns 0x23) = none ∧
    (commanding 0 0 0).mine.firstConflict (commanding 0 0 0).mine.coming true (32 + 7) [] (portOuts 0x23) = none ∧
    16 ≤ veFull.mine.veq.length ∧ ((stopping.crew 0).elem 3).state.getLsbD 2 = true := by
  refine ⟨by decide, by decide, by decide, ⟨_, _, rfl⟩, by decide, ⟨_, _, rfl⟩, ?_⟩
  decide

/-! ### The work of the array's feed queue and of the VE queue -/

/-- A crew whose feed queue holds one command, whose channel 3 holds items, and whose strand's buffer holds a store of the value of slot 1 of a hold. -/
def queued (q : ArCmd) (r : Array) (items : List Item) (pool : Memory) : State :=
  deviceOf { crewOf { strand0 with buffer := [⟨.sp 0x402, [0x80, 0x3F], 0⟩] } with
    info := { emptyInfo with nstr := 4, part := 0x10 }
    array := { r with feedq := [q] }
    chans := [(3, holds items)]
    pool := pool }
/-- Groups of two positions in bf16, dense and sparse, one of four in an MX format, and rings of two. -/
def dense2 : Group := ⟨8 * 2 ^ 14 + 5 * 2 ^ 23, 8⟩
def sparse2 : Group := ⟨8 * 2 ^ 14 + 5 * 2 ^ 23 + 2 ^ 56, 8⟩
def ring2 : Group := ⟨8 * 2 ^ 14 + 5 * 2 ^ 23 + 2 ^ 26, 8⟩
/-- A hold of values at 0x400, scales at 0x500 and coordinates at 0x600, n scales for each group. -/
def holding (g : Group) (n : Nat) : ArCmd := { arOf .hold 0x700 0 (0x400 + 0x500 * 2 ^ 64 + 0x600 * 2 ^ 128 + n * 2 ^ 192) with groups := [g] }
def holdPool : Memory := [(0x401, 0x40), (0x600, 5), (0x602, 5)]
def held (g : Group) (n : Nat) (r : Array) : State := queued (holding g n) r [] holdPool
def slotIs (value kpos : Nat) (absent : Bool) : Slot := ⟨value, 0, kpos, true, absent, false⟩
def ringOf (t : State) (key : Nat) : List Slot := ((t.crew 0).array.cell key 1).ring
/-- HoldAndFeed: a hold of a group whose rings are empty, and the firstEmpty place of each. -/
theorem test_meets_hold : ((held dense2 0 emptyArray).core 0).held = true ∧ ((held dense2 0 emptyArray).crew 0).array.feedq = [holding dense2 0] ∧
    ((held dense2 0 emptyArray).crew 0).array.mayAct (holding dense2 0) = true ∧ (((held dense2 0 emptyArray).drainStrand 0 0).core 0).held = true ∧
    (((held dense2 0 emptyArray).drainStrand 0 0).crew 0).memReady 0 = true ∧ (groupCells (holding dense2 0)).Nodup ∧ dense2.positions = 2 ∧ sparse2.sparse = true ∧
    (((held dense2 0 emptyArray).drainStrand 0 0).crew 0).array.feedq = [holding dense2 0] := by decide
theorem test_meets_hold_room : ∀ g ∈ (holding dense2 0).groups, ∀ i, i < g.positions →
    ∃ p, firstEmpty ((((held dense2 0 emptyArray).drainStrand 0 0).crew 0).array.cell (g.cellOf i) g.depth) p := by
  intro g hg i _
  obtain rfl : g = dense2 := by simpa [holding] using hg
  exact ⟨0, 0, by decide +revert, by decide +revert, by decide +revert, fun j h => absurd h (Nat.not_lt_zero j)⟩
/-- A hold whose group's ring is full waits. -/
def heldFull : State := held dense2 0 { emptyArray with cells := [(0, ⟨[slotIs 1 0 false], 0, none, [], 0⟩)] }
theorem test_meets_hold_full : (heldFull.core 0).held = true ∧ (heldFull.crew 0).array.feedq = [holding dense2 0] ∧ (heldFull.crew 0).array.mayAct (holding dense2 0) = true ∧
    dense2 ∈ (holding dense2 0).groups ∧ 0 < dense2.positions ∧
    (∀ z ∈ (((heldFull.drainStrand 0 0).crew 0).array.cell (dense2.cellOf 0) dense2.depth).ring, z.full = true) := by decide

/-- A feed of n rows of k elements from channel 3 to a group, its rows from row 2 of the groups on; where its work stands; and a token of it. -/
def feedOf (g : Group) (n k : Nat) : ArCmd := { arOf .feed (3 + 0xC0 + n * 2 ^ 16) (k + 2 * 2 ^ 16) 0 with groups := [g] }
def feeding (g : Group) (n k : Nat) (pos : FeedPos) (cells : Tab Cell) (i : Item) : State :=
  queued (feedOf g n k) { emptyArray with
    feedPos := pos
    cells := cells
    nextSpan := 4
    spans := if pos.tok = 0 then [] else [{ span7 with id := 3, pairs := [], closed := false }] } [i] []
def twoValues : Token := tok (0x3F80 + 0x4000 * 2 ^ 16)
/-- HoldAndFeed: the first and only token of a row, whose latches are free, and a second token of a row. -/
theorem test_meets_feed : feedAt (feeding dense2 2 2 emptyFeedPos [] (.tok twoValues)) 0 (feedOf dense2 2 2) [] ∧
    ((feeding dense2 2 2 emptyFeedPos [] (.tok twoValues)).crew 0).see 28 (feedOf dense2 2 2).chan = .tok twoValues ∧ twoValues.kind = 0 ∧
    mxFmt (feedOf dense2 2 2).rowFmt = false ∧ (groupCells (feedOf dense2 2 2)).Nodup ∧ (feedOf dense2 2 2).rowTokens = 1 ∧ (feedOf dense2 2 20).rowTokens = 2 ∧
    (feedOf dense2 2 2).rows = 2 ∧ ((feeding dense2 2 20 ⟨0, 1, none, false, false, [3]⟩ [] (.tok twoValues)).crew 0).array.feedPos.spans.length = (feedOf dense2 2 20).groups.length := by
  simp only [feedAt]; decide
theorem test_meets_feed_free : ∀ (n i j : Nat) (g : Group), delivered ((feeding dense2 2 2 emptyFeedPos [] (.tok twoValues)).crew 0).array (feedOf dense2 2 2) n i j g →
    (((feeding dense2 2 2 emptyFeedPos [] (.tok twoValues)).crew 0).array.cell (g.cellOf i) g.depth).latch = none := fun _ _ _ _ _ => rfl
theorem test_meets_delivered : delivered ((feeding dense2 2 2 emptyFeedPos [] (.tok twoValues)).crew 0).array (feedOf dense2 2 2) 0 1 1 dense2 ∧
    delivered ((feeding sparse2 2 2 emptyFeedPos [(0, ⟨[slotIs 1 1 false], 0, none, [], 0⟩)] (.tok twoValues)).crew 0).array (feedOf sparse2 2 2) 0 0 1 sparse2 := by
  simp only [delivered, takesElement]; decide
def latchOf (t : State) (key : Nat) : Option Moving := ((t.crew 0).array.cell key 1).latch
/-- A position whose latch is taken holds the feed up. -/
def feedFull : State := feeding dense2 2 2 emptyFeedPos [(8, ⟨[slotIs 1 1 false], 0, some ⟨1, 0, 1, false, 3⟩, [], 0⟩)] (.tok twoValues)
theorem test_meets_feed_full : feedAt feedFull 0 (feedOf dense2 2 2) [] ∧ (feedFull.crew 0).see 28 (feedOf dense2 2 2).chan = .tok twoValues ∧
    delivered (feedFull.crew 0).array (feedOf dense2 2 2) 0 1 1 dense2 ∧ ((feedFull.crew 0).array.cell (dense2.cellOf 1) dense2.depth).latch.isSome = true := by
  simp only [feedAt, delivered, takesElement]; decide
/-- The scale token of an MX row, a stop and a count, an error token, and a rank-7 stop. -/
def errTok : Token := ⟨5, 0, 3, false⟩
theorem test_meets_feed_others : feedAt (feeding group4 1 32 emptyFeedPos [] (.tok (tok 0x7F))) 0 (feedOf group4 1 32) [] ∧ mxFmt (feedOf group4 1 32).rowFmt = true ∧
    1 < (feedOf group4 1 32).rowTokens ∧ ((feeding group4 1 32 emptyFeedPos [] (.tok (tok 0x7F))).crew 0).see 28 (feedOf group4 1 32).chan = .tok (tok 0x7F) ∧
    ((feeding dense2 2 2 emptyFeedPos [] (.tok (stopTok 3 0))).crew 0).see 28 3 = .tok (stopTok 3 0) ∧
    (∃ t p, ((feeding dense2 2 2 emptyFeedPos [] (.tok (stopTok 0 0))).crew 0).see 28 3 = .zero t p) ∧
    ((feeding dense2 2 2 emptyFeedPos [] (.tok (countTok 4))).crew 0).see 28 3 = .tok (countTok 4) ∧ (countTok 4).kind = 2 ∧
    ((feeding dense2 2 2 emptyFeedPos [] (.tok errTok)).crew 0).see 28 3 = .tok errTok ∧ errTok.kind = 3 ∧
    (∃ t, ((feeding dense2 2 2 ⟨0, 1, none, false, false, [3]⟩ [] (.tok (stopTok 7 0))).crew 0).see 28 3 = .seven t) :=
  ⟨by simp only [feedAt]; decide, by decide, by decide, by decide, by decide, ⟨_, _, rfl⟩, by decide, by decide, by decide, by decide, _, rfl⟩
/-- A step on a queue's turn. -/
def turned (s : State) : State := { s with sched := [⟨.queue 0 2, 20, 0⟩] }
theorem test_meets_queue_turn : (turned (held dense2 0 emptyArray)).turn.who = .queue 0 2 := by decide

/-- A crew whose VE queue holds a command before another, with its element 3 and a strand's buffered store to 0x404. -/
def veWith (v : VeCmd) (x : Element) (pool : Memory) : State :=
  deviceOf { crewOf { strand0 with buffer := [⟨.sp 0x404, [0xEE], 0⟩] } with
    veq := [⟨v, 9, 0, 0, false⟩, ⟨.stop 1, 8, 0, 0, false⟩]
    elems := [(3, x)]
    pool := pool
    poolPoison := [0x21] }
def regged : Element := { emptyElement with
  regs := [(8 * 128, ⟨0x11223344, 0, false⟩), (8 * 129 + 7, ⟨5, 0, true⟩), (8 * 130, ⟨6, 0, false⟩)]
  preds := [(9, 0x81)] }
def veRest : List VeEntry := [⟨.stop 1, 8, 0, 0, false⟩]
/-- ElementQueueWork: transfers of two registers and of the predicate block. -/
theorem test_meets_transfers : veAt (veWith (.rd 0x400 3 128 2) regged []) 0 ⟨.rd 0x400 3 128 2, 9, 0, 0, false⟩ veRest ∧ (128 : Nat) ≠ 832 ∧
    ((veWith (.rd 0x400 3 128 2) regged []).crew 0).memReady 0 = true ∧ 0x400 % 32 = 0 ∧
    ((veWith (.rd 0x400 3 832 1) regged []).crew 0).memReady 0 = true ∧ ((veWith (.wr 0x400 3 128 2) regged []).crew 0).memReady 0 = true ∧
    ((veWith (.wr 0x420 3 832 1) regged []).crew 0).memReady 0 = true ∧
    smem ((veEdge (veWith (.wr 0x420 3 832 1) regged []) 0 0x420 32 ⟨.wr 0x420 3 832 1, 9, 0, 0, false⟩).crew 0).poolPoison (0x420 / 32) = true := by
  simp only [veAt]; decide
theorem test_meets_transfers_wf : memoriesWf (veEdge (veWith (.rd 0x400 3 128 2) regged []) 0 0x400 64 ⟨.rd 0x400 3 128 2, 9, 0, 0, false⟩) ∧
    memoriesWf (veEdge (veWith (.rd 0x400 3 832 1) regged []) 0 0x400 32 ⟨.rd 0x400 3 832 1, 9, 0, 0, false⟩) :=
  ⟨memoriesWf_of _ (by decide) (by decide) (by decide), memoriesWf_of _ (by decide) (by decide) (by decide)⟩
/-- The planes of an element with no swap armed and of one with a swap armed; and a transfer that an older command of another queue holds up. -/
def armed3 : Element := { emptyElement with state := 2 }
def later : State :=
  let s := veWith (.rd 0x400 3 128 2) regged []
  s.setCrew 0 { s.crew 0 with
    veq := [⟨.rd 0x400 3 128 2, 9, 0, 1, false⟩]
    streams := { emptyStreams with queue := [anyCmd] } }
theorem test_meets_planes : veAt (veWith (.bind 3 0x23) emptyElement []) 0 ⟨.bind 3 0x23, 9, 0, 0, false⟩ veRest ∧
    (((veWith (.bind 3 0x23) emptyElement []).crew 0).elem 3).state.getLsbD 1 = false ∧ (VeCmd.bind 3 0x23).writesPlane = some 3 ∧
    (VeCmd.konst 3 62 [4, 5]).writesPlane = some 3 ∧ (VeCmd.plane 3 2 1 [(0, 8)]).writesPlane = some 3 ∧
    (((veWith (.bind 3 0x23) armed3 []).crew 0).elem 3).state.getLsbD 1 = true ∧
    veAt later 0 ⟨.rd 0x400 3 128 2, 9, 0, 1, false⟩ [] ∧ (VeCmd.rd 0x400 3 128 2).touchesMemory = true ∧ (later.crew 0).memReady 1 = false := by
  simp only [veAt]; decide
/-- A running element whose active plane has slots and takes channel 3, and a swap on that channel; starts and stops of elements 3 and 4. -/
def running3 : Element := { emptyElement with
  state := 1
  active := { emptyElement.active with valid := 1, ports := 0x23 }
  idle := { emptyElement.idle with ports := 0x23 } }
theorem test_meets_swap : veAt (veWith (.swap 3 3) running3 []) 0 ⟨.swap 3 3, 9, 0, 0, false⟩ veRest ∧ (3 : Nat) < 32 ∧ running3.state.getLsbD 1 = false ∧
    3 ∈ portIns running3.active.ports ∧ running3.idle.ports = running3.active.ports ∧ running3.state.getLsbD 0 = true ∧ running3.active.valid ≠ 0 ∧
    9 ∉ portIns running3.active.ports ∧
    veAt (veWith (.stop 0x18) running3 []) 0 ⟨.stop 0x18, 9, 0, 0, false⟩ veRest ∧ (0x18 : Nat).testBit 3 = true ∧ (0x18 : Nat).testBit 2 = false := by
  simp only [veAt]; decide
/-- A stop that has begun, with an element still running and with none. -/
def stoppingVe (x : Element) : State :=
  let s := veWith (.stop 0x18) x []
  s.setCrew 0 { s.crew 0 with veq := ⟨.stop 0x18, 9, 0, 0, true⟩ :: veRest }
theorem test_meets_stopped : veAt (stoppingVe running3) 0 ⟨.stop 0x18, 9, 0, 0, true⟩ veRest ∧
    (∃ e, e < 8 ∧ (0x18 : Nat).testBit e = true ∧ (((stoppingVe running3).crew 0).elem e).state.getLsbD 0 = true) ∧
    (∀ e, e < 8 → (0x18 : Nat).testBit e = true → (((stoppingVe emptyElement).crew 0).elem e).state.getLsbD 0 = false) :=
  ⟨by simp only [veAt]; decide, ⟨3, by decide, by decide, by decide⟩, by decide⟩

/-! ### Triggered operations -/

/-- Element 0 with values in lanes 0 and 7 of shared registers 128 and 129, and in element 1 nothing; channel 3 holds a token. -/
def lane (v : Nat) : Lane := ⟨BitVec.ofNat 32 v, 0, false⟩
def elementState (st : Word) : State :=
  deviceOf { crewOf strand0 with
    elems := [(0, { emptyElement with
      active := ⟨0, 1, [(0, 0)], [], 0⟩
      regs := [(1024, lane 0x7FFFFFFF), (1031, lane 5), (1032, lane 1), (1039, lane 0xFFFFFFFF)]
      state := st })]
    chans := [(3, holds [.tok (tok 5)])] }
def trigAB (d b : BitVec 10) (m : BitVec 3) : Trig := ⟨false, 0, 0, false, 0, 0, m, d, 128, b⟩
/-- FiringFrame, LaneResults: an addition with S into register 130, and one into channel 4. -/
theorem test_meets_lanes : firingRow (.vadd (trigAB 130 129 4)) = some (trigAB 130 129 4, .b) ∧ (elementState 0).cur.err = 0 ∧
    (∃ sh sel P, laneRow (acting (elementState 0)) (.vadd (trigAB 130 129 4)) = some (trigAB 130 129 4, sh, sel, P)) ∧
    (trigAB 130 129 4).d.toNat < 768 ∧ 768 ≤ (trigAB 799 129 4).d.toNat ∧ (trigAB 799 129 4).d.toNat < 800 :=
  ⟨by rfl, by decide, ⟨_, _, _, rfl⟩, by decide, by decide, by decide⟩
/-- PredicateAndTokenFirings: a comparison into lp7, an enq of each kind, a stop, and a deq of the channel that a names. -/
theorem test_meets_predicates : (∃ P, predicateRow (.vcmp (trigAB 839 129 2)) = some (trigAB 839 129 2, .b, P)) ∧ 832 ≤ (trigAB 839 129 2).d.toNat ∧
    (trigAB 839 129 2).d.toNat < 840 ∧ (trigAB 799 3 0).b.toNat < 4 ∧ (trigAB 799 3 0).b.toNat ≠ 1 ∧ (trigAB 799 2 0).b.toNat = 2 :=
  ⟨⟨_, rfl⟩, by decide, by decide, by decide, by decide, by decide⟩

/-! ### The network interface -/

/-- A get of 32 bytes at sp 0x40, a send of 32 bytes to ring 7 of device 1, and a hand.rel of the page list at sp 0x440. -/
def getBlock : Nat := 0x40 + 0x10000 * 2 ^ 64 + 32 * 2 ^ 128 + 1 * 2 ^ 160
def sendBlock : Nat := 0x40 + 32 * 2 ^ 32 + 1 * 2 ^ 64 + 7 * 2 ^ 80 + 5 * 2 ^ 128
def relBlock : Nat := 0x440 + 1 * 2 ^ 32 + 55 * 2 ^ 64
def redBlock : Nat := 0x440 + 0x480 * 2 ^ 32 + 32 * 2 ^ 64 + (9 + 256) * 2 ^ 96
/-- NxDispatch. -/
theorem test_meets_nx : nxRow (.nxGet 5 9 0) = some (.get, 5, 9, 0) ∧ (commanding 0x400 0 getBlock).blockRefusal 0x400 64 64 = none ∧
    nxLegal (commanding 0x400 0 getBlock) getBlock [] .get ∧ nxLegal (commanding 0x400 0 sendBlock) sendBlock [] .send ∧
    nxLegal (commanding 0x400 0 redBlock) redBlock [] .red ∧ nxLegal (commanding 0x400 0 relBlock) relBlock [0] .rel ∧ 0x410 % 64 ≠ 0 := by
  simp only [nxLegal, collLegal, listLegal, inPool, zeroBytes]
  repeat' apply And.intro
  all_goals decide
/-- A ring of 4096 bytes at 0x10000, its control block at 0x18000. -/
def ringBlock : Nat := 0x10000 + 0x18000 * 2 ^ 64 + 4096 * 2 ^ 128 + (1 + 7 * 4) * 2 ^ 160
def nxFull : State := let s := commanding 0x400 0 getBlock; s.setMine { s.mine with nxq := List.replicate 32 (nxCommand s .get 5 9 0 []) }
def nxOther (op : NxOp) (blk : Nat) (list : List Nat) : Prop := nxLegal (commanding 0x400 0 blk) blk list op
def routeBlock : Nat := 0x80 + 1 * 2 ^ 32 + 0xC0 * 2 ^ 64 + 1 * 2 ^ 96 + 0x100 * 2 ^ 128 + 32 * 2 ^ 160 + 32 * 2 ^ 192 + 0x140 * 2 ^ 224 + 8 * 2 ^ 256
def chanBlock : Nat := 127 + 4095 * 2 ^ 32 + 1 * 2 ^ 64
def grpBlock : Nat := 9 + 512 + 1 * 2 ^ 128
def fltBlock : Nat := 0x440 + 0x480 * 2 ^ 32 + 32 * 2 ^ 64 + 9 * 2 ^ 96 + 32 * 2 ^ 192
theorem test_meets_nx_others : nxOther .put getBlock [] ∧ nxOther .route routeBlock [] ∧ nxOther .ring (ringBlock - 2 ^ 160) [] ∧ nxOther .chan chanBlock [] ∧
    nxOther .grp grpBlock [] ∧ nxOther .flt fltBlock [] ∧ nxOther .bc (redBlock - 256 * 2 ^ 96) [] ∧ nxOther .ar redBlock [] ∧
    nxOther .acq (relBlock - 55 * 2 ^ 64) [0] ∧ nxOther .query (0x440 + 1 * 2 ^ 32 + 0x480 * 2 ^ 64) [0] ∧ 32 ≤ nxFull.mine.nxq.length := by
  simp only [nxOther, nxLegal, collLegal, listLegal, inPool, zeroBytes]
  repeat' apply And.intro
  all_goals decide
def ringing : State := let s := mapped 0x400 0; s.setMine { s.mine with pool := mput [] 0x400 64 ringBlock }
theorem test_meets_ring : ringing.blockRefusal 0x400 64 64 = none ∧ ofBytes (ringing.dispatchBytes 0x400 64) = ringBlock ∧ (blkAt ringBlock 0x14 4).testBit 0 = true ∧
    blkAt ringBlock 0x10 4 = 2 ^ (blkAt ringBlock 0x10 4).log2 ∧ zeroBytes ringBlock 0x18 32 ∧
    (∃ m s1, ringing.ringPages 0 (pageStarts 0x10000 4096 ++ [0x18000]) [] = (.ok m, [0x20000, 0x28000], s1)) := by
  refine ⟨by decide, by decide, by decide, by decide, ?_, _, _, Prod.ext rfl (Prod.ext (by decide) rfl)⟩
  simp only [zeroBytes]; decide
def xgetBlock : Nat := 0x10000 + 0x20000 * 2 ^ 64 + 0x41 * 2 ^ 128 + 16 * 2 ^ 160 + 2048 * 2 ^ 192 + 64 * 2 ^ 224
theorem test_meets_xget : blkAt xgetBlock 0 8 % xgetSize xgetBlock = 0 ∧ field (blkAt xgetBlock 0x10 4) 1 0 < 2 ∧ blkAt xgetBlock 0x18 4 ≤ 2048 ∧
    blkAt xgetBlock 0x1C 4 % xgetSize xgetBlock = 0 ∧ zeroBytes xgetBlock 0x20 24 ∧ (31 : Nat) + 32 * 30 = 991 ∧
    (commanding 0x400 991 xgetBlock).mine.roleTaken emptyShadow false 31 99 = false ∧ (commanding 0x400 991 xgetBlock).mine.roleTaken emptyShadow true 30 99 = false := by
  simp only [zeroBytes]; decide

/-- A command of the NX in progress under key 4. -/
def nxCmdOf (op : NxOp) (blk : Nat) : NxCmd := ⟨op, 0x400, blk, 0, [], 9, 0, 0, 0⟩
def job (op : NxOp) (blk : Nat) : NxJob := NxJob.start (nxCmdOf op blk)
def jobState (j : NxJob) (pool : Memory) : State :=
  let s := mapped 0 0
  { s.setMine { s.mine with nx := [(4, j)], pool := pool } with
    rings := [(7, ⟨0, 0, 0, [0x20000], 4096, true, 0x28000, 3968, 9⟩)]
    hbm := mput [] 0x28008 8 64 }
def finished : NxJob := { job .get getBlock with
  phase := .finished
  code := 0x33
  detail := 7
  count := 1 }
/-- NxSteps: a command that completes, an admission into the last 128 bytes of a ring, one to no ring. -/
theorem test_meets_nx_steps : working (jobState finished []) 0 4 finished ∧ finished.sent = [] ∧ finished.code ≠ 0x31 ∧ finished.code ≠ 0x30 ∧
    working (jobState { job .send sendBlock with pieces := [(0, [1, 2], false)] } []) 0 4 { job .send sendBlock with pieces := [(0, [1, 2], false)] } ∧
    ((jobState (job .send sendBlock) []).crew 0).admitsLater (job .send sendBlock) = false ∧ (nxCmdOf .send sendBlock).at' 8 2 = 1 ∧
    tfind (jobState (job .send sendBlock) []).rings ((nxCmdOf .send sendBlock).at' 0xA 1) = some ⟨0, 0, 0, [0x20000], 4096, true, 0x28000, 3968, 9⟩ ∧
    3968 % 4096 + (⟨[1, 2], [], 0, 1, 0, 5⟩ : Message).recordLength ≤ 4096 ∧
    (⟨[1, 2], [], 0, 1, 0, 5⟩ : Message).recordLength ≤ (jobState (job .send sendBlock) []).ringFree ⟨0, 0, 0, [0x20000], 4096, true, 0x28000, 3968, 9⟩ ∧
    tfind (jobState (job .send (sendBlock + 2 ^ 80)) []).rings ((nxCmdOf .send (sendBlock + 2 ^ 80)).at' 0xA 1) = none ∧ memoriesWf (jobState finished []) := by
  simp only [working]
  exact ⟨by decide, by decide, by decide, by decide, by decide, by decide, by decide, by decide, by decide, by decide, by decide, memoriesWf_of _ (by decide) (by decide) (by decide)⟩
/-- NxSteps: a route whose one assignment names no valid expert, and the same with none left. -/
def routing (pos : Nat) : NxJob := { job .route routeBlock with pos := pos, asked := [0, 0] }
theorem test_meets_route : working (jobState (routing 0) []) 0 4 (routing 0) ∧ assignment ((jobState (routing 0) []).poolWord 0 (nxCmdOf .route routeBlock).route.asg) = (0, 0, 0) ∧
    (nxCmdOf .route routeBlock).route.rows + 0 * (nxCmdOf .route routeBlock).route.rowstride + (nxCmdOf .route routeBlock).route.rowlen ≤ (commanding 0 0 0).mine.spSize ∧
    (jobState (routing 0) []).expert 0 (nxCmdOf .route routeBlock).route 0 = none ∧ (nxCmdOf .route routeBlock).route.nexp < (routing 0).asked.length ∧
    (nxCmdOf .route routeBlock).at' 4 4 ≤ (routing 1).pos := by
  simp only [working]; decide
/-- NxSteps: a producer on core 0 and a consumer on core 1 under one identifier. -/
def producer (paired : Bool) : Endpoint := ⟨5, 1, 1, paired, 16, [], false⟩
def consumer : Endpoint := ⟨5, 1, 0, true, 0, [tok 8], false⟩
def elastic (paired : Bool) : State :=
  let s := mapped 0 0
  { s with cores := [(0, ⟨true, { crewOf strand0 with endpoints := [(3, producer paired)], chans := [(3, holds [.tok (tok 5)])] }, 0⟩),
    (1, ⟨true, { crewOf strand0 with info := { emptyInfo with tile := 1, nstr := 4 }, endpoints := [(36, consumer)] }, 0⟩)] }
theorem test_meets_elastic : (elastic false).peerOf ((elastic false).crew 0) 3 (producer false) = some ((elastic false).crew 1, 36, consumer) ∧
    (producer false).dev = (elastic false).sys.devid ∧ (((elastic true).crew 0).chan 3).head = some (tok 5) ∧
    (elastic true).peerOf ((elastic true).crew 0) 3 (producer true) = some ((elastic true).crew 1, 36, consumer) ∧
    tfind ((elastic true).crew 1).endpoints 36 = some consumer ∧ ((elastic true).crew 1).info.tile ≠ ((elastic true).crew 0).info.tile ∧
    ((elastic true).crew 1).canSend (tok 8) (36 - 32) = true := by decide
/-- GroupsAndHandover: a group of one member on this device and one on device 5, heard and not; a member's collective; a device lost; a page in transit. -/
def group9 (mismatch : Bool) : CollGroup := { newGroup 0 1 [1, 5] ⟨0, 0, 0, 0, false⟩ with mismatch := mismatch, told := true }
def grouped (e : CollGroup) (j : NxJob) : State :=
  { jobState j [] with
    groups := [(9, e)]
    reports := [(9, 5, 1, [1, 5])]
    handovers := [(2, ⟨3, 0, 0, 1, 511⟩)]
    lines := [(1535, ⟨[1], some 1, true⟩)]
    fabric := emptyFabric }
def joiningJob : NxJob := { job .grp grpBlock with phase := .waiting }
theorem test_meets_groups : (grouped (group9 false) joiningJob).group 9 = some (group9 false) ∧ (grouped (group9 false) joiningJob).reportsDiffer 9 (group9 false) = false ∧
    (group9 false).nlocal ≤ (group9 false).members.length ∧ (grouped (group9 false) joiningJob).reportsIn 9 (group9 false) = true ∧
    working (grouped (group9 false) joiningJob) 0 4 joiningJob ∧ joiningJob.cmd.groupId = 9 ∧ (group9 true).mismatch = true ∧
    (job .red redBlock).cmd.op.collKind ≠ 0 ∧ (job .red redBlock).cmd.groupId = 9 ∧
    (∃ m, { group9 false with complete := true }.memberOf ((grouped (group9 false) (job .red redBlock)).crew 0).info = some m) ∧
    (5 : Nat) ∈ (group9 false).devs ∧ (grouped (group9 false) joiningJob).routeUp 5 = false ∧ 1 / (group9 false).nlocal = (group9 false).devs.idxOf 5 ∧
    1 < (group9 false).size ∧ tfind (grouped (group9 false) joiningJob).handovers 2 = some ⟨3, 0, 0, 1, 511⟩ := by
  simp only [working]
  exact ⟨by decide, by decide, by decide, by decide, by decide, by decide, by decide, by decide, by decide, ⟨_, rfl⟩, by decide, by decide, by decide, by decide, by decide⟩

/-! ### The work of queued commands -/

/-- A put from sp 0x40 to 0x10000 within the device and to 0x30000 on device 5; a get from 0x10000 and from 0x30000, to sp 0x40. -/
def farBlock : Nat := getBlock + 0x20000 * 2 ^ 64
def copyState (j : NxJob) : State := { jobState j [(0x40, 9), (0x5F, 7)] with hbm := [(0x20001, 5)] }
/-- NxSteps: a unit from the scratchpad to the global space, and one back. -/
theorem test_meets_put : copying (copyState (job .put getBlock)) 0 4 32 (job .put getBlock) ∧
    ∃ bs s1 s2, unitRead (copyState (job .put getBlock)) 0 4 32 (job .put getBlock) bs s1 ∧
      unitPlace s1 0 4 32 0x10000 (job .put getBlock) (job .put getBlock).cmd.copy.dstSp (.hbm 0x20000) s2 ∧ memoryPlace (.hbm 0x20000) = true ∧ memoriesWf s2 := by
  refine ⟨?_, _, _, _, .inl ⟨by decide, rfl, rfl⟩, .inr ⟨by decide, 0x20000, leafPolicy 0x200DF, _, Prod.ext (by decide) rfl, rfl⟩, by decide,
    memoriesWf_of _ (by decide) (by decide) (by decide)⟩
  simp only [copying, working]; decide
theorem test_meets_get : copying (copyState (job .get getBlock)) 0 4 32 (job .get getBlock) ∧
    ∃ bs s1 s2, unitRead (copyState (job .get getBlock)) 0 4 32 (job .get getBlock) bs s1 ∧
      unitPlace s1 0 4 32 0x40 (job .get getBlock) (job .get getBlock).cmd.copy.dstSp (.pool 0 0x40) s2 ∧ memoryPlace (.pool 0 0x40) = true ∧ memoriesWf s2 := by
  refine ⟨?_, _, _, _, .inr ⟨by decide, by decide, by decide, .hbm 0x20000, 0x20000, leafPolicy 0x200DF, _, Prod.ext (by decide) rfl, rfl, rfl⟩, .inl ⟨by decide, by decide, rfl⟩, by decide,
    memoriesWf_of _ (by decide) (by decide) (by decide)⟩
  simp only [copying, working]; decide
/-- NxSteps: a unit to another device, and one asked of it. -/
theorem test_meets_copy_far : copying (copyState (job .put farBlock)) 0 4 32 (job .put farBlock) ∧ (job .put farBlock).cmd.copy.dstSp = false ∧
    (∃ bs s1 s0, unitRead (copyState (job .put farBlock)) 0 4 32 (job .put farBlock) bs s1 ∧
      s1.target 0 0 4 0x30000 32 needWrite = (.remote 5 0x40000, s0) ∧ s0.flowOpen 5 0 = true) ∧
    copying (copyState (job .get farBlock)) 0 4 32 (job .get farBlock) ∧ (job .get farBlock).cmd.copy.srcSp = false ∧
    (0x30000 : Nat) / 65536 = (0x30000 + 32 - 1) / 65536 ∧
    ∃ s0, (copyState (job .get farBlock)).target 0 0 4 0x30000 32 needRead = (.remote 5 0x40000, s0) ∧ s0.flowOpen 5 0 = true := by
  refine ⟨?_, by decide, ⟨_, _, _, .inl ⟨by decide, rfl, rfl⟩, Prod.ext (by decide) rfl, by decide⟩, ?_, by decide, by decide, _, Prod.ext (by decide) rfl, by decide⟩
  all_goals simp only [copying, working]; decide
/-- NxSteps: a copy at its end, without a flag and with one of 0x1234 at 0x10008. -/
def ended32 (blk : Nat) : NxJob := { job .get blk with pos := 32, count := 32 }
def flagBlock : Nat := getBlock + 16 * 2 ^ 160 + 0x10008 * 2 ^ 192 + 0x1234 * 2 ^ 256
theorem test_meets_copy_end : working (copyState (ended32 getBlock)) 0 4 (ended32 getBlock) ∧ (ended32 getBlock).cmd.copy.len ≤ 32 ∧
    (blkAt getBlock 0x14 4).testBit 4 = false ∧ working (copyState (ended32 flagBlock)) 0 4 (ended32 flagBlock) ∧ (blkAt flagBlock 0x14 4).testBit 4 = true ∧
    32 = (ended32 flagBlock).cmd.copy.len ∧ ∃ s2, unitPlace (copyState (ended32 flagBlock)) 0 4 8 (blkAt flagBlock 0x18 8) (ended32 flagBlock) false (.hbm 0x20008) s2 ∧
      memoriesWf s2 := by
  refine ⟨by simp only [working]; decide, by decide, by decide, by simp only [working]; decide, by decide, by decide, _,
    .inr ⟨rfl, 0x20008, leafPolicy 0x200DF, _, Prod.ext (by decide) rfl, rfl⟩, memoriesWf_of _ (by decide) (by decide) (by decide)⟩

/-- An indexed read of 8-byte elements, 64 bytes apart from 0x10000 on, whose next index is 2 or, out of its window, 4,000; one with a token to send. -/
def gatherBlock : Nat := 0x10000 + 64 * 2 ^ 64 + 0x41 * 2 ^ 128 + 16 * 2 ^ 160 + 2048 * 2 ^ 192 + 64 * 2 ^ 224
def gatherJob (send : List Token) : NxJob :=
  let c : NxCmd := { nxCmdOf .xget gatherBlock with chans := 3 + 32 * 4 }
  { NxJob.start c with gather := some { c.gatherStart with send := send } }
def gatherActive (send : List Token) : Active := { (gatherJob send).cmd.gatherStart with send := send }
def gatherState (send : List Token) (x : Nat) : State :=
  let s := jobState (gatherJob send) []
  { s.setCrew 0 { s.crew 0 with chans := [(3, holds [.tok (tok x)])] } with hbm := [(0x20080, 0x66)] }
theorem test_meets_xget_steps : following (gatherState [] 2) 0 4 2 (gatherJob []) (gatherActive []) ∧ 2 / 2 ^ field (blkAt gatherBlock 0x10 4) 5 2 < blkAt gatherBlock 0x18 4 ∧
    (2 % 2 ^ field (blkAt gatherBlock 0x10 4) 5 2 + 1) * xgetSize gatherBlock ≤ blkAt gatherBlock 0x1C 4 ∧
    (∃ s1 b, (gatherState [] 2).readElem 0 0 68 0 (gatherActive []) (0x10080 : Nat) 8 = (.value 0x66 false, s1, b) ∧ (b.outN + 1) * 64 ≠ 256 ∧ b.pos + 1 < 16) ∧
    following (gatherState [] 4000) 0 4 4000 (gatherJob []) (gatherActive []) ∧ blkAt gatherBlock 0x18 4 ≤ 4000 / 2 ^ field (blkAt gatherBlock 0x10 4) 5 2 ∧
    xgetSize gatherBlock = 8 ∧ working (gatherState [tok 5] 2) 0 4 (gatherJob [tok 5]) ∧ ((gatherState [tok 5] 2).crew 0).xgetBlocked (gatherJob [tok 5]) = false ∧
    ((gatherState [tok 5] 2).crew 0).canSend (tok 5) 4 = true ∧ ((gatherState [tok 5] 2).crew 0).mayWrite ((gatherState [tok 5] 2).crew 0 |>.isNew 0) 99 4 = true := by
  simp only [following, working]
  refine ⟨⟨by decide, by decide, by decide, by decide, by decide, by decide, by decide, by decide, by decide, by decide, tok 2, by decide, by decide, by decide, by decide⟩,
    by decide, by decide, ⟨_, _, Prod.ext (by decide) (Prod.ext rfl rfl), by decide, by decide⟩,
    ⟨by decide, by decide, by decide, by decide, by decide, by decide, by decide, by decide, by decide, by decide, tok 4000, by decide, by decide, by decide, by decide⟩, ?_⟩
  decide

/-- A handover command whose list is the page at 0x40000, under handover control at HBM 0x30000, with its record; its words are cached in clusters 0 and its line in the slice. -/
def handJob (op : NxOp) (blk : Nat) : NxJob := NxJob.start { nxCmdOf op blk with list := [0x40000] }
def handState (j : NxJob) (h : Handover) : State :=
  { jobState j [] with
    clusters := [(0, ⟨[⟨none, 0, 4, 0x308DF⟩, ⟨none, 0, 1, 0x200DF⟩], [], none, []⟩)]
    handovers := [(3, h), (9, ⟨1, 2, 3, 0, 0⟩)] }
def acqBlock (count layer : Nat) : Nat := 0x440 + 1 * 2 ^ 32 + count * 2 ^ 64 + layer * 2 ^ 80
def queryBlock : Nat := 0x440 + 1 * 2 ^ 32 + 0x480 * 2 ^ 64
/-- GroupsAndHandover: a release, one refused, an acquire that is met, one past its count and one of another layer, and a query. -/
theorem test_meets_hand : working (handState (handJob .rel relBlock) ⟨0, 7, 8, 2, 512⟩) 0 4 (handJob .rel relBlock) ∧
    (∃ s1, (handState (handJob .rel relBlock) ⟨0, 7, 8, 2, 512⟩).handPages 0 [0x40000] = ([(0x30000, (⟨0, 7, 8, 2, 512⟩ : Handover))].map (fun x => .page x.1 x.2), s1) ∧
      s1.pageBusy 0 0x30000 = false) ∧
    (∃ s1, (handState (handJob .rel relBlock) ⟨1, 7, 8, 2, 512⟩).handPages 0 [0x40000] = ([.page 0x30000 ⟨1, 7, 8, 2, 512⟩], s1)) ∧
    (∃ s1, (handState (handJob .acq (acqBlock 8 7)) ⟨0, 7, 8, 2, 512⟩).handPage 0 0x40000 = (.page 0x30000 ⟨0, 7, 8, 2, 512⟩, s1)) ∧
    (handJob .acq (acqBlock 8 7)).cmd.list = [] ++ [0x40000] ∧ blkAt (acqBlock 8 7) 8 2 = 8 ∧ blkAt (acqBlock 8 7) 0xA 2 = 7 ∧
    (8 + 65536 - blkAt (acqBlock 7 7) 8 2) % 65536 = 1 ∧ blkAt (acqBlock 8 6) 0xA 2 ≠ 7 ∧
    (∃ s1, (handState (handJob .query queryBlock) ⟨3, 7, 8, 2, 512⟩).handPages 0 [0x40000] = ([.page 0x30000 ⟨3, 7, 8, 2, 512⟩], s1) ∧
      memoriesWf (s1.dispatchEdge 0 0 (.pool 0 0x480) (8 * 1))) := by
  simp only [working]
  exact ⟨by decide, ⟨_, Prod.ext (by decide) rfl, by decide⟩, ⟨_, Prod.ext (by decide) rfl⟩, ⟨_, Prod.ext (by decide) rfl⟩, by decide, by decide, by decide, by decide,
    by decide, _, Prod.ext (by decide) rfl, memoriesWf_of _ (by decide) (by decide) (by decide)⟩

/-- A member's collective on a complete group of this device and device 5; the parts of both, as the same two numbers or records. -/
def collJob (op : NxOp) (blk : Nat) (given : Bool) : NxJob := { job op blk with phase := .waiting, given := given }
def collGroup (ps : List CollPart) : CollGroup := { group9 false with complete := true, parts := ps, readyTold := !ps.isEmpty, ready := if ps.isEmpty then [] else [(5, (0, 0))] }
def collState (e : CollGroup) (j : NxJob) : State := { jobState j [(0x440, 1), (0x444, 2)] with groups := [(9, e)] }
def collPart (op : NxOp) (blk rank : Nat) (bs : List Byte) : CollPart :=
  ⟨rank, 0, 0, 0, op.collKind, (nxCmdOf op blk).collCode, 32, (nxCmdOf op blk).collRoot, bs, []⟩
def sumBlock : Nat := redBlock + 512 * 2 ^ 96
def someFlt : Nat := fltBlock + 10 * 2 ^ 160 + 32 * 2 ^ 192
/-- 32 bytes of which the first is v, as eight words or as a record whose key is v. -/
def part32 (v : Byte) : List Byte := v :: List.replicate 31 0
def bothParts (op : NxOp) (blk : Nat) : List CollPart := [collPart op blk 0 (part32 1), collPart op blk 1 (part32 4)]
theorem test_meets_coll_give : collective (collState (collGroup []) (collJob .red sumBlock false)) 0 4 (collJob .red sumBlock false) (collGroup []) ⟨0, 0, 0, 0, false⟩ ∧
    (collState (collGroup []) (collJob .red sumBlock false)).rankOf (collGroup []) 0 = 0 ∧
    (collState (collGroup []) (collJob .red sumBlock false)).groupPeers (collGroup []) = [5] ∧
    ((collState (collGroup []) (collJob .red sumBlock false)).flow 5 3).unacked.length + Nat.max 1 ((32 + 4095) / 4096) ≤ 1024 := by
  simp only [collective, working]; decide
def meeting (op : NxOp) (blk : Nat) : State := collState (collGroup (bothParts op blk)) (collJob op blk true)
theorem test_meets_coll_combine : ∀ x ∈ [(NxOp.red, sumBlock), (.ar, sumBlock), (.bc, redBlock - 256 * 2 ^ 96), (.flt, someFlt)],
    collective (meeting x.1 x.2) 0 4 (collJob x.1 x.2 true) (collGroup (bothParts x.1 x.2)) ⟨0, 0, 0, 0, false⟩ ∧
    (meeting x.1 x.2).collJobs 9 (collGroup (bothParts x.1 x.2)) = [(0, 4, 0, collJob x.1 x.2 true)] ∧ (collGroup (bothParts x.1 x.2)).partsIn = true ∧
    (meeting x.1 x.2).peersReady (collGroup (bothParts x.1 x.2)) = true ∧ (collGroup (bothParts x.1 x.2)).partsNow = bothParts x.1 x.2 ∧
    (collGroup (bothParts x.1 x.2)).disagree (bothParts x.1 x.2) = false ∧ (nxCmdOf x.1 x.2).collLen = 32 ∧ chunkCount 32 = 1 := by
  simp only [collective, working]; decide
theorem test_meets_coll_memory : memoriesWf (meeting .red sumBlock) := memoriesWf_of _ (by decide) (by decide) (by decide)

/-! ### The fabric, and how crews leave and return -/

/-- A write of 3 bytes at HBM 0x400, with a CRC, and an 8-byte fetch-and-add of 5 at 0x500, as packets of device 5. -/
def writeOf (crc : Nat) : List Nat := [0, opWrite, 3, 65535, 0, 0x400, 0, 0, crc, 1, 2, 3]
def writeItems : List Nat := writeOf 2335154683
def atomicItems : List Nat := [2, opAtomic, 0, 65535, 0, 0x500, 0, packFields (auxWidths 2 opAtomic) [1, 64, 5, 0], 1726661253]
def takenPacket (l : List Nat) : Packet := (packetOf 1 5 65535 l).getD ⟨0, 0, 0, 0, 0, 0, 0, 0, [], 0, 0, 0⟩
/-- Device 1, which expects number 65535 of both flows of device 5; its flow to device 5 holds numbers 7, 8 and 9. -/
def outPacket (n : Nat) : Packet := ⟨5, 1, 0, opWrite, n, 0x40, 0, packFields (auxWidths 0 opWrite) [1], [0xAA], 0, 0, 0⟩
def linked : State :=
  let s := mapped 0 0
  { s with
    fabric := { emptyFabric with
      routes := [(20, 0x100003), (21, 0x100004), (24, 0x100004)]
      expect := [(20, 65535), (22, 65535)]
      out := [(20, ⟨10, [outPacket 7, outPacket 8, outPacket 9], []⟩)] }
    hbm := mput [] 0x500 8 37 }
/-- PacketsAccepted: a write in its turn, at the last number. -/
theorem test_meets_packet_write : fromOther linked 5 ∧ packetOf linked.sys.devid 5 (65535 % 65536) writeItems = some (takenPacket writeItems) ∧
    (takenPacket writeItems).cls = 0 ∧ (takenPacket writeItems).op = opWrite ∧ expected linked (takenPacket writeItems) = 65535 % 65536 ∧
    linked.takes (takenPacket writeItems) = true ∧
    linked.homeRefusal (takenPacket writeItems).place (takenPacket writeItems).payload.length true = 0 ∧ (takenPacket writeItems).payload = [1, 2, 3] ∧ (takenPacket writeItems).field 1 ≠ forToken ∧
    memoriesWf linked ∧ (∀ i, i < 3 → ∀ j, j < 3 → i ≠ j →
      linked.hbmLoc ((takenPacket writeItems).place + i) ≠ linked.hbmLoc ((takenPacket writeItems).place + j)) ∧
    (packetOf 1 5 65534 (writeOf 4060535964)).isSome = true ∧ (packetOf 1 5 3 (writeOf 1629326395)).isSome = true := by
  exact ⟨⟨by decide, by decide, by decide⟩, by decide, by decide, by decide, by decide, by decide, by decide, by decide, by decide,
    memoriesWf_of _ (by decide) (by decide) (by decide), by decide, by decide, by decide⟩
/-- PacketsAccepted: an atomic in its turn; one that is behind by one; one from ahead. -/
theorem test_meets_packet_atomic : packetOf linked.sys.devid 5 (65535 % 65536) atomicItems = some (takenPacket atomicItems) ∧
    (takenPacket atomicItems).cls = 2 ∧ (takenPacket atomicItems).op = opAtomic ∧ expected linked (takenPacket atomicItems) = 65535 % 65536 ∧
    linked.takes (takenPacket atomicItems) = true ∧ 8 = (takenPacket atomicItems).field 1 / 8 ∧ linked.homeRefusal (takenPacket atomicItems).place 8 true = 0 ∧
    linked.poisonedAt (linked.hbmLoc (takenPacket atomicItems).place) 8 = false ∧
    linked.bytesAt (linked.hbmLoc (takenPacket atomicItems).place) 8 = linked.rawBytes (linked.hbmLoc (takenPacket atomicItems).place) 8 ∧ (takenPacket atomicItems).field 0 ≠ 9 ∧
    expected linked (takenPacket writeItems) ≠ 65534 % 65536 ∧ expected linked (takenPacket writeItems) < 65536 ∧
    32768 < (expected linked (takenPacket writeItems) + 65536 - 3 % 65536) % 65536 := by decide
/-- PacketsAccepted: an acknowledgement of number 8 of three. -/
theorem test_meets_ack : (20 : Nat) % 4 ≠ 2 ∧ (tget linked.fabric.out 20 emptyFlow).unacked = [outPacket 7] ++ outPacket 8 :: [outPacket 9] ∧
    [outPacket 7].length < 1024 ∧ (∀ x ∈ [outPacket 7], x.seq ≠ 8) ∧ (outPacket 8).seq = 8 := by decide
/-- PacketsAccepted: numbers 7 and 8 of the atomic class, of which only 7 has been answered. -/
def atomicFlow : State := { linked with fabric := { linked.fabric with out := [(22, ⟨10, [outPacket 7, outPacket 8], [7]⟩)] } }
theorem test_meets_ack_atomic : (22 : Nat) % 4 = 2 ∧ (∀ x ∈ outPacket 7 :: [], x.seq ∈ (tget atomicFlow.fabric.out 22 emptyFlow).answered) ∧
    (outPacket 8).seq ∉ (tget atomicFlow.fabric.out 22 emptyFlow).answered := by decide
/-- RoutesAndLinks: two routes to device 5, of which one fails; then none is left and a strand that waits traps. -/
def waitsFor5 : Pending := ⟨4, 8, false, false, none, 0x30000, 0x8_0500_0004_0000, none, [], 4, 0, 9⟩
def lastRoute : State :=
  let s := { linked with fabric := { linked.fabric with routes := [(20, 0x300003), (21, 0x100004)] } }
  s.setStrandAt 0 0 { strandAt 0 0 with hold := .response waitsFor5 }
theorem test_meets_routes : linked.routeInUse 5 = some 0 ∧ (∃ c, c < 4 ∧ (linked.flow 5 c).unacked ≠ []) ∧ lastRoute.routeInUse 5 = some 1 ∧
    (lastRoute.flow 5 0).unacked ≠ [] ∧
    (∀ j, j < 4 → j ≠ 1 → (tget lastRoute.fabric.routes (4 * 5 + j) 0).testBit 20 = true → (tget lastRoute.fabric.routes (4 * 5 + j) 0).testBit 21 = true) ∧
    (lastRoute.core 0).held = true ∧ (lastRoute.strandAt 0 0).hold = .response waitsFor5 ∧
    isFabricPa (0x8_0500_0004_0000) = true ∧ field (0x8_0500_0004_0000) 50 40 = 5 ∧
    (lastRoute.strandAt 0 0).traps.length < 2 ∧ (∀ r ∈ linked.fabric.routes, tget linked.fabric.routes r.1 0 = r.2) := by
  refine ⟨by decide, ⟨0, by decide, by decide⟩, ?_⟩
  repeat' apply And.intro
  all_goals decide

/-! A gang of one crew on core 0, of launch 0, with a save area at 0x20000. -/
def launch0 : Launch := ⟨0, 0, 0, 1, 0, 1, 1, 4, 0, 0, 0, 0, 0, 0, 0x8000, 0, 0x48_0000, 0, 0, 0, 0, false, false, [(0, (0, 0))], 1, [], 0, none, 0⟩
def launched (w : Crew) (l : Launch) : State :=
  let s := mappedOf { w with info := { w.info with saveSize := 0x48_0000, saveBase := 0x10000 } }
  { s with
    cp := { s.cp with launches := [(0, l)] }
    time := 13000000000 }
def base0 : Crew := { crewOf (strandAt 0 0) with cycle := 13000000000 }
def haltedCrew : Crew := crewOf { strandAt 0 0 with halted := true }
/-- CrewsEnd: an ending decided, a crew that has drained, one without progress for a second, and one a moment before. -/
theorem test_meets_ends : ((launched { base0 with ending := some 0x0B } launch0).core 0).held = true ∧
    ((launched { base0 with ending := some 0x0B } launch0).crew 0).ending = some 0x0B ∧
    ((launched { base0 with ending := some 0x0B } launch0).crew 0).saving = none ∧
    (launched { base0 with ending := some 0x0B } launch0).launch 0 = some launch0 ∧
    ((launched haltedCrew launch0).crew 0).mayRetire = true ∧ (launched haltedCrew launch0).launch 0 = some launch0 ∧
    ((launched base0 launch0).crew 0).ending = none ∧ ((launched base0 launch0).crew 0).saving = none ∧ ((launched base0 launch0).crew 0).excused = false ∧
    13000000000 ≤ (launched base0 launch0).time - ((launched base0 launch0).crew 0).progress ∧ ((launched base0 launch0).crew 0).trapTarget 0 = some 0 ∧
    tfind ((launched base0 launch0).strandAt 0 0).pending 0x0D = none ∧
    (launched { base0 with progress := 1 } launch0).time - ((launched { base0 with progress := 1 } launch0).crew 0).progress < 13000000000 := by
  repeat' apply And.intro
  all_goals decide

/-- GangsSavedAndResumed: a strand whose page has been withheld for 51 µs (its context's root lies in a stack that is not trained), with a save area and
without. -/
def lateCrew : Crew := crewOf { strandAt 0 0 with hold := .withheld 0x9000 (13000000000 - 51 * 13000) }
def late (w : Crew) : State :=
  let s := launched w launch0
  { s with sys := { s.sys with trained := [] } }
def unsaved : State :=
  let s := late lateCrew
  s.setCrew 0 { s.crew 0 with info := { (s.crew 0).info with saveSize := 0 } }
def lateOf (s : State) : List (Nat × Nat) :=
  ((s.crew 0).withheldBy 0).filter (fun x => decide ((s.crew 0).pftime.toNat * 13000 < s.time - x.2) && s.withheldIn (s.crew 0).info.ctx (clusterOf 0) x.1)
theorem test_meets_checkpoint : longest (lateOf (late lateCrew)) = some (0x9000, 13000000000 - 51 * 13000) ∧
    ((late lateCrew).crew 0).info.saveSize ≠ 0 ∧ (late lateCrew).maySave 0 = true ∧ longest (lateOf unsaved) = some (0x9000, 13000000000 - 51 * 13000) ∧
    (unsaved.crew 0).info.saveSize = 0 ∧ (0x9000, 13000000000 - 51 * 13000) ∉ (unsaved.crew 0).reported := by
  repeat' apply And.intro
  all_goals decide
/-- Without a save area: a strand whose withheld fetch is recorded, and two streams of it that are withheld too. -/
def withheldStream (va : Nat) : Active := { Active.start anyCmd with withheld := some (va, 13000000000 - 60 * 13000) }
def severalLate : State :=
  unsaved.setCrew 0 { unsaved.crew 0 with
    reported := [(0x9000, 13000000000 - 51 * 13000)]
    streams := { emptyStreams with slots := [(2, withheldStream 0xA000), (3, withheldStream 0xB000)] } }
theorem test_meets_several_late : (severalLate.core 0).held = true ∧ (lateOf severalLate).length = 3 ∧ (severalLate.crew 0).info.saveSize = 0 ∧
    ((lateOf severalLate).filter (fun x => !((severalLate.crew 0).reported.contains x))).length = 2 := by
  repeat' apply And.intro
  all_goals decide
/-- A recovery request, a voluntary suspension, a swap-out. -/
def suspendedCrew : Crew := crewOf { strandAt 0 0 with hold := .suspend }
def waitingCrew : Crew := crewOf { strandAt 0 0 with hold := .watch 0x20000 (13000000000 - 20 * 13000) ⟨0, 0, 0, 0⟩ }
def more : Launch := { launch0 with ranges := [(0, (1, 2))] }
theorem test_meets_save : ((launched base0 launch0).crew 0).saving = none ∧ (launched base0 launch0).maySave 0 = true ∧
    (launched suspendedCrew launch0).maySave 0 = true ∧ ((launched suspendedCrew launch0).crew 0).suspends = true ∧
    (launched waitingCrew more).maySave 0 = true ∧ (∀ p ∈ ((launched waitingCrew more).crew 0).strands, (launched waitingCrew more).strandIdle p.2 = true) ∧
    (launched waitingCrew more).launch 0 = some more ∧ more.preempt ≤ 1 ∧ (more.nextGang (dieOf 0)).isSome = true := by
  repeat' apply And.intro
  all_goals decide
/-- A save in progress: its markers are placed, its marker is late, it is copied. -/
def save4 (placed : Bool) (since : Nat) : Save := ⟨4, placed, false, since, 0, 0, []⟩
def markedCrew : Crew := { haltedCrew with
  saving := some (save4 true 0)
  chans := [(3, holds [.snap 0])] }
def savingCrew (placed : Bool) : Crew := { haltedCrew with saving := some (save4 placed 0) }
theorem test_meets_save_steps : ((launched (savingCrew false) launch0).crew 0).saving = some (save4 false 0) ∧
    (∀ d ∈ (launched (savingCrew false) launch0).mates 0, ((launched (savingCrew false) launch0).crew d).quiet = true) ∧
    (launched (savingCrew false) launch0).mates 0 = [0] ∧
    (∀ d ∈ (launched (savingCrew true) launch0).mates 0,
      (((launched (savingCrew true) launch0).onCores ((launched (savingCrew true) launch0).mates 0) Crew.sinkSnaps).crew d).mayCopy = true ∧
      ((launched (savingCrew true) launch0).crew d).ending = none ∧
      ((launched (savingCrew true) launch0).onCores ((launched (savingCrew true) launch0).mates 0) Crew.sinkSnaps).areaReady d = true) ∧ (save4 true 0).placed = true ∧
    ((launched markedCrew launch0).crew 0).snapsLeft = true ∧ ((launched markedCrew launch0).crew 0).snaptime.toNat * 13000 < (launched markedCrew launch0).time - Nat.max 0 ((launched markedCrew launch0).crew 0).progress := by
  repeat' apply And.intro
  all_goals decide
/-- A suspended gang: its page present again (a leaf at 0x10000 that maps itself nowhere: the walk finds no entry), its resume in cluster 0, and gangs that wait. -/
def gang0 : Gang := ⟨0, 0, 0, 0, [base0], [0], 3, 0, 0x9000, true, 0, false, [0]⟩
def suspendedState (g : Gang) (w : Crew) : State :=
  let s := launched w launch0
  { s with
    cores := []
    cp := { s.cp with gangs := [(6, g)] } }
theorem test_meets_resume : tfind (suspendedState gang0 base0).cp.gangs 6 = some gang0 ∧ gang0.crews = base0 :: [] ∧ gang0.awaited = true ∧
    (suspendedState gang0 base0).withheldIn base0.info.ctx gang0.cluster gang0.wva = false ∧
    (suspendedState { gang0 with awaited := false } base0).mayPlace 0 false 6 0 = true ∧ (∀ v ∈ gang0.crews, ∀ j, j < 8 → v.entryValid j = false) ∧
    (0, base0) ∈ ((suspendedState gang0 base0).freeIn 0).zip gang0.crews ∧ (base0.strand 0).present = true ∧ (base0.strand 0).halted = false ∧
    (base0.strand 0).traps.length < 2 := by
  repeat' apply And.intro
  all_goals decide
/-- Gang 6, of a launch of priority 0, must go to cluster 0, whose page it owns; eight crews of launch 1, of priority 1, hold its cores. -/
def crowded : State :=
  let s := suspendedState { gang0 with awaited := false, pinned := true } base0
  { s with
    cores := (List.range 8).map (fun i => (i, ⟨true, { base0 with info := { emptyInfo with launch := 1, gang := i, tile := i, nstr := 4, saveSize := 0x48_0000 } }, 0⟩))
    handovers := [(2, ⟨0, 0, 1, 0, 0⟩)]
    cp := { s.cp with launches := [(0, { launch0 with prio := 0 }), (1, { launch0 with order := 1 })] } }
theorem test_meets_preempt : crowded.waiting 12 0 = some (0, 1, 0, [0]) ∧ 50 * 13000 ≤ crowded.time - 0 ∧
    (crowded.victimCluster 0 1 [0]).map (fun x => (x.1, x.2.1)) = some (0, 1) := by decide

/-! ### The command processor -/

/-- A read of the CP that comes to a value. -/
def isVal {α : Type} (r : CpRes α) : Bool := match r with | .val _ => true | _ => false
def valOf {α : Type} (r : CpRes α) (d : α) : α := match r with | .val a => a | _ => d
theorem val_of {α : Type} (r : CpRes α × State) (d : α) (h : isVal r.1 = true) : r = (.val (valOf r.1 d), r.2) := by
  obtain ⟨x, y⟩ := r
  cases x with
  | val a => rfl
  | trap c v => simp [isVal] at h
  | wait v => simp [isVal] at h

/-- The head of queue 1022 as the CP finds it. -/
def qx (s : State) : Machine.Queue := (s.queue 1022).getD ⟨0, 0, false, none, 0, false, .idle⟩
def hd (s : State) : QueueDesc × List Byte := valOf (s.readHead 1022 (qx s)).1 (⟨0, 0, 0, 0, 0, 0, 0⟩, [])
def noted (s : State) : State := (((s.readHead 1022 (qx s)).2).queueReached 1022).noteHead 1022 (hd s).1 (hd s).2
def lvl (s : State) : Nat := (noted s).level (qx (noted s)) (hd s).1 (hd s).2
def depsOf (s : State) : Bool × State := (noted s).depsMet 1022 none (recDeps (hd s).2)
def ready (s : State) : Bool :=
  s.sys.service == 2 && (s.queue 1022).isSome && present (hd s).2 && crc32c ((hd s).2.take 0x7C) == at' (hd s).2 0x7C 4
    && recSeq (hd s).2 == (hd s).1.rd % 65536 && headOk 1022 (hd s).2 && isVal (s.readHead 1022 (qx s)).1 && ((noted s).queue 1022).isSome
    && !((noted s).cp.queues.any (fun z => (noted s).before 1022 (lvl s) z)) && (depsOf s).1
theorem queue_of (s : State) (h : (s.queue 1022).isSome = true) : s.queue 1022 = some (qx s) := by
  unfold qx
  cases h1 : s.queue 1022 with
  | none => simp [h1] at h
  | some x => rfl
theorem pair_of {α : Type} (r : Bool × α) (h : r.1 = true) : r = (true, r.2) := by
  obtain ⟨x, y⟩ := r
  exact congrArg (·, y) h
theorem headReady_of (s : State) (h : ready s = true) : headReady s 1022 (qx s) (hd s).1 (hd s).2 (lvl s) (depsOf s).2 := by
  simp only [ready, Bool.and_eq_true, beq_iff_eq, Bool.not_eq_true'] at h
  obtain ⟨⟨⟨⟨⟨⟨⟨⟨⟨h1, h2⟩, h3⟩, h4⟩, h5⟩, h6⟩, h7⟩, h8⟩, h9⟩, h10⟩ := h
  refine ⟨.inr h1, queue_of s h2, h3, h4, h5, h6, _, noted s, qx (noted s), val_of _ _ h7, rfl, queue_of _ h8, rfl, h9, ?_⟩
  exact pair_of (depsOf s) h10

/-- A record of Table 12.2: its fields as offset, length and value, with its CRC. -/
def rec (fields : List (Nat × Nat × Nat)) : List Byte :=
  let b := mgetN (fields.foldl (fun m f => mput m f.1 f.2.1 f.2.2) []) 0 0x7C
  b ++ bytesOf 4 (crc32c b)
def recHead (kind seq : Nat) : Nat × Nat × Nat := (0, 4, 1 + 2 * kind + 65536 * seq)
/-- Queue 1022 with a ring of 4 entries at 0x2000, whose head is number 5; context 0 maps the first 64 MiB to themselves, and
0x400_0000 to 0x20_0000; a kernel descriptor stands at 0x3000 and a signal of value 9 at 0x4000. -/
def cpState (record : List Byte) : State :=
  let s := launched base0 launch0
  let m := [(0x1000, 8, 0x2000), (0x1008, 4, 4), (0x100C, 4, 0xC000), (0x1018, 8, 5), (0x8000, 8, 0xA001), (0xA000, 8, 0xC001), (0xC000, 8, 0x0800_0000_0000_00DF),
    (0xC008, 8, 0xE001), (0xE000, 8, 0x0800_0000_0020_00DF), (0x3000, 8, 0x10_0000), (0x300C, 1, 4), (0x3020, 8, 0x8000), (0x3028, 8, 0x100_0000), (0x3030, 4, 0x48_0000),
    (0x4000, 8, 9)].foldl (fun m f => mput m f.1 f.2.1 f.2.2) []
  { s with
    hbm := msetN m 0x2080 record
    roots := [(0, 0x8000)]
    time := 5000000
    cores := []
    cp := { emptyCp with
      queues := [(1022, ⟨0x1000, 0, true, none, 0, false, .idle⟩)]
      nextLaunch := 1 } }
def launchRecord (gang : Nat) : List Byte :=
  rec [recHead 1 5, (4, 4, 1), (8, 8, 0x3000), (0x10, 8, 0x77), (0x18, 4, 8), (0x1C, 2, gang), (0x1E, 2, 4), (0x20, 8, 0x4000)]
def andRecord : List Byte := rec [recHead 2 5, (0x20, 8, 0x4000)]
def signalRec (cpl : Nat) : List Byte := rec [recHead 3 5, (0x20, 8, cpl)]
def requestRecord (fields : List (Nat × Nat × Nat)) : List Byte := rec (recHead 8 5 :: fields)
def lateRecord : List Byte := rec [recHead 2 4]
def waitRecord : List Byte := rec [recHead 2 5, (0x28, 8, 0x4000), (0x30, 8, 8)]

/-- QueueScanning: no record present; a descriptor in a stack with no memory behind it is withheld, one outside every range fails; a head that waits. -/
theorem test_meets_scan : (cpState []).queue 1022 = some (qx (cpState [])) ∧ isVal ((cpState []).readHead 1022 (qx (cpState []))).1 = true ∧
    present (hd (cpState [])).2 = false ∧
    (match (cpState []).readHead 1022 { qx (cpState []) with desc := 2 ^ 45 } with | (.trap c va, _) => c == 0x04 && va == 2 ^ 45 | _ => false) = true := by
  decide +kernel
def aging : State :=
  let s := cpState []
  { s with cp := { s.cp with queues := [(1022, ⟨0x1000, 0, true, some (5, 1), 0, false, .idle⟩)] }, time := 26000001 }
theorem test_meets_notify : 1022 = (3 * 1024 + 1022) % 1024 ∧ tget (cpState []).sys.tdisp ((3 * 1024 + 1022) / 1024) 0 ≠ 3 := by decide
/-- QueueScanning: a record out of sequence, one that fails its CRC, one whose dependency is above its value; the head of the last is known. -/
def scanned (s : State) : Bool :=
  s.sys.service == 2 && (s.queue 1022).isSome && present (hd s).2 && isVal (s.readHead 1022 (qx s)).1 && ((noted s).queue 1022).isSome
    && !((noted s).cp.queues.any (fun z => (noted s).before 1022 (lvl s) z))
def headKnown (s : State) : State := { s with cp := { s.cp with queues := [(1022, ⟨0x1000, 0, false, some (5, 1), 0, false, .idle⟩)] } }
theorem test_meets_rejects : scanned (cpState lateRecord) = true ∧ recSeq (hd (cpState lateRecord)).2 ≠ (hd (cpState lateRecord)).1.rd % 65536 ∧
    isVal ((noted (cpState lateRecord)).consume 1022 (hd (cpState lateRecord)).1 (hd (cpState lateRecord)).2).1 = true ∧
    scanned (cpState (0x05 :: andRecord.drop 1 |>.set 9 1)) = true ∧
    crc32c ((hd (cpState (0x05 :: andRecord.drop 1 |>.set 9 1))).2.take 0x7C) ≠ at' (hd (cpState (0x05 :: andRecord.drop 1 |>.set 9 1))).2 0x7C 4 ∧
    isVal ((noted (cpState (0x05 :: andRecord.drop 1 |>.set 9 1))).consume 1022 (hd (cpState (0x05 :: andRecord.drop 1 |>.set 9 1))).1
      (hd (cpState (0x05 :: andRecord.drop 1 |>.set 9 1))).2).1 = true ∧
    scanned (headKnown (cpState waitRecord)) = true ∧ (depsOf (headKnown (cpState waitRecord))).1 = false ∧
    (qx (headKnown (cpState waitRecord))).head.isSome = true := by decide +kernel

/-- RecordsServed: a launch that is taken, and one refused for its gang of 9. -/
def checked (s : State) : LaunchCheck × State := (depsOf s).2.checkLaunch 1022 (hd s).1.rd (hd s).1.ctx (lvl s) (hd s).2
def isTake (c : LaunchCheck) : Bool := match c with | .take _ => true | _ => false
def isRefuse (c : LaunchCheck) (e : Cause) : Bool := match c with | .refuse x => x == e | _ => false
/-- A record completes and is consumed. -/
def completes (t : State) (d : QueueDesc) (b : List Byte) (code : Nat) : Bool :=
  isVal (t.consume 1022 d b).1 && (t.cpComplete 1022 (queueCtx 1022 d.ctx) (recCpl b) (statusWord (recSeq b) code false false)).1
    && isVal ((t.cpComplete 1022 (queueCtx 1022 d.ctx) (recCpl b) (statusWord (recSeq b) code false false)).2.consume 1022 d b).1
theorem test_meets_launch : ready (cpState (launchRecord 1)) = true ∧ isTake (checked (cpState (launchRecord 1))).1 = true ∧
    recKind (hd (cpState (launchRecord 1))).2 = 1 ∧ recSort (hd (cpState (launchRecord 1))).2 = 1 ∧ (qx (cpState (launchRecord 1))).announced = true ∧
    isVal ((checked (cpState (launchRecord 1))).2.consume 1022 (hd (cpState (launchRecord 1))).1 (hd (cpState (launchRecord 1))).2).1 = true := by
  decide +kernel
theorem test_meets_launch_refused : ready (cpState (launchRecord 9)) = true ∧ isRefuse (checked (cpState (launchRecord 9))).1 0x0E = true ∧
    completes (checked (cpState (launchRecord 9))).2 (hd (cpState (launchRecord 9))).1 (hd (cpState (launchRecord 9))).2 0x0E = true := by
  decide +kernel
/-- RecordsServed: a BARRIER_AND, a SIGNAL behind a launch of the queue, and one with nothing before it. -/
def behind (s : State) : State := { s with cp := { s.cp with launches := [(0, { launch0 with queue := 1022, count := 4 })] } }
theorem test_meets_and_signal : ready (cpState andRecord) = true ∧ recKind (hd (cpState andRecord)).2 = 2 ∧
    completes (depsOf (cpState andRecord)).2 (hd (cpState andRecord)).1 (hd (cpState andRecord)).2 0 = true ∧
    ready (behind (cpState (signalRec 0x4000))) = true ∧ recKind (hd (behind (cpState (signalRec 0x4000)))).2 = 3 ∧
    (behind (cpState (signalRec 0x4000))).cp.signals = [] ∧ (qx (behind (cpState (signalRec 0x4000)))).announced = true ∧
    isVal ((depsOf (behind (cpState (signalRec 0x4000)))).2.consume 1022 (hd (behind (cpState (signalRec 0x4000)))).1 (hd (behind (cpState (signalRec 0x4000)))).2).1 = true ∧
    (hd (behind (cpState (signalRec 0x4000)))).1.rd = 5 ∧ ready (cpState (signalRec 0)) = true ∧ recCpl (hd (cpState (signalRec 0))).2 = 0 ∧
    (cpState (signalRec 0)).cp.launches = [] := by decide +kernel
/-- RecordsServed: each of the seven requests. -/
def requests : List (List Byte) :=
  [requestRecord [(0x38, 2, 1), (0x40, 8, 0x5000), (0x48, 2, 7), (0x4A, 1, 2)], requestRecord [(0x38, 2, 2), (0x48, 2, 7)],
   requestRecord [(0x38, 2, 3), (0x40, 2, 0), (0x48, 8, 0x400_0000), (0x50, 8, 0x1_0000)],
   requestRecord [(0x38, 2, 4), (0x40, 2, 0), (0x48, 8, 0x400_0000), (0x50, 8, 0x800_0000)],
   requestRecord [(0x38, 2, 5), (0x40, 2, 0), (0x48, 8, 0x400_0000), (0x50, 1, 3), (0x52, 2, 8), (0x54, 1, 1)],
   requestRecord [(0x38, 2, 6), (0x40, 2, 5), (0x42, 1, 1)], requestRecord [(0x38, 2, 7), (0x40, 2, 9), (0x48, 8, 0xA000), (0x50, 4, 3)]]
/-- A queue descriptor at 0x5000, queue 7 where it is to be removed, and a cached translation of the page. -/
def asked (n : Nat) : State :=
  let s := cpState (requests.getD n [])
  { s with
    hbm := [(0x5000, 8, 0x6000), (0x5008, 4, 2), (0x500C, 4, 0x4000), (0x20_0010, 1, 0x5A)].foldl (fun m f => mput m f.1 f.2.1 f.2.2) s.hbm
    clusters := [(0, ⟨[⟨some 0, 0, 0x400, 0x0800_0000_0020_00DF⟩, ⟨some 9, 0, 2, 0x200DF⟩], [], none, []⟩)]
    fabric := { s.fabric with routes := [(20, 0x300003)] }
    cp := { s.cp with queues := if n = 1 then (7, ⟨0x5000, 0, false, none, 0, false, .idle⟩) :: s.cp.queues else s.cp.queues } }
def doneReq (s : State) : Bool :=
  match (depsOf s).2.request 1022 (hd s).2 with
  | .done c t => c == 0 && completes t (hd s).1 (hd s).2 0
  | .wait _ => false
theorem test_meets_request_0 : ready (asked 0) = true ∧ recKind (hd (asked 0)).2 = 8 ∧ (qx (asked 0)).carried = .idle ∧ doneReq (asked 0) = true := by decide +kernel
theorem test_meets_request_1 : ready (asked 1) = true ∧ doneReq (asked 1) = true := by decide +kernel
theorem test_meets_request_2 : ready (asked 2) = true ∧ doneReq (asked 2) = true := by decide +kernel
theorem test_meets_request_3 : ready (asked 3) = true ∧ doneReq (asked 3) = true := by decide +kernel
theorem test_meets_request_4 : ready (asked 4) = true ∧ doneReq (asked 4) = true := by decide +kernel
theorem test_meets_request_5 : ready (asked 5) = true ∧ doneReq (asked 5) = true := by decide +kernel
theorem test_meets_request_6 : ready (asked 6) = true ∧ doneReq (asked 6) = true := by decide +kernel
/-- RecordsServed: a request that a restart of the control plane cut short. -/
def cutShort : State := { asked 6 with cp := { (asked 6).cp with queues := [(1022, ⟨0x1000, 0, true, none, 0, false, .cut⟩)] } }
theorem test_meets_cut : ready cutShort = true ∧ (qx cutShort).carried = .cut ∧ (qx cutShort).head = none ∧ recKind (hd cutShort).2 = 8 ∧
    completes (depsOf cutShort).2 (hd cutShort).1 (hd cutShort).2 0x0E = true ∧ (qx (asked 6)).carried ≠ .cut := by decide +kernel
/-- RecordsServed: a launch whose one crew has retired. -/
def ended : State :=
  let s := cpState []
  { s with cp := { s.cp with launches := [(0, { launch0 with queue := 1022, cpl := 0x4000, retired := 1, seq := 4 })] } }
theorem test_meets_complete : ended.launch 0 = some { launch0 with queue := 1022, cpl := 0x4000, retired := 1, seq := 4 } ∧
    (ended.launch 0).map Launch.undispatched = some false ∧ (ended.cpComplete 1022 none 0x4000 (statusWord 4 0 false false)).1 = true := by decide +kernel
/-- ControlPlaneMemory: the consumption of a record, a completion, a page moved. -/
theorem test_meets_cp_memory : (cpState andRecord).windows = [] ∧ (∀ i, i < 64 → isHbmPa (0x1000 + i) = true) ∧ (hd (cpState andRecord)).1.entry = 0x2080 ∧
    (∀ i, i < 128 → isHbmPa (0x2080 + i) = true) ∧ isVal ((cpState andRecord).consume 1022 (hd (cpState andRecord)).1 (hd (cpState andRecord)).2).1 = true ∧
    (match (cpState andRecord).cpReach none 0x4008 8 cpWrite' with | (.ok a b, s) => a == 0x4008 && b == 0 && s == cpState andRecord | _ => false) = true ∧
    (match (cpState andRecord).cpReach none 0x4000 8 cpBoth with | (.ok a b, s) => a == 0x4000 && b == 0 && s == cpState andRecord | _ => false) = true ∧
    (cpState andRecord).atomicCarried 0 0x4000 0 = true ∧ (cpState andRecord).bytesAt (.hbm 0x4000) 8 = (cpState andRecord).rawBytes (.hbm 0x4000) 8 ∧ (∀ i, i < 16 → isHbmPa (0x4000 + i) = true) := by decide +kernel
theorem test_meets_move : (asked 3).updatesOn 0x20_0000 = false ∧
    (asked 3).unperformed (fun pa => pa / 65536 == 0x20_0000 / 65536) (fun _ => true) = false ∧ (asked 3).locOf (leafFrame 0x0800_0000_0020_00DF) = .hbm 0x20_0000 ∧
    ((asked 3).shootdown (some 0) (0x400_0000 / 65536 * 65536) 65536).any (fun s => s.windows == [] && Memory.wf s.hbm && Memory.wf s.host && s.cores == []) = true ∧
    0x800_0000 % 65536 = 0 ∧ (∀ i, i < 8 → isHbmPa (0xE000 + i) = true) ∧ 0xE000 + 8 ≤ 0x800_0000 := by decide +kernel
/-- TilesDispatched: the next gang of two tiles of launch 0, with 6 tiles left on die 0; die 1 asks die 0 for tiles; die 0 grants. -/
def dispatching : State :=
  let s := cpState []
  { s with cp := { s.cp with
      launches := [(0, { launch0 with gang := 2, ranges := [(0, (3, 9)), (1, (9, 9))], tiles := 12, side := 1, code := 0x5000, args := 0x66, savebase := 0x100_0000, savesz := 0x48_0000 })]
      requests := [(0, 0, 1)] } }
def dispatched : Launch := (dispatching.launch 0).getD launch0
theorem test_meets_dispatch : dispatching.launch 0 = some dispatched ∧ (∀ g ∈ dispatching.cp.gangs, g.2.launch ≠ 0) ∧
    dispatching.mayPlace (dieOfCluster 0) true 0 0 = true ∧ dispatched.nextGang (dieOfCluster 0) = some (3, 2) ∧ (dispatching.freeIn 0)[1]? = some 1 ∧
    (3 : Nat) < dispatched.strands ∧ dispatched.strands ≤ 4 ∧ (0, 0, 1) ∈ dispatching.cp.requests ∧ smem dispatching.sys.dies 0 = true ∧
    smem dispatching.sys.dies 1 = true ∧ tfind dispatched.ranges 0 = some (3, 9) ∧
    2 = (9 - 3) / 2 / dispatched.gang * dispatched.gang ∧ dispatched.left 1 = 0 := by decide +kernel
def lazyDie : State := { dispatching with cp := { dispatching.cp with requests := [] } }
theorem test_meets_steal : lazyDie.cp.launches.find? (fun x => lazyDie.mayAsk 1 x.1 x.2 && x.2.richest.isSome) = some (0, dispatched) ∧
    dispatched.richest = some 0 := by decide +kernel

/-! ### Start-up, resets, security, tests -/

def booting (w : Sys → Sys) : State := { State.reset with sys := w emptySys, time := 13000000000 * 10 }
def allGood (w : Sys) : Sys :=
  { w with
    firmware := [0, 1, 2, 3]
    bounds := [2]
    memDies := [1]
    trained := [7] }
def almostFull (w : Sys) : Sys :=
  { w with
    service := 1
    firmware := [0, 1, 2, 3]
    bounds := [0, 1, 2, 3]
    memDies := [0, 1, 2, 3]
    trained := List.range 16
    tested := List.range 448
    ports := List.range 16 }
/-- ResetsAndRestarts: a function, a device with a spare mapping. -/
def spared : State := { mapped 0 0 with sys := { (mapped 0 0).sys with health := [(3, { emptyHealth with spared := [(5, 0)], failing := [4096] })] } }
theorem test_meets_resets : (1 : Nat) ≤ 1 ∧ (1 : Nat) ≤ 4 ∧ (∀ h ∈ spared.sys.health, tfind spared.sys.health h.1 = some h.2) := by decide
theorem smem_range (n c : Nat) (h : c < n) : smem (List.range n) c = true := by simpa [smem] using h
theorem smem_without (l : NatSet) (u x : Nat) (h : x ∈ l) : x = u ∨ smem (l.filter (fun y => y != u)) x = true := by
  by_cases e : x = u <;> simp_all [smem]
/-- StartUp: boot; a die with a core that awaits its test; enough for twilight, and an image missing; enough for full service, and a stack missing; no stack after ten seconds. -/
theorem test_meets_start : (∀ c, c < 448 → smem (booting almostFull).sys.tested c = true) ∧
    (booting id).sys.service = 0 ∧ (∀ c ∈ (booting id).sys.untested, dieOf c ≠ 2) ∧ (3 : Nat) ∈ (booting (fun w => { w with untested := [3] })).sys.untested ∧
    dieOf 3 = 0 ∧ (∀ n, n < 4 → smem (booting allGood).sys.firmware n = true) ∧ (booting allGood).sys.bounds ≠ [] ∧ (booting allGood).sys.memDies ≠ [] ∧
    (booting allGood).sys.trained ≠ [] ∧ smem (booting id).sys.firmware 2 = false ∧ (booting almostFull).sys.service = 1 ∧
    (∀ n, n < 16 → smem (booting almostFull).sys.trained n = true ∧ smem (booting almostFull).sys.ports n = true) ∧
    (∀ d, d < 4 → smem (booting almostFull).sys.bounds d = true ∧ smem (booting almostFull).sys.memDies d = true) ∧
    smem (booting id).sys.tested 447 = false ∧ smem (booting id).sys.trained 15 = false ∧ (booting id).sys.trained = [] ∧
    10 * 13000000000 ≤ (booting id).time :=
  ⟨fun _ => smem_range _ _, by decide +kernel⟩
/-- SecurityAndTests: the responder's image verified and not; functions outside ERROR and in it; a core free for 100 µs, one whose test is over, one that is held. -/
def secured : State := { booting almostFull with sys := { almostFull emptySys with tdisp := [(1, 3), (2, 1)], measures := [7, 5], dies := [0] } }
def resulting (unit index : Nat) : State :=
  { secured with sys := { secured.sys with untested := [9], tested := [], health := [(9, { emptyHealth with
      testing := some 5
      failing := [4096 * unit + index]
      passed := (unitsOf 9).filter (fun x => x != 4096 * unit + index)
      spared := [(64 * index + 1, index)] })] } }
theorem test_meets_security : (∀ x ∈ unitsOf 9, x = 4096 * 1 + 4 ∨ smem ((resulting 1 4).health 9).passed x = true) ∧
    smem secured.sys.firmware 2 = true ∧ smem (booting id).sys.firmware 2 = false ∧ tget secured.sys.tdisp 2 0 ≠ 3 ∧
    tget secured.sys.tdisp 1 0 = 3 ∧ (secured.core 9).held = false ∧ smem secured.sys.firmware 3 = true ∧ (secured.health 9).freed + 1300000 ≤ secured.time ∧
    (secured.health 9).testing = none ∧ ((mapped 0 0).core 0).held = true ∧ ((resulting 1 4).health 9).testing = some 5 ∧ 5 ≤ (resulting 1 4).time ∧
    ((resulting 1 4).core 9).held = false ∧ 4 < unitCount 9 1 ∧
    smem (resulting 1 4).sys.tested 9 = false :=
  ⟨fun x h => smem_without _ _ x h, by decide +kernel⟩
/-- RegisterWrites: rounding modes 4 and 5, a window of 1 and of 0, aqen off and on, a descriptor at 0x5000 that is an admin queue's and one that is not, devid. -/
def adminState (ctl : Nat) : State :=
  let s := cpState []
  { s with
    hbm := [(0x5000, 8, 0x6000), (0x5008, 4, 2), (0x500C, 4, ctl)].foldl (fun m f => mput m f.1 f.2.1 f.2.2) s.hbm
    sys := { s.sys with aqdesc := 0x5000, lock := false } }
theorem test_meets_register_writes : ((0x14 : Word).extractLsb' 0 3).toNat < 5 ∧ 5 ≤ ((0x15 : Word).extractLsb' 0 3).toNat ∧ (0x10001 : Word).extractLsb' 0 16 ≠ 0 ∧
    (adminState 0xC000).sys.aqen = 0 ∧ (0x3 : Word).getLsbD 0 = true ∧ isVal ((adminState 0xC000).cpRead none none 0x5000 64).1 = true ∧
    queueDescOk (valOf ((adminState 0xC000).cpRead none none 0x5000 64).1 []) true = true ∧
    queueDescOk (valOf ((adminState 0x4000).cpRead none none 0x5000 64).1 []) true = false ∧ (0x2 : Word).getLsbD 0 = false ∧
    (adminState 0).sys.lock = false ∧ (mapped 0 0).sys.lock = true ∧ (mapped 0 0).me.traps.length < 2 := by decide +kernel
/-- R363: the third corrected error of a bank in ten minutes, with no offset in place, makes its rows wait for spare rows, which the next save maps. -/
def banked : State := (({ mapped 0 0 with sys := { (mapped 0 0).sys with service := 1 } }.bankError 3 2 7).bankError 3 2 9).bankError 3 2 7
theorem test_bank_predictive : (banked.health 3).rows = [2055, 2057] ∧ ((banked.mapRows 3).health 3).rowsSpared = [2055, 2057] ∧
    ((banked.mapRows 3).health 3).out = false := by decide +kernel
/-- R353: no save is started without room for the engine images. -/
theorem test_no_image_room : ((launched base0 launch0).imageFits 0) = true ∧
    ({ launched base0 launch0 with sys := { (launched base0 launch0).sys with imageRoom := 1000 } } : State).maySave 0 = false := by decide +kernel

/-! ### The encodings, steps, and the invariant -/

/-- EncodeThenDecode and DecodeThenEncode: a long form and a short one, and a triggered word. -/
theorem test_meets_encode : (Instr.ldGlL 7 5 2 (-3) 2).wellFormed = true ∧ (encode (.ldGlL 7 5 2 (-3) 2)).isSome = true ∧
    (encode (.add 4 5 6 1)).isSome = true ∧ (Instr.add 4 5 6 1).wellFormed = true ∧ decode 0x00414602 0 = .ok (.add 4 5 6 2) ∧ (63 : Nat) < 64 :=
  ⟨by decide, by decide, by decide, by decide, rfl, by decide⟩
/-- StepRunsDecodedInstruction: `add x4, x5, x6` at the pc of strand 0, with page 0 mapped to frame 0 and the word in the instruction cache, and core 0's sequencer next. -/
def stepping (word : Nat) (who : Agent) : State :=
  let s := mapped 7 3
  { s with
    clusters := [(0, ⟨[⟨none, 0, 0, 0xDF⟩], [(0x400, BitVec.ofNat 32 word)], none, []⟩)]
    hbm := mput [] 0x1000 4 word
    sched := [⟨who, 20, 0⟩] }
def picked (word : Nat) : State := ((stepping word (.sequencer 0)).beginTurn.noteReady 0).issued 0 0
/-- A core that has issued in this cc. -/
def issuedState : State :=
  let s := { stepping 0x00414600 (.sequencer 0) with sched := [⟨.sequencer 0, 0, 0⟩] }
  s.setCrew 0 { s.crew 0 with issuedCc := some 0 }
theorem test_meets_step : (stepping 0x00414600 (.sequencer 0)).turn.who = .sequencer 0 ∧ (stepping 0x00414600 (.sequencer 0)).beginTurn.issues 0 = true ∧
    ((stepping 0x00414600 (.sequencer 0)).beginTurn.crew 0).issuedNow = false ∧ ((issuedState).beginTurn.crew 0).issuedNow = true ∧
    ((stepping 0x00414600 (.sequencer 0)).beginTurn.noteReady 0).pick 0 = some 0 ∧ ((picked 0x00414600).strandAt 0 0).takesAsync = false ∧
    (picked 0x00414600).atMonitor 0 0 = false ∧ ((picked 0x00414600).fetch 0 0).1 = .words 0x00414600 0 ∧
    ((picked 0x2C000000).fetch 0 0).1 = .words 0x2C000000 0 ∧ ((stepping 0x2C000000 (.sequencer 0)).beginTurn.noteReady 0).pick 0 = some 0 := by decide +kernel
theorem test_meets_step_words : decode 0x00414600 0 = .ok (.add 4 5 6 0) ∧ decode 0x2C000000 0 = .error .reservedMajor := ⟨rfl, rfl⟩
/-- StepRunsDecodedInstruction: an event, an element's turn whose slot 0 is always ready, and the reading of a word that is not cached. -/
def elementTurn : State :=
  let s := stepping 0 (.element 0 2)
  s.setCrew 0 { s.crew 0 with elems := [(2, { emptyElement with
    active := ⟨0, 1, [(0, encodeTrig 0 ⟨false, 0, 0, false, 0, 0, 0, 130, 128, 129⟩)], [], 0⟩
    state := 1 })] }
theorem test_meets_turns : (stepping 0 (.event (.notifyWrite 3))).turn.who = .event (.notifyWrite 3) ∧ Machine.Instr.isEvent (.notifyWrite 3) = true ∧
    elementTurn.turn.who = .element 0 2 ∧ (elementTurn.beginTurn.core 0).held = true ∧ ((elementTurn.beginTurn.crew 0).elem 2).running = true ∧
    ((elementTurn.beginTurn.crew 0).elem 2).stopping = false ∧
    (match (elementTurn.beginTurn.crew 0).pickSlot 2 with | some (n, op, t) => n == 0 && (trigInstr op t).isSome | none => false) = true ∧
    (match ({ stepping 0x00414600 (.sequencer 0) with clusters := [(0, ⟨[⟨none, 0, 0, 0xDF⟩], [], none, []⟩)] } : State).reach 0 0 0x1000 4 ⟨false, false, true, false, false⟩ with
      | (.ok pa _, s1) => pa == 0x1000 && (tfind (s1.cluster 0).icache 0x400).isNone && memoryPlace (s1.locOf pa) && !(s1.poisonedAt (s1.locOf pa) 4) && (s1.cutOff (s1.locOf pa)).isNone
      | _ => false) = true := by decide +kernel
/-- StepKeepsMemoryForm: a state with every memory in canonical form whose step answers a next state. -/
theorem test_meets_invariant : Inv (stepping 0x00414600 (.sequencer 0)) ∧ ∃ t, step (stepping 0 (.event (.notifyWrite 3))) = .next t :=
  ⟨⟨memoriesWf_of _ (by decide) (by decide) (by decide), by decide⟩, _, rfl⟩

/-! ### Ill-formed terms are refused -/
theorem test_ill_formed_sizes : (Instr.lea 1 2 3 5 0).wellFormed = false ∧ (Instr.ldSp 1 2 7 0 0).wellFormed = false ∧ (Instr.ldGl 1 2 7 0 0).wellFormed = false ∧
    (Instr.ldAcq 1 2 7 0 0).wellFormed = false ∧ (Instr.ldGlL 1 2 7 0 0).wellFormed = false := by decide
theorem test_ill_formed_scopes : (Instr.ldAcq 1 2 3 6 0).wellFormed = false ∧ (Instr.stRel 1 2 3 6 0).wellFormed = false ∧ (Instr.pf 1 6 0).wellFormed = false ∧
    (Instr.clWb 1 6 0).wellFormed = false ∧ (Instr.clInv 1 7 0).wellFormed = false ∧ (Instr.clWbinv 1 6 0).wellFormed = false ∧ (Instr.fence 6 0).wellFormed = false ∧
    (Instr.fenceAcq 6 0).wellFormed = false ∧ (Instr.fenceRel 7 0).wellFormed = false ∧ (Instr.fenceSm 6 0).wellFormed = false := by decide
theorem test_ill_formed_atomic_scopes : (Instr.amoAdd 1 2 3 6 0 false 0).wellFormed = false ∧ (Instr.amoAnd 1 2 3 6 0 false 0).wellFormed = false ∧
    (Instr.amoOr 1 2 3 6 0 false 0).wellFormed = false ∧ (Instr.amoXor 1 2 3 6 0 false 0).wellFormed = false ∧ (Instr.amoMin 1 2 3 6 0 false 0).wellFormed = false ∧
    (Instr.amoMax 1 2 3 6 0 false 0).wellFormed = false ∧ (Instr.amoMinn 1 2 3 6 0 false 0).wellFormed = false ∧
    (Instr.amoMaxn 1 2 3 6 0 false 0).wellFormed = false ∧ (Instr.amoSwap 1 2 3 6 0 false 0).wellFormed = false ∧
    (Instr.amoCas 1 2 3 6 0 false 0).wellFormed = false ∧ (Instr.amoFaddF32 1 2 3 6 0 0).wellFormed = false ∧
    (Instr.amoFaddBf16x2 1 2 3 7 0 0).wellFormed = false := by decide
theorem test_ill_formed_others : (Instr.loop 1 0 0).wellFormed = false ∧ (Instr.wait 63 1 0).wellFormed = false ∧ (Instr.waitDec 63 1 0).wellFormed = false ∧
    (Instr.bar 1 0 0).wellFormed = false ∧ (Instr.bar 1 5 0).wellFormed = false ∧ (Instr.syncStep 0 0).wellFormed = false ∧
    (Instr.syncStep 5 0).wellFormed = false ∧ (Instr.bar 1 4 0).wellFormed = true ∧ (Instr.wait 62 1 0).wellFormed = true := by decide

end Sys2Proof.Tests
end

/-!
PROOFS. The steps of start-up (R13, R375 to R377): sets and tables the steps rest on, a die that starts, what each event comes to, and
the obligation StartUp.
-/
namespace Sys2Proof.Machine
open Sys2Proof

/-! ### Sets -/

@[simp] theorem smem_sadd (t : NatSet) (n m : Nat) : smem (sadd t n) m = (decide (m = n) || smem t m) := by
  induction t with
  | nil => simp [sadd, smem]
  | cons k t ih =>
    simp only [sadd]
    split
    · simp [smem]
    · split
      · next h => subst h; simp [smem]
      · simp only [smem, List.contains_cons] at ih ⊢
        rw [ih, Bool.or_left_comm]

theorem allOf_eq_true_iff (n : Nat) (t : NatSet) : allOf n t = true ↔ ∀ k, k < n → smem t k = true := by
  simp [allOf]

/-! ### Tables -/

section Tables
variable {α : Type} (t u : Tab α) (i : Nat) (d : α)

theorem tget_append : tget (t ++ u) i d = tget t i (tget u i d) := by
  induction t with
  | nil => rfl
  | cons p t ih => simp [tget, ih]

theorem tget_filter_of_kept (p : Nat × α → Bool) (h : ∀ v, p (i, v) = true) : tget (t.filter p) i d = tget t i d := by
  induction t with
  | nil => rfl
  | cons x t ih =>
    obtain ⟨k, v⟩ := x
    by_cases hk : i = k
    · subst hk; simp [h, tget]
    · by_cases hp : p (k, v) = true <;> simp [hp, tget, hk, ih]

theorem tget_filter_of_dropped (p : Nat × α → Bool) (h : ∀ v, p (i, v) = false) : tget (t.filter p) i d = d := by
  induction t with
  | nil => rfl
  | cons x t ih =>
    obtain ⟨k, v⟩ := x
    by_cases hp : p (k, v) = true
    · have hk : i ≠ k := by rintro rfl; simp [h] at hp
      simp [hp, tget, hk, ih]
    · simp [hp, ih]

theorem tget_map_of_mem (l : List Nat) (f : Nat → α) (h : i ∈ l) : tget (l.map (fun c => (c, f c))) i d = f i := by
  induction l with
  | nil => simp at h
  | cons k l ih =>
    by_cases hk : i = k
    · simp [tget, hk]
    · simp [tget, hk, ih ((List.mem_cons.mp h).resolve_left hk)]

theorem tget_map_of_not_mem (l : List Nat) (f : Nat → α) (h : i ∉ l) : tget (l.map (fun c => (c, f c))) i d = d := by
  induction l with
  | nil => rfl
  | cons k l ih =>
    obtain ⟨hk, hl⟩ := not_or.mp (mt List.mem_cons.mpr h)
    simp [tget, hk, ih hl]

end Tables

/-! ### A die that starts -/

/-- A cluster lies in one die: the dies of R9 begin at multiples of 8. -/
theorem dieOf_add_of_lt (cl i : Nat) (h : i < 8) : dieOf (8 * cl + i) = dieOf (8 * cl) := by
  have below : ∀ b, b % 8 = 0 → (8 * cl + i < b ↔ 8 * cl < b) := by omega
  simp only [dieOf, below 96 rfl, below 192 rfl, below 320 rfl]

theorem dieOf_of_mem_coresOfDie (die c : Nat) (h : c ∈ coresOfDie die) : dieOf c = die := by
  simp only [coresOfDie, clustersOf, clusterCores, dieOfCluster, List.mem_flatMap, List.mem_filter, List.mem_map, List.mem_range,
    beq_iff_eq] at h
  obtain ⟨cl, ⟨-, hdie⟩, i, hi, rfl⟩ := h
  rw [dieOf_add_of_lt cl i hi, hdie]

/-- The cores of a starting die keep all but csr_tvec. -/
theorem State.core_startDie_of_mem (s : State) (die c : Nat) (h : c ∈ coresOfDie die) :
    (s.startDie die).core c = { s.core c with tvec := BitVec.ofNat 64 (4 * s.freeNat 42) } := by
  have hdie := dieOf_of_mem_coresOfDie die c h
  simp only [State.core, State.startDie, tget_append]
  rw [tget_filter_of_dropped _ _ _ _ (by simp [hdie]), tget_map_of_mem _ _ _ _ h]

/-- The cores of the other dies stay as they are. -/
theorem State.core_startDie_of_ne (s : State) (die c : Nat) (h : dieOf c ≠ die) : (s.startDie die).core c = s.core c := by
  have hmine : c ∉ coresOfDie die := fun hc => h (dieOf_of_mem_coresOfDie die c hc)
  simp only [State.core, State.startDie, tget_append]
  rw [tget_map_of_not_mem _ _ _ _ hmine]
  obtain hlt | hgt := Nat.lt_or_gt_of_ne h
  · rw [tget_filter_of_kept _ _ _ _ (by simp [hlt]), tget_filter_of_dropped _ _ _ _ (by simp [Nat.le_of_lt hlt])]
  · rw [tget_filter_of_dropped _ _ _ _ (by simp [Nat.le_of_lt hgt]), tget_filter_of_kept _ _ _ _ (by simp [hgt])]

/-- R45: the free csr_tvec of a starting die is aligned (log 91). -/
theorem toNat_ofNat_four_mul_mod (n : Nat) : (BitVec.ofNat 64 (4 * n)).toNat % 4 = 0 := by
  rw [BitVec.toNat_ofNat]
  omega

theorem State.serveDie_of_awaited (s : State) (die c : Nat) (hc : c ∈ s.sys.untested) (h : dieOf c = die) : s.serveDie die = s := by
  have hany : s.sys.untested.any (fun c => dieOf c == die) = true := List.any_eq_true.mpr ⟨c, hc, by simp [h]⟩
  simp [State.serveDie, hany]

theorem State.serveDie_of_serving (s : State) (die : Nat) (h : smem s.sys.dies die = true) : s.serveDie die = s := by
  simp [State.serveDie, h]

theorem State.serveDie_of_ready (s : State) (die : Nat) (hb : smem s.sys.bounds die = true) (hd : smem s.sys.dies die = false)
    (hu : ∀ c ∈ s.sys.untested, dieOf c ≠ die) :
    s.serveDie die = ({ s with sys := { s.sys with dies := sadd s.sys.dies die } } : State).startDie die := by
  have hany : s.sys.untested.any (fun c => dieOf c == die) = false := by simpa using hu
  simp [State.serveDie, hb, hd, hany]

/-! ### What each event comes to -/

theorem exec_firmwareVerify (n : Nat) (good : Bool) (s : State) (hs : s.sys.service = 0) (hn : n < 4) :
    exec (.firmwareVerify n good) s = .next { s with sys := { s.sys with
      measures := s.freeNat (60 + n) % 2 ^ 512 :: s.sys.measures
      firmware := if good then sadd s.sys.firmware n else s.sys.firmware
      service := if good then 0 else 3 } } :=
  congrArg Host.Outcome.next (if_pos ⟨hs, hn⟩)

/-- The device with a compute die's boundary trained. -/
def State.boundTrained (s : State) (d : Nat) : State := { s with sys := { s.sys with bounds := sadd s.sys.bounds d } }

theorem exec_hubBoundaryTrained_of_compute (d : Nat) (s : State) (h : d < 4) :
    exec (.hubBoundaryTrained d) s = .next ((s.boundTrained d).serveDie d) :=
  congrArg Host.Outcome.next (if_pos h)

theorem exec_hubBoundaryTrained_of_memory (d : Nat) (s : State) (h4 : 4 ≤ d) (h8 : d < 8) :
    exec (.hubBoundaryTrained d) s = .next { s with sys := { s.sys with memDies := sadd s.sys.memDies (d - 4) } } :=
  congrArg Host.Outcome.next ((if_neg (Nat.not_lt.mpr h4)).trans (if_pos h8))

theorem exec_stackTrained (n : Nat) (s : State) (h : n < 16) :
    exec (.stackTrained n) s = .next { s with sys := { s.sys with trained := sadd s.sys.trained n } } :=
  congrArg Host.Outcome.next (if_pos h)

theorem exec_enterTwilight (s : State) (hs : s.sys.service = 0) (hf : ∀ n, n < 4 → smem s.sys.firmware n = true)
    (hb : s.sys.bounds ≠ []) (hm : s.sys.memDies ≠ []) (ht : s.sys.trained ≠ []) :
    exec .enterTwilight s = .next { s with sys := { s.sys with service := 1, cc := 20 } } :=
  congrArg Host.Outcome.next (if_pos ⟨hs, (allOf_eq_true_iff _ _).mpr hf, hb, hm, ht⟩)

/-- An image not verified keeps the device out of twilight. -/
theorem exec_enterTwilight_of_unverified (n : Nat) (s : State) (hn : n < 4) (h : smem s.sys.firmware n = false) :
    exec .enterTwilight s = .next s := by
  refine congrArg Host.Outcome.next (if_neg ?_)
  rintro ⟨-, hall, -⟩
  simp [(allOf_eq_true_iff _ _).mp hall n hn] at h

theorem exec_enterFullService (s : State) (hs : s.sys.service = 1)
    (hstack : ∀ n, n < 16 → smem s.sys.trained n = true ∧ smem s.sys.ports n = true)
    (hdie : ∀ d, d < 4 → smem s.sys.bounds d = true ∧ smem s.sys.memDies d = true) (hcore : ∀ c, c < 448 → smem s.sys.tested c = true) :
    exec .enterFullService s = .next { s with sys := { s.sys with service := 2, cc := 10 } } := by
  refine congrArg Host.Outcome.next (if_pos ⟨hs, ?_⟩)
  simp only [allOf_eq_true_iff]
  exact ⟨fun n hn => (hstack n hn).1, fun d hd => (hdie d hd).1, fun d hd => (hdie d hd).2, fun n hn => (hstack n hn).2, hcore⟩

/-- A stack not trained keeps the device out of full service. -/
theorem exec_enterFullService_of_untrained (n : Nat) (s : State) (hn : n < 16) (h : smem s.sys.trained n = false) :
    exec .enterFullService s = .next s := by
  refine congrArg Host.Outcome.next (if_neg ?_)
  rintro ⟨-, hall, -⟩
  simp [(allOf_eq_true_iff _ _).mp hall n hn] at h

/-- A core that has not passed its tests keeps the device out of full service. -/
theorem exec_enterFullService_of_untested (c : Nat) (s : State) (hc : c < 448) (h : smem s.sys.tested c = false) :
    exec .enterFullService s = .next s := by
  refine congrArg Host.Outcome.next (if_neg ?_)
  rintro ⟨-, -, -, -, -, hall⟩
  simp [(allOf_eq_true_iff _ _).mp hall c hc] at h

theorem exec_stackTrainingTimeout (s : State) (hs : s.sys.service = 0) (ht : s.sys.trained = []) (h : 10 * 13000000000 ≤ s.time) :
    exec .stackTrainingTimeout s = .next { s with sys := { s.sys with service := 3 } } :=
  congrArg Host.Outcome.next (if_pos ⟨hs, ht, h⟩)

/-- R13: the boundary of a die none of whose cores awaits a test puts it in service, and only csr_tvec of its cores may change. A die that
serves already keeps that too. -/
theorem hubBoundaryTrained_serves (d : Nat) (s : State) (h4 : d < 4) (hu : ∀ c ∈ s.sys.untested, dieOf c ≠ d) :
    ∃ u, exec (.hubBoundaryTrained d) s = .next u ∧ smem u.sys.bounds d = true ∧ smem u.sys.dies d = true ∧
      (∀ e, e ≠ d → smem u.sys.dies e = smem s.sys.dies e) ∧ (∀ c, dieOf c ≠ d → u.core c = s.core c) ∧
      ∀ c ∈ coresOfDie d, u.core c = { s.core c with tvec := (u.core c).tvec } ∧
        (smem s.sys.dies d = false → (u.core c).tvec.toNat % 4 = 0) := by
  refine ⟨_, exec_hubBoundaryTrained_of_compute d s h4, ?_⟩
  have hb : smem (s.boundTrained d).sys.bounds d = true := by simp [State.boundTrained]
  cases hd : smem s.sys.dies d with
  | true =>
    rw [State.serveDie_of_serving (s.boundTrained d) d hd]
    exact ⟨hb, hd, fun _ _ => rfl, fun _ _ => rfl, fun _ _ => ⟨rfl, nofun⟩⟩
  | false =>
    rw [State.serveDie_of_ready _ _ hb hd hu]
    refine ⟨hb, ?_, fun e he => ?_, fun c hc => State.core_startDie_of_ne _ _ _ hc, fun c hc => ?_⟩
    · simp [State.startDie]
    · simp [State.startDie, State.boundTrained, he]
    · rw [State.core_startDie_of_mem _ _ _ hc]
      exact ⟨rfl, fun _ => toNat_ofNat_four_mul_mod _⟩

/-- R364: a die with a core that awaits its test stays as it was. -/
theorem hubBoundaryTrained_awaits (d c : Nat) (s : State) (h4 : d < 4) (hc : c ∈ s.sys.untested) (hdie : dieOf c = d) :
    ∃ u, exec (.hubBoundaryTrained d) s = .next u ∧ smem u.sys.bounds d = true ∧ u.sys.dies = s.sys.dies := by
  refine ⟨_, exec_hubBoundaryTrained_of_compute d s h4, ?_⟩
  rw [State.serveDie_of_awaited (s.boundTrained d) d c hc hdie]
  exact ⟨by simp [State.boundTrained], rfl⟩

/-! ### The obligation -/

/-- Settles O52: each clause reads off what its event comes to. -/
theorem startUp : Obligations.StartUp := by
  unfold Obligations.StartUp
  refine ⟨fun n good s hs hn => ⟨_, exec_firmwareVerify n good s hs hn, rfl, ?_, ?_⟩, hubBoundaryTrained_serves, hubBoundaryTrained_awaits,
    fun d s h4 h8 => ⟨_, exec_hubBoundaryTrained_of_memory d s h4 h8, by simp, rfl, rfl⟩,
    fun n s hn => ⟨_, exec_stackTrained n s hn, by simp, fun m hm => by simp [hm], rfl, rfl⟩,
    fun s hs hf hb hm ht => ⟨_, exec_enterTwilight s hs hf hb hm ht, rfl, rfl, rfl, rfl⟩,
    fun n s _ hn h => exec_enterTwilight_of_unverified n s hn h,
    fun s hs hstack hdie hcore => ⟨_, exec_enterFullService s hs hstack hdie hcore, rfl, rfl, rfl, rfl⟩,
    exec_enterFullService_of_untrained, exec_enterFullService_of_untested,
    fun s hs ht h => ⟨_, exec_stackTrainingTimeout s hs ht h, rfl, rfl⟩⟩
  · rintro rfl
    simp
  · rintro rfl
    simp

end Sys2Proof.Machine
